-- ==== Sys2Proof/Word.lean ====
section
/-! DEFINITION. The plain number types of the package and the shape of a sparse table. -/

namespace Sys2Proof

/-- One byte of memory. -/
abbrev Byte := BitVec 8

/-- A sparse table from a Nat key to a value: keys strictly rising, no entry equal to the default. -/
abbrev Tab (α : Type) := List (Nat × α)

/-- Task context, 0 to 15 (R10, Lockstep issue). -/
abbrev CtxId := Fin 16
/-- Compute die, 0 to 3 (R10). -/
abbrev DieId := Fin 4
/-- Cluster, 0 to 15 (R10). -/
abbrev ClusterId := Fin 16
/-- Physical core, 0 to 143 (R10). -/
abbrev CoreId := Fin 144
/-- Logical core slot, 0 to 127 (R10). -/
abbrev SlotId := Fin 128
/-- Rinmuca stack, 0 to 11 (R10). -/
abbrev StackId := Fin 12
/-- Physical stack channel, 0 to 135 (R247). -/
abbrev ChanId := Fin 136
/-- Link port, 0 to 23 (R10). -/
abbrev PortId := Fin 24
/-- Till, 0 to 16 (R355). -/
abbrev TillId := Fin 17
/-- Crier as target number: A0, A1, B0, B1, D0 to D3 (R429). -/
abbrev CrierId := Fin 8
/-- Event source, 0 to 1,023 (R428). -/
abbrev SourceId := Fin 1024
/-- Pitch pool, 0 to 3 (R231). -/
abbrev PoolId := Fin 4
/-- Porter transfer entry, 0 to 511 (R271). -/
abbrev EntryId := Fin 512
/-- Codec stream slot of a unit, 0 to 15 (R385). -/
abbrev StreamId := Fin 16

end Sys2Proof
end

