-- ==== Sys2Proof/Syntax.lean ====
section
/-! DEFINITION. The commands of the block: one constructor of Instr per row of spec/opcode_table.json, with the
operands the spec gives the step. The fields of a slot operation are those of R39 to R43. -/

namespace Sys2Proof

/-- The MX slot's fields (R39) without OP, which the constructor names. -/
structure MxOp where
  mask : BitVec 4
  ldesc : BitVec 6
  baseA : BitVec 6
  baseB : BitVec 6
  baseC : BitVec 6
  stat : BitVec 2
  fmtA : BitVec 4
  fmtB : BitVec 4
  fmtC : BitVec 4
  preload : BitVec 2
  baseP : BitVec 6
  accInto : Bool
  sat : Bool
  swap : Bool
  accOff : BitVec 11
  baseM : BitVec 6
  full : Bool
  deriving DecidableEq, Repr

/-- The VX slot's fields (R40). -/
structure VxOp where
  mask : BitVec 4
  ldesc : BitVec 6
  baseA : BitVec 6
  baseB : BitVec 6
  baseC : BitVec 6
  fmtIn : BitVec 4
  fmtOut : BitVec 4
  sat : Bool
  stats : Bool
  arg : BitVec 16
  deriving DecidableEq, Repr

/-- The PT slot's fields (R40), and EXT where EXT_OWNER = 3 (zero otherwise). -/
structure PtOp where
  mask : BitVec 4
  ldesc : BitVec 6
  baseSrc : BitVec 6
  baseDst : BitVec 6
  frc : BitVec 3
  token : BitVec 12
  tokenEn : Bool
  oparg : BitVec 18
  ext : BitVec 48
  deriving DecidableEq, Repr

/-- The TX slot's fields (R40). -/
structure TxOp where
  mask : BitVec 4
  ldesc : BitVec 6
  baseSrc : BitVec 6
  baseDst : BitVec 6
  fmtIn : BitVec 4
  fmtOut : BitVec 4
  dual : Bool
  deriving DecidableEq, Repr

/-- A BELL's tokens and counts (R43, R50) with the bundle's CKPT and YIELD bits (R35). -/
structure BellOp where
  tok0 : BitVec 12
  cnt0 : BitVec 8
  tok1 : BitVec 12
  cnt1 : BitVec 8
  tok2 : BitVec 12
  cnt2 : BitVec 8
  ckpt : Bool
  yielding : Bool
  deriving DecidableEq, Repr

/-- Who sends a management write or read (R12, R13, R409, R437). -/
inductive Source where
  | host
  | crier (c : CrierId)
  deriving DecidableEq, Repr

/-- The detector of a fault report (R57, R81, R82, R440, R441). -/
inductive FaultKind where
  | accAdder
  | accSram
  | coreLogic
  | coreLost
  deriving DecidableEq, Repr

/-- A packet as a till reads it from its ring (R356): `check` is the CHECK field, `params` the parameter bytes. -/
structure Packet where
  opcode : BitVec 16
  flags : BitVec 16
  seq : BitVec 32
  paramLen : BitVec 16
  rsv10 : BitVec 48
  tag : BitVec 64
  rsv24 : BitVec 288
  check : BitVec 32
  params : List Byte
  deriving DecidableEq, Repr

/-- A link packet header (R299) with its payload. -/
structure LinkPacket where
  ctx : CtxId
  dest : Nat × Nat × Nat
  src : Nat × Nat × Nat
  epoch : BitVec 64
  step : BitVec 32
  tagSlot : SlotId
  tagEntry : BitVec 9
  tagGen : BitVec 4
  remoteToken : BitVec 12
  addr : BitVec 48
  payload : List Byte
  deriving DecidableEq, Repr

/-- The fields of a KIND 3 packet (R299, R330). -/
structure RedPacket where
  ctx : CtxId
  src : Nat × Nat × Nat
  epoch : BitVec 64
  step : BitVec 32
  tagSlot : SlotId
  tagEntry : BitVec 9
  tagGen : BitVec 4
  reduction : BitVec 11
  chunk : Nat
  stage : Fin 3
  substitute : Bool
  rank : Nat
  what : Bool
  count : Nat
  tally : Nat
  elems : List Int
  scales : List Byte
  data : List Byte
  deriving DecidableEq, Repr

/-- The parameters of RUN_TASK (R367). -/
structure RunParams where
  step : BitVec 32
  wdog : BitVec 32
  seed : BitVec 64
  record : BitVec 64
  scalars : List (BitVec 32)
  inputs : List (BitVec 64)
  deriving DecidableEq, Repr

/-- The parameters of STEP_REPLAY (R194), with the step record and tap list it names as the hub reads them. -/
structure ReplayParams where
  record : BitVec 64
  scope : BitVec 8
  taps : BitVec 8
  wdog : BitVec 32
  tapList : BitVec 64
  outRecord : BitVec 64
  deriving DecidableEq, Repr

/-- A write of a register that has no row of its own (REGISTER_WRITE): the register with its unit and the value. -/
inductive Reg where
  | streamWdog | streamQuantum
  | mxCtrl (c : CoreId) | mxFailWindow
  | fmtStewardCtrl | fmtStewardDefaults
  | bwdCtrl | barrowCap (t : CtxId) (k : SlotId)
  | actCtrl | convCtrl | attnCtrl | poolWait (p : PoolId)
  | stkCeLimit (s : StackId) | stkScrub (s : StackId)
  | homeCtrl
  | linkCtrl (p : PortId) | fabricCtrl | fabricTable (offset : BitVec 16)
  | redCtrl
  | hostCtrl | hostTier | hostWindow
  | tillRing (n : TillId) | cplRing (n : TillId)
  | msixEntry (v : BitVec 8) (upper : Bool) | msixControl
  | codecCtrl (d : DieId) | codecLimit (d : DieId)
  | crierWdog
  | evtSrc (n : SourceId)
  | errCtrl
  | sagCtrl | pwrCtrl
  | readOnly
  | unpopulated
  /-- the register at an offset of the management window (R30) -/
  | address (o : BitVec 32)
  deriving DecidableEq, Repr

/-- A decoded frame as the pixel engine holds it (R391): its planes by row, chroma at its own resolution; the chroma sample
location as signalled, in halves of a luma sample (0 co-sited, 1 centred); the signalled range and matrix, 0 where absent. -/
structure Picture where
  width : Nat
  height : Nat
  depth : Nat
  chroma : Nat
  loc : Option (Nat × Nat)
  planes : List (List Nat)
  fullRange : Bool
  matrix : Nat
  deriving DecidableEq, Repr

/-- The stream descriptor of R389, its fields as the unit reads them; `checkOk` is the outcome of CHECK. -/
structure StreamDesc where
  encode : Bool
  std : BitVec 8
  prio : BitVec 8
  mode : BitVec 8
  context : BitVec 8
  depth : BitVec 8
  chroma : BitVec 8
  level : BitVec 8
  width : BitVec 16
  height : BitVec 16
  rate : BitVec 32
  bitrate : BitVec 32
  bsSize : BitVec 32
  bsRing : BitVec 64
  ref : BitVec 64
  refSize : BitVec 64
  fmt : BitVec 8
  space : BitVec 8
  matrix : BitVec 8
  range : BitVec 8
  gain : List (BitVec 32)
  bias : List (BitVec 32)
  crop : List (BitVec 16)
  hs : BitVec 32
  ts : BitVec 64
  cs : BitVec 64
  inW : BitVec 16
  inH : BitVec 16
  orient : BitVec 8
  rc : BitVec 8
  qp : BitVec 8
  refs : BitVec 8
  gop : BitVec 32
  cands : BitVec 8
  refine : BitVec 8
  rangeX : BitVec 16
  rangeY : BitVec 16
  lambda : BitVec 16
  reservedZero : Bool
  checkOk : Bool
  deriving DecidableEq, Repr

/-- A codec job (R390). -/
structure Job where
  seq : BitVec 32
  frames : BitVec 16
  arrive : BitVec 8
  data : BitVec 64
  stats : BitVec 64
  step : BitVec 32
  token : BitVec 16
  pts : BitVec 64
  reservedZero : Bool
  checkOk : Bool
  deriving DecidableEq, Repr

/-- What an engine finished in a row of a codec picture (R386, R398, R399, R401): nothing of a frame yet, a decoded
frame, coded bytes, a stop of the stream with its R388 reason, or a check mismatch. -/
inductive RowResult where
  | partialRow
  | frame (f : Picture) (concealed : Bool)
  | coded (bytes : List Byte) (pictureEnd : Bool)
  | stop (reason : Fin 11)
  | mismatch
  deriving DecidableEq, Repr

/-- How a boot check of a bank came out (R481, R482). -/
structure BankImage where
  version : BitVec 32
  svn : Nat
  raise : Bool
  revoke : Bool
  headerDigest : BitVec 256
  loaderDigest : BitVec 256
  hubDigest : BitVec 256
  dieDigest : BitVec 256
  bytes : Nat
  formOk : Bool
  signature : List Byte
  publicKey : List Byte
  componentsOk : Bool
  deriving DecidableEq, Repr

/-- How a block access came out (R249, R251): `mismatch` rebuilds, `unrebuilt` cannot be rebuilt. -/
inductive AccessCheck where
  | clean
  | corrected
  | onDie
  | mismatch
  | unrebuilt
  deriving DecidableEq, Repr

/-- A taster or test result (R263, R375). -/
structure TasteResult where
  pass : Bool
  failing : Nat
  first : Nat
  last : Nat
  rows : Nat
  cols : Nat
  deriving DecidableEq, Repr

/-- A captured error record's variable fields (R452). -/
structure ErrRec where
  cls : BitVec 8
  level : BitVec 8
  action : BitVec 8
  status : BitVec 8
  location : BitVec 32
  cycle : BitVec 64
  epoch : BitVec 64
  step : BitVec 32
  detectNs : BitVec 32
  interruptNs : BitVec 32
  waitNs : BitVec 32
  detail : BitVec 32
  spare : BitVec 8
  context : BitVec 8
  flags : BitVec 8
  deriving DecidableEq, Repr

/-- Which clock was lost (R458). -/
inductive ClockId where
  | hubRoot
  | dieRoot (d : DieId)
  | dieSerdes (d : DieId)
  | cxlPll
  | refclk
  deriving DecidableEq, Repr

/-- A triplicated unit (R441). -/
inductive VotedUnit where
  | streamSequencer (d : DieId)
  | clusterController (c : ClusterId)
  deriving DecidableEq, Repr

/-- A cabled line between two packages of one dimension (R303): dimension, and the two coordinates. -/
structure LinkLine where
  dim : Fin 3
  here : Nat × Nat × Nat
  there : Nat × Nat × Nat
  deriving DecidableEq, Repr

/-- A ledger region written by records and marks (R420). -/
inductive Region where
  | config | maps | policy | counters | journal | errorLog | antiRollback
  deriving DecidableEq, Repr

/-- A layout table as RESHARD reads it from memory (R323): each BACKUP entry is none, or the backup's coordinate. -/
structure Layout where
  epoch : BitVec 64
  maskX : BitVec 32
  maskY : BitVec 32
  maskZ : BitVec 32
  members : Nat
  backups : List (Option (Nat × Nat × Nat))
  deriving DecidableEq, Repr

/-- A pitch pool as an image gives it (R231, R364): its number, its POOL_GEOM image (R246), the entries of its sequence table,
and the names of its pitch table, sequence table, SRAM region and stack region. -/
structure PoolPlace where
  pool : PoolId
  geom : BitVec 64
  seqs : Nat
  table : BitVec 48
  seq : BitVec 48
  sramAt : BitVec 48
  stackAt : BitVec 48
  deriving DecidableEq, Repr

/-- What the image gives beside the records whose layout the spec states: the name of each compiler-placed object by its position
in the object list (R280), and the pitch pools (R364 type 10). -/
structure Places where
  names : List (BitVec 48)
  pools : List PoolPlace
  deriving DecidableEq, Repr

/-- An engine of a core: 0 matrix, 1 vector, 2 transpose (R47). -/
structure EngineRef where
  core : CoreId
  engine : Fin 3
  deriving DecidableEq, Repr

/-- How a vector operation ended (R143, R144, R145): cycles in which its engine was busy, groups run again, and whether the parity of a
coefficient table failed. -/
structure VxEnd where
  busy : Nat
  retries : Nat
  parity : Bool
  deriving DecidableEq, Repr

/-- How a transpose operation ended (R144, R146): cycles in which its engine was busy, and tiles run again. -/
structure TxEnd where
  busy : Nat
  retries : Nat
  deriving DecidableEq, Repr

/-- A transfer that lands (R184, R271): its entry, and how many blocks the FRC unit coded again. -/
structure Landing where
  entry : EntryId
  recoded : Nat
  deriving DecidableEq, Repr

/-- The commands, one constructor per row of spec/opcode_table.json, in the table's order. -/
inductive Instr where
  -- writes that may wait in the hub for a die crier (R412)
  | registerWrite (src : Source) (r : Reg) (v : BitVec 64)
  | coreReset (src : Source) (c : CoreId)
  | clusterRetire (src : Source) (c : ClusterId) (bits : BitVec 9)
  | mxInject (src : Source) (c : CoreId)
  | vxInject (src : Source) (c : CoreId)
  | txInject (src : Source) (c : CoreId)
  | bankInject (src : Source) (p : PortId)
  -- bundle stream (02)
  | idleBundle (t : CtxId) (n : BitVec 16)
  | endBundle (t : CtxId)
  | smovi (t : CtxId) (dst : BitVec 5) (imm : BitVec 42)
  | sadd (t : CtxId) (dst src : BitVec 5) (imm : BitVec 42)
  | loop (t : CtxId) (level : BitVec 3) (src : BitVec 5) (imm : BitVec 42)
  | br (t : CtxId) (imm : BitVec 42)
  | brz (t : CtxId) (src : BitVec 5) (imm : BitVec 42)
  | brnz (t : CtxId) (src : BitVec 5) (imm : BitVec 42)
  | bset (t : CtxId) (dst : BitVec 5) (mask : BitVec 4) (imm : BitVec 42) (ext : Option (BitVec 48))
  | badd (t : CtxId) (dst src : BitVec 5) (mask : BitVec 4) (imm : BitVec 42)
  | brow (t : CtxId) (dst src : BitVec 5) (mask : BitVec 4) (imm : BitVec 42)
  | mload (t : CtxId) (dst : BitVec 4) (imm : BitVec 42)
  | bell (t : CtxId) (b : BellOp)
  | tclear (t : CtxId) (token : BitVec 12)
  | signal (t : CtxId) (arg : BitVec 8)
  | tokenArrival (t : CtxId) (token : BitVec 12)
  | bellRelease (t : CtxId) (waited : Nat)
  | bellWatchdogExpiry (t : CtxId)
  | engineLate (at_ : EngineRef)
  | issueHoldEnd (held : Nat)
  | issueHoldTimeout (c : CoreId)
  | ckptLimitExceeded (t : CtxId)
  | ckptSpacingHoldEnd (t : CtxId) (held : Nat)
  | faultReport (t : CtxId) (k : SlotId) (older : Bool) (kind : FaultKind)
  | soloReplayStart
  | soloReplayEnd (replayed waits : Nat)
  | quantumExpiry
  | preemption (t : CtxId)
  | preemptDrainDone
  | taskSwitch
  | taskResume
  | taskEnd (t : CtxId)
  | contextFree (t : CtxId)
  -- matrix engine (03)
  | mma (t : CtxId) (o : MxOp)
  | sload (t : CtxId) (o : MxOp)
  | sloadComplete (t : CtxId) (k : SlotId)
  | accwrite (t : CtxId) (o : MxOp)
  | acczero (t : CtxId) (o : MxOp)
  | bankSwap (t : CtxId) (k : SlotId) (held : Nat)
  | mxOpComplete (c : CoreId) (busy : Nat)
  | arrayRampDown (c : CoreId)
  | rampDownEnd (c : CoreId)
  | throttlePause (d : DieId)
  | pauseRelease (d : DieId) (cycles : Nat)
  | tileRefeed (c : CoreId)
  -- convolution (09)
  | conv (t : CtxId) (o : MxOp)
  | convt (t : CtxId) (o : MxOp)
  | convwg4 (t : CtxId) (o : MxOp)
  | convwg2 (t : CtxId) (o : MxOp)
  | convdw (t : CtxId) (o : MxOp)
  -- attention (10)
  | attn (t : CtxId) (o : MxOp)
  | attnFin (t : CtxId) (o : MxOp)
  | attnBwd (t : CtxId) (o : MxOp)
  | kvAppend (t : CtxId) (o : MxOp)
  | attnDec (t : CtxId) (o : MxOp)
  -- vector engine (06)
  | add (t : CtxId) (o : VxOp)
  | sub (t : CtxId) (o : VxOp)
  | mul (t : CtxId) (o : VxOp)
  | fma (t : CtxId) (o : VxOp)
  | max (t : CtxId) (o : VxOp)
  | min (t : CtxId) (o : VxOp)
  | scale (t : CtxId) (o : VxOp)
  | offset (t : CtxId) (o : VxOp)
  | cvt (t : CtxId) (o : VxOp)
  | select (t : CtxId) (o : VxOp)
  | redsum (t : CtxId) (o : VxOp)
  | redmax (t : CtxId) (o : VxOp)
  | redsumsq (t : CtxId) (o : VxOp)
  | ksum (t : CtxId) (o : VxOp)
  | expsub (t : CtxId) (o : VxOp)
  | recip (t : CtxId) (o : VxOp)
  | sqrt (t : CtxId) (o : VxOp)
  | rsqrt (t : CtxId) (o : VxOp)
  | exp (t : CtxId) (o : VxOp)
  | log (t : CtxId) (o : VxOp)
  | sigmoid (t : CtxId) (o : VxOp)
  | tanh (t : CtxId) (o : VxOp)
  | gelu (t : CtxId) (o : VxOp)
  | silu (t : CtxId) (o : VxOp)
  | rngu (t : CtxId) (o : VxOp)
  | rngn (t : CtxId) (o : VxOp)
  | dropmask (t : CtxId) (o : VxOp)
  | optstep (t : CtxId) (o : VxOp)
  | vxOpComplete (c : CoreId) (ended : VxEnd)
  -- transpose engine (06)
  | tcopy (t : CtxId) (o : TxOp)
  | tblock (t : CtxId) (o : TxOp)
  | txOpComplete (c : CoreId) (ended : TxEnd)
  -- porter (12), links (13), reduction (14), barrow (07)
  | copy (t : CtxId) (o : PtOp)
  | encode (t : CtxId) (o : PtOp)
  | decode (t : CtxId) (o : PtOp)
  | ring (t : CtxId) (o : PtOp)
  | lsend (t : CtxId) (o : PtOp)
  | rxmax (t : CtxId) (o : PtOp)
  | rsend (t : CtxId) (o : PtOp)
  | rgather (t : CtxId) (o : PtOp)
  | bpush (t : CtxId) (o : PtOp)
  | bpushoff (t : CtxId) (o : PtOp)
  | bpushrc (t : CtxId) (o : PtOp)
  | bpop (t : CtxId) (o : PtOp)
  | transferIssue (c : CoreId) (e : EntryId)
  | transferLanded (c : CoreId) (e : Landing)
  | transferFault (c : CoreId) (e : EntryId) (poisoned : Bool)
  | hostTimeout (c : CoreId) (e : EntryId)
  | responseDiscard (c : CoreId) (e : EntryId) (gen : BitVec 4)
  | cancelComplete (t : CtxId)
  | spillDone (t : CtxId) (k : SlotId) (unit : Nat)
  | pushResume (t : CtxId) (k : SlotId)
  | refillDone (t : CtxId) (k : SlotId) (unit : Nat)
  | protectRelease (t : CtxId) (k : SlotId)
  | prefetchBackLanded (t : CtxId) (k : SlotId) (index : Nat)
  | hostWriteAck (t : CtxId) (k : SlotId) (index : Nat)
  -- run diagnostics (04, 08)
  | stewardPass (t : CtxId)
  | stepReplay (t : CtxId) (p : ReplayParams)
  | replayStop (t : CtxId)
  | tapDumpLanded (t : CtxId)
  | poolWaitExpiry (t : CtxId) (p : PoolId)
  -- stacks (11)
  | stackRead (a : BitVec 48) (len : BitVec 13) (consumer : Option CtxId) (chk : AccessCheck)
  | stackWrite (a : BitVec 48) (data : List Byte)
  | channelFailed (s : StackId) (x : ChanId)
  | channelCut (s : StackId) (x : ChanId)
  | relocateDone (s : StackId) (x : ChanId)
  | reformDone (s : StackId) (x : ChanId) (kib : Nat) (holdup : BitVec 10)
  | channelDrainEnd (s : StackId) (x : ChanId)
  | resilverDone (s : StackId) (x : ChanId)
  | tasteChannel (s : StackId) (x : ChanId) (pattern : BitVec 8)
  | tasteDone (s : StackId) (r : TasteResult)
  | repairStack (s : StackId) (x : ChanId) (kib : Nat) (holdup : BitVec 10)
  | repairStepDone (r : TasteResult) (kib : Nat) (holdup : BitVec 10)
  | repairJournalResolve (kept : Bool) (kib : Nat) (holdup : BitVec 10)
  | stackTraining (failed : List (StackId × ChanId)) (kept : Bool)
  | scrubPass (s : StackId) (parityFixed : Nat)
  -- homes (12)
  | moveObject (handle : BitVec 64) (tier : BitVec 8) (die : BitVec 8)
  | moveUnit
  | hintPlacement (context : BitVec 8) (hint : BitVec 8) (number : BitVec 16) (apply : BitVec 8)
  -- fabric (13)
  | flitReceive (p : PortId) (seq : BitVec 12) (ack : BitVec 12) (nak : Bool) (credit : BitVec 12) (payload : List Byte) (crcOk : Bool)
  | flitNak (p : PortId) (seq : BitVec 12)
  | laneFail (p : PortId) (lane : Fin 11)
  | laneSwapDone (p : PortId)
  | portDown (p : PortId)
  | portRetrainTimer (p : PortId)
  | linkWritePacket (p : PortId) (k : LinkPacket)
  | linkTokenPacket (p : PortId) (k : LinkPacket)
  | linkWriteAck (p : PortId) (t : CtxId) (k : SlotId) (entry : BitVec 9) (token : Bool)
  | linkRefusal (p : PortId) (t : CtxId) (k : SlotId) (entry : BitVec 9) (reason : BitVec 8) (resource : BitVec 3)
  | packetForward (p : PortId) (hops : BitVec 3) (k : LinkPacket)
  | linkDownNotice (l : LinkLine)
  | heldPacketResend (p : PortId)
  | linkTrainingDone (p : PortId) (failedLanes : Nat)
  | identityExchange (p : PortId) (chainOk sigOk : Bool) (peer : BitVec 256) (digest : BitVec 256)
  | coordRound (links : List LinkLine)
  | readyNotice (coord : Nat × Nat × Nat) (digest : BitVec 256)
  | fabricWaitExpiry
  | portJoin (p : PortId)
  | fabricLeave (src : Source)
  | leaveForwardEnd
  | leaveNotice (coord : Nat × Nat × Nat)
  | fabricResolve (src : Source)
  | linkRetrain (src : Source) (p : PortId)
  -- reduction (14)
  | reductionAddPacket (p : PortId) (k : RedPacket)
  | reductionMaxPacket (p : PortId) (k : RedPacket)
  | handoffFrameWrite (t : CtxId) (reduction : BitVec 11) (chunk : Nat)
  | reductionReturnPacket (p : PortId) (k : RedPacket)
  | reductionRequest (p : PortId) (k : RedPacket) (add : Bool)
  | stageDeadline (p : PortId) (t : CtxId) (reduction : BitVec 11) (chunk : Nat) (add : Bool)
  | tallyAbortNotice (t : CtxId) (reduction : BitVec 11) (stage : BitVec 2)
  | reshard (context : CtxId) (layout : BitVec 64)
  -- management packets (15)
  | haggle (version : BitVec 16) (features : BitVec 64) (reply : BitVec 64)
  | statusPeek (page : BitVec 16) (reply : BitVec 64) (doe : Bool)
  | hostMap (tierOffset tierSize winName winSize : BitVec 64)
  | selfTest (scope : BitVec 8) (index : BitVec 16)
  | testStart
  | selfTestDone (failed : List CoreId) (others : Nat)
  | testDeferExpiry
  | fwStage (image : BankImage) (bytes : BitVec 64) (digest : BitVec 256) (actual : BitVec 256) (writeOk : Bool) (kib : Nat) (holdup : BitVec 10)
  | fwActivate (version : BitVec 32)
  | fwStandbyBooted (ok : Bool)
  | fwQuiesced
  | fwAdopt (ok : Bool)
  | fwBankCommit (kib : Nat) (holdup : BitVec 10)
  | fwRejoinDone
  | emergencyClear
  | fwDeferExpiry
  | ledgerCommit (scope : BitVec 8) (kib : List Nat) (holdup : List (BitVec 10))
  | loadProgram (t : CtxId) (image : List Byte) (bytes : BitVec 64) (digest : BitVec 256) (places : Places)
  | unloadProgram (t : CtxId)
  | runTask (t : CtxId) (p : RunParams)
  | taskStart (t : CtxId)
  | abortTask (t : CtxId) (earlier : List Packet) (k : Packet)
  -- host interface (15)
  | tillDoorbell (n : TillId) (tail : BitVec 32)
  | packetTake (n : TillId) (k : Packet)
  | tillEnable (n : TillId) (base : BitVec 36) (log2 : BitVec 5)
  | cplHeadAdvance (n : TillId) (head : BitVec 32)
  | doeDiscovery (index : BitVec 8)
  | cdatAccess
  | doeAttestation (kind : BitVec 8) (reserved : BitVec 24) (nonce : BitVec 256)
  | cxlMemRead (x : BitVec 48) (len : BitVec 16)
  | cxlMemWrite (x : BitVec 48) (data : List Byte)
  | cxlSnoop
  | cxlLinkDown (slow : Bool)
  | cxlLinkUp (rate : BitVec 3) (width : BitVec 5)
  | cxlConventionalReset
  | msixUnmask (v : BitVec 8)
  -- codec (16)
  | codecPoll (d : DieId) (s : StreamId) (req : BitVec 8) (reqSeq : BitVec 8) (jobTail bsTail recHead : BitVec 32)
  | streamOpen (d : DieId) (s : StreamId) (x : StreamDesc)
  | streamClose (d : DieId) (s : StreamId)
  | codecJob (d : DieId) (s : StreamId) (j : Job)
  | codecRowDone (d : DieId) (s : StreamId) (pixel : Bool) (consumed : Nat) (r : RowResult)
  | pictureTimeLimit (d : DieId) (s : StreamId)
  -- criers, firmware, awning, ledger (17)
  | heartbeat (c : CrierId)
  | leaseExpiry
  | leaseRequest (b : Bool)
  | contentionWindowEnd
  | leaseYield (src : Source)
  | mirrorApply
  | crierWatchdogExpiry (c : CrierId)
  | crierCrash (c : CrierId)
  | crierRestored (c : CrierId)
  | thermalThrottleStep (d : DieId) (temp : BitVec 8)
  | throttleStepUp (d : DieId) (temp : BitVec 8)
  | thermalTrip (d : DieId) (temp : BitVec 8)
  | powerWindow (watts : Nat)
  | powerStepUp (d : DieId)
  | railCurrentLimit (rail : Fin 7) (d : DieId)
  | dividerSwitch (d : DieId)
  | awningLimitWrite (src : Source) (v : BitVec 32)
  | firmwareCommit (r : Region) (kib : Nat) (holdup : BitVec 10)
  | pendingCommitRetry (holdup : BitVec 10)
  | ledgerCompaction (r : Region)
  | counterCommit (kib : Nat) (holdup : BitVec 10)
  | ledgerRestore (valid : List Region)
  -- events (18)
  | eventRaise (n : SourceId) (code : BitVec 32)
  | eventDelivery (maskedMeanwhile : Bool)
  | evtPendSet (src : Source) (g : Fin 32) (bits : BitVec 32)
  | evtPendClr (src : Source) (g : Fin 32) (bits : BitVec 32)
  | evtMaskSet (src : Source) (g : Fin 32) (bits : BitVec 32)
  | evtMaskClr (src : Source) (g : Fin 32) (bits : BitVec 32)
  | evtCrierSet (src : Source) (bits : BitVec 8)
  | evtCrierClr (src : Source) (bits : BitVec 8)
  | evtClaim (src : Source)
  -- reliability (19)
  | sramScrub (c : ClusterId) (rows cols : Nat) (bad : List Nat)
  | sequencerPairMismatch (c : CoreId)
  | engineProgressTimeout (c : CoreId)
  | voteDissent (u : VotedUnit) (copy : Fin 3)
  | predictiveRetire (c : CoreId)
  | errorRecordMove
  | errorLogAppend (kib : Nat) (holdup : BitVec 10)
  | counterTotals
  -- clocks, power, reset (20)
  | clockLoss (k : ClockId) (commit : Bool)
  | sagWarning (rail : Fin 7) (d : DieId)
  | sagRecovery (rail : Fin 7) (d : DieId)
  | sagStepUp (d : DieId)
  | sagReset (rail : Fin 7) (d : DieId) (commit : Bool)
  | shutterEntry (d : DieId)
  | shutterWake (d : DieId)
  | pwrEnterClose (src : Option Source)
  | pwrEnterDark (src : Option Source)
  | closeEntry
  | closeWake
  | darkEntry
  | darkWake (saveOk : Bool)
  | coldReset (commit : Bool)
  | warmReset (commit : Bool)
  | packageSoftReset (src : Source) (commit : Bool)
  | dieReset (src : Option Source) (d : DieId)
  | coreCheckDone (c : CoreId) (pass : Bool)
  | startupPublish
  -- security (21)
  | hubBoot (b : Bool) (romDigest : BitVec 256) (bank0 bank1 : BankImage)
  | dieCrierBoot (d : DieId) (img : BankImage) (digest : BitVec 256)
  | recoveryPackageLoad (img : BankImage)
  | svnRaise (kib : Nat) (holdup : BitVec 10)
  -- register writes with a row of their own
  | policyEntryWrite (src : Source) (t : CtxId) (i : Fin 64) (entry : BitVec 128)
  -- register reads that clear
  | streamStallRead (d : DieId)
  | streamHoldRead (d : DieId)
  | mxSwapHoldRead (c : CoreId)
  | mxPauseRead (c : CoreId)
  | mxBusyRead (c : CoreId)
  | vxBusyRead (c : CoreId)
  | txBusyRead (c : CoreId)
  | bwdSkipRead (c : CoreId)
  | barrowTrafficRead (t : CtxId) (k : SlotId)
  | hostOffloadRead
  | frcStatsRead (c : CoreId)
  | convSkipRead (c : CoreId)
  | attnSkipRead (c : CoreId)
  | poolCountRead (p : PoolId)
  | stkErrorsRead (s : StackId)
  | porterBytesRead (c : CoreId)
  | porterDiscardRead (c : CoreId)
  | porterHomemissRead (c : CoreId)
  | linkErrorsRead (p : PortId)
  | linkTrafficRead (p : PortId)
  | linkRefusedRead (p : PortId)
  | redStatusRead
  | redBankCountRead (p : PortId)
  | hostLinkRead
  | codecCountRead (d : DieId)
  | awningCountRead
  | evtStatusRead
  | errStatusRead
  | clkStatusRead
  | sagStatusRead
  | pwrStatusRead
  | resetCauseRead
  | secStatusRead
  -- the rows the table lists last
  | resetNRelease
  | portReturnNotice (l : LinkLine)
  | absentNotice (coord : Nat × Nat × Nat)
  deriving DecidableEq, Repr

end Sys2Proof
end

