-- ==== Sys2Proof/Decode.lean ====
section
/-! DEFINITION. Commands as the opcode table's bits spell them. -/

namespace Sys2Proof

/-- The command that a word spells by the bits of spec/opcode_table.json. The table gives no row bits, so no word spells
a command. -/
def decodeTableWord (_nbits _w : Nat) : Option Instr := none

end Sys2Proof
end

