-- ==== Sys2Proof/Machine/Bits.lean ====
section
/-! DEFINITION. Bit-field, byte-order and counting helpers. -/

namespace Sys2Proof.Machine

/-- Bit `i` of the number `x`. -/
def bit (x i : Nat) : Bool := x.testBit i

/-- Bits [hi:lo] of the number `x`. -/
def field (x hi lo : Nat) : Nat := (x / 2 ^ lo) % 2 ^ (hi + 1 - lo)

/-- One for true, zero for false. -/
def b2n (b : Bool) : Nat := if b then 1 else 0

/-- A value placed at bit `lo` of a register image, cut to `w` bits. -/
def put (lo w v : Nat) : Nat := (v % 2 ^ w) * 2 ^ lo

/-- A counter of `w` bits that saturates (said so by its rule). -/
def satAdd (w x n : Nat) : Nat := min (x + n) (2 ^ w - 1)

/-- A little-endian number from its bytes (R7). -/
def leNat : List Byte → Nat
  | [] => 0
  | b :: r => b.toNat + 256 * leNat r

/-- The `n` little-endian bytes of a number (R7). -/
def leBytes : Nat → Nat → List Byte
  | 0, _ => []
  | n + 1, x => BitVec.ofNat 8 x :: leBytes n (x / 256)

/-- The number of `w` bits `x`, read as two's complement. -/
def sext (w x : Nat) : Int :=
  let y := x % 2 ^ w
  if y < 2 ^ (w - 1) then (y : Int) else (y : Int) - 2 ^ w

/-- An integer taken modulo `2 ^ w`. -/
def wrapInt (w : Nat) (x : Int) : Nat := (x % (2 ^ w : Nat)).toNat

/-- `n / d` rounded up. -/
def ceilDiv (n d : Nat) : Nat := (n + d - 1) / d

/-- The positions below `n` at which `f` holds, in ascending order. -/
def which (n : Nat) (f : Nat → Bool) : List Nat := (List.range n).filter f

/-- The least multiple of `m` that is at least `n`. -/
def roundUp (n m : Nat) : Nat := ceilDiv n m * m

/-- The bytes at offset `o`, `n` of them; bytes past the end read as zero. -/
def slice (l : List Byte) (o n : Nat) : List Byte :=
  let t := (l.drop o).take n
  t ++ List.replicate (n - t.length) 0

/-- The little-endian number of `n` bytes at offset `o` of a structure. -/
def leAt (l : List Byte) (o n : Nat) : Nat := leNat (slice l o n)

/-- The bytes at offset `o`, `n` of them, are all zero. -/
def zerosAt (l : List Byte) (o n : Nat) : Bool := (slice l o n).all (· == 0)

end Sys2Proof.Machine
end

