-- ==== Sys2Proof/Machine/Num.lean ====
section
/-! DEFINITION. Numbers: the format codes and their encodings (R87), exact values, and the one rounding rule with its
overflow table (R93 to R95). -/

namespace Sys2Proof.Machine

/-- The formats of R87 that hold elements; BLK40 is the reduction's own. -/
inductive Fmt where
  | fp32 | bf16 | fp16 | e4m3 | e5m2 | e3m2 | e2m3 | e2m1 | int8 | int4 | blk40
  deriving DecidableEq, Repr

/-- The format of a code; codes 0xB to 0xF are reserved. -/
def Fmt.ofCode : Nat → Option Fmt
  | 0 => some .fp32 | 1 => some .bf16 | 2 => some .fp16 | 3 => some .e4m3 | 4 => some .e5m2 | 5 => some .e3m2
  | 6 => some .e2m3 | 7 => some .e2m1 | 8 => some .int8 | 9 => some .int4 | 10 => some .blk40 | _ => none

def Fmt.code : Fmt → Nat
  | .fp32 => 0 | .bf16 => 1 | .fp16 => 2 | .e4m3 => 3 | .e5m2 => 4 | .e3m2 => 5 | .e2m3 => 6 | .e2m1 => 7
  | .int8 => 8 | .int4 => 9 | .blk40 => 10

/-- Element width in bits; BLK40 has none of its own (R318). -/
def Fmt.bits : Fmt → Nat
  | .fp32 => 32 | .bf16 => 16 | .fp16 => 16 | .e4m3 => 8 | .e5m2 => 8 | .e3m2 => 6 | .e2m3 => 6 | .e2m1 => 4
  | .int8 => 8 | .int4 => 4 | .blk40 => 8

def Fmt.isInt : Fmt → Bool
  | .int8 | .int4 => true
  | _ => false

/-- Mantissa bits, exponent bias and the bits of the largest finite magnitude (R87). -/
def Fmt.mant : Fmt → Nat
  | .fp32 => 23 | .bf16 => 7 | .fp16 => 10 | .e4m3 => 3 | .e5m2 => 2 | .e3m2 => 2 | .e2m3 => 3 | .e2m1 => 1 | _ => 0
def Fmt.bias : Fmt → Nat
  | .fp32 => 127 | .bf16 => 127 | .fp16 => 15 | .e4m3 => 7 | .e5m2 => 15 | .e3m2 => 3 | .e2m3 => 1 | .e2m1 => 1 | _ => 0
def Fmt.maxBits : Fmt → Nat
  | .fp32 => 0x7F7FFFFF | .bf16 => 0x7F7F | .fp16 => 0x7BFF | .e4m3 => 0x7E | .e5m2 => 0x7B | .e3m2 => 0x1F
  | .e2m3 => 0x1F | .e2m1 => 0x7 | .int8 => 127 | .int4 => 7 | .blk40 => 0

/-- The infinity of a format that has one. -/
def Fmt.infBits : Fmt → Option Nat
  | .fp32 => some 0x7F800000 | .bf16 => some 0x7F80 | .fp16 => some 0x7C00 | .e5m2 => some 0x7C | _ => none

/-- What a NaN converts to (R95); formats without a NaN store zero bits, which only blocked conversion meets (R93). -/
def Fmt.nanBits : Fmt → Nat
  | .fp32 => 0x7FC00000 | .bf16 => 0x7FC0 | .fp16 => 0x7E00 | .e4m3 => 0x7F | .e5m2 => 0x7E | _ => 0

/-- A value: NaN, an infinity, or plus or minus `m` times 2 to the `e`; zeros are signed. -/
inductive Num where
  | nan
  | inf (neg : Bool)
  | fin (neg : Bool) (m : Nat) (e : Int)
  deriving DecidableEq, Repr

def Num.zero : Num := .fin false 0 0
def Num.one : Num := .fin false 1 0
def Num.ofInt (i : Int) : Num := .fin (decide (i < 0)) i.natAbs 0

def Num.isZero : Num → Bool
  | .fin _ m _ => m == 0
  | _ => false
def Num.isNan : Num → Bool
  | .nan => true
  | _ => false
def Num.isInf : Num → Bool
  | .inf _ => true
  | _ => false
def Num.isNeg : Num → Bool
  | .nan => false
  | .inf s => s
  | .fin s _ _ => s

def Num.negate : Num → Num
  | .nan => .nan
  | .inf s => .inf (!s)
  | .fin s m e => .fin (!s) m e

def Num.abs : Num → Num
  | .nan => .nan
  | .inf _ => .inf false
  | .fin _ m e => .fin false m e

/-- The signed integer that `fin s m e` is of the unit 2 to the `q`, for `q ≤ e`. -/
def scaled (s : Bool) (m : Nat) (e q : Int) : Int :=
  let v : Int := (m * 2 ^ (e - q).toNat : Nat)
  if s then -v else v

/-- The exact sum; an exact sum of opposite values is +0 and a sum of two negative zeros is -0 (R94). -/
def Num.add : Num → Num → Num
  | .nan, _ => .nan
  | _, .nan => .nan
  | .inf a, .inf b => if a = b then .inf a else .nan
  | .inf a, _ => .inf a
  | _, .inf b => .inf b
  | .fin a m e, .fin b n f =>
    if m = 0 ∧ n = 0 then .fin (a && b) 0 0
    else
      let q := min e f
      let v := scaled a m e q + scaled b n f q
      if v = 0 then .fin false 0 0 else .fin (decide (v < 0)) v.natAbs q

def Num.sub (x y : Num) : Num := Num.add x y.negate

/-- The exact product; an infinity times zero is NaN (IEEE 754). -/
def Num.mul : Num → Num → Num
  | .nan, _ => .nan
  | _, .nan => .nan
  | .inf a, .inf b => .inf (a != b)
  | .inf a, .fin b n _ => if n = 0 then .nan else .inf (a != b)
  | .fin a m _, .inf b => if m = 0 then .nan else .inf (a != b)
  | .fin a m e, .fin b n f => .fin (a != b) (m * n) (e + f)

/-- Compare magnitudes and signs: `x < y`; false with a NaN; zeros are equal. -/
def Num.lt : Num → Num → Bool
  | .nan, _ => false
  | _, .nan => false
  | .inf a, .inf b => a && !b
  | .inf a, .fin _ _ _ => a
  | .fin _ _ _, .inf b => !b
  | .fin a m e, .fin b n f => decide (scaled a m e (min e f) < scaled b n f (min e f))

/-- The floor of the base-2 logarithm of a nonzero magnitude `m` times 2 to the `e`. -/
def ilog2 (m : Nat) (e : Int) : Int := (Nat.log2 m : Int) + e

/-- `m` times 2 to the `e` as a whole number of units 2 to the `q`, to nearest with ties to even (R94). -/
def roundUnits (m : Nat) (e q : Int) : Nat :=
  if q ≤ e then m * 2 ^ (e - q).toNat
  else
    let k := (q - e).toNat
    let n := m / 2 ^ k
    let r := m % 2 ^ k
    if 2 * r < 2 ^ k then n
    else if 2 ^ k < 2 * r then n + 1
    else if n % 2 = 0 then n else n + 1

/-- The magnitude bits of a finite value rounded into a floating format, before the overflow rule: the encoding is
monotone, so a result above `maxBits` is an overflow. -/
def Fmt.roundMag (f : Fmt) (m : Nat) (e : Int) : Nat :=
  if m = 0 then 0
  else
    let emin : Int := 1 - (f.bias : Int) - (f.mant : Int)
    let q := max (ilog2 m e - (f.mant : Int)) emin
    (q - emin).toNat * 2 ^ f.mant + roundUnits m e q

/-- The sign bit of a floating format. -/
def Fmt.signBit (f : Fmt) : Nat := 2 ^ (f.bits - 1)

/-- What an overflow stores (R95). -/
def Fmt.overflow (f : Fmt) (neg sat : Bool) : Nat :=
  let s := if neg then f.signBit else 0
  if sat then s + f.maxBits
  else match f.infBits with
    | some i => s + i
    | none => if f = .e4m3 then f.nanBits else s + f.maxBits

/-- The two's-complement bits of an integer format. -/
def Fmt.intBits (f : Fmt) (v : Int) : Nat := wrapInt f.bits v

/-- Round a finite value to an integer, ties to even. -/
def roundInt (neg : Bool) (m : Nat) (e : Int) : Int :=
  let n : Int := (roundUnits m e 0 : Nat)
  if neg then -n else n

/-- Unblocked conversion into a format under SAT (R94, R95). -/
def Fmt.encode (f : Fmt) (sat : Bool) (x : Num) : Nat :=
  if f.isInt then
    let hi : Int := f.maxBits
    match x with
    | .nan => 0
    | .inf s => f.intBits (if s then -hi - 1 else hi)
    | .fin s m e => f.intBits (max (-hi - 1) (min hi (roundInt s m e)))
  else match x with
    | .nan => f.nanBits
    | .inf s => f.overflow s sat
    | .fin s m e =>
      let b := f.roundMag m e
      if f.maxBits < b then f.overflow s sat else (if s then f.signBit else 0) + b

/-- The value of an element's bits, unscaled (R87). -/
def Fmt.decode (f : Fmt) (b : Nat) : Num :=
  if f.isInt then Num.ofInt (sext f.bits b)
  else
    let s := decide (f.signBit ≤ b % 2 ^ f.bits)
    let g := b % f.signBit
    if f.maxBits < g then
      (match f.infBits with
       | some i => if g = i then .inf s else .nan
       | none => .nan)
    else
      let ex := g / 2 ^ f.mant
      let fr := g % 2 ^ f.mant
      let emin : Int := 1 - (f.bias : Int) - (f.mant : Int)
      if ex = 0 then .fin s fr emin else .fin s (2 ^ f.mant + fr) (emin + ex - 1)

/-- A value rounded to FP32, overflowing to infinity: the result of every FP32 step (R94; log entry 10). -/
def fp32 (x : Num) : Num := Fmt.fp32.decode (Fmt.fp32.encode false x)

/-- FP32 bits of a value. -/
def fp32Bits (x : Num) : Nat := Fmt.fp32.encode false x

/-! ### Block scales -/

/-- What an integer element's unit is under a block scale (R90): 2 to the minus this. -/
def Fmt.intShift : Fmt → Int
  | .int8 => 6
  | .int4 => 2
  | _ => 0

/-- A blocked element under its E8M0 scale byte (R90). -/
def Fmt.decodeBlocked (f : Fmt) (scale b : Nat) : Num :=
  if scale = 0xFF then .nan
  else Num.mul (f.decode b) (.fin false 1 ((scale : Int) - 127 - f.intShift))

/-- e_max of R93. -/
def Fmt.emax : Fmt → Int
  | .e4m3 => 8 | .e5m2 => 15 | .e3m2 => 4 | .e2m3 => 2 | .e2m1 => 2 | _ => 0

/-- An infinity counts as FP32 max under SAT = 1 (R93). -/
def satInf (sat : Bool) : Num → Num
  | .inf s => if sat then .fin s (2 ^ 24 - 1) 104 else .inf s
  | x => x

/-- The largest magnitude of a block. -/
def amaxOf (l : List Num) : Num := l.foldl (fun acc x => if Num.lt acc x.abs then x.abs else acc) .zero

/-- The scale byte of a block (R93), chosen from its valid lanes. -/
def blockScale (f : Fmt) (sat : Bool) (valid : List Num) : Nat :=
  let l := valid.map (satInf sat)
  if l.any (fun x => x.isNan || x.isInf) then 0xFF
  else match amaxOf l with
    | .fin _ m e =>
      if m = 0 then 0
      else
        let es := max (-127) (min 127 (ilog2 m e - f.emax))
        (es + 127).toNat
    | _ => 0xFF

/-- One element of a block with scale byte `scale` (R93): zero bits in a NaN block, clamped to the largest magnitude
otherwise, symmetric for integers. -/
def Fmt.encodeBlocked (f : Fmt) (sat : Bool) (scale : Nat) (x : Num) : Nat :=
  if scale = 0xFF then 0
  else match satInf sat x with
    | .fin s m e =>
      let e' := e - ((scale : Int) - 127) + f.intShift
      if f.isInt then
        let hi : Int := f.maxBits
        f.intBits (max (-hi) (min hi (roundInt s m e')))
      else (if s then f.signBit else 0) + min f.maxBits (f.roundMag m e')
    | _ => 0

/-! ### Correctly rounded quotients and roots -/

/-- A quotient with a sticky bit, exact enough that rounding it to FP32 rounds the quotient (R133). -/
def Num.divide : Num → Num → Num
  | .nan, _ => .nan
  | _, .nan => .nan
  | .inf _, .inf _ => .nan
  | .inf a, .fin b _ _ => .inf (a != b)
  | .fin a _ _, .inf b => .fin (a != b) 0 0
  | .fin a m e, .fin b n f =>
    if n = 0 then (if m = 0 then .nan else .inf (a != b))
    else if m = 0 then .fin (a != b) 0 0
    else
      let k := 64 + Nat.log2 n
      let q := m * 2 ^ k / n
      let r := m * 2 ^ k % n
      .fin (a != b) (2 * q + b2n (decide (r ≠ 0))) (e - f - k - 1)

/-- A square root with a sticky bit (R133); of a negative number NaN, of a zero that zero. -/
def Num.root : Num → Num
  | .nan => .nan
  | .inf s => if s then .nan else .inf false
  | .fin s m e =>
    if m = 0 then .fin s 0 0
    else if s then .nan
    else
      -- make the exponent even, then widen by 2 to the 128
      let odd := decide (e % 2 ≠ 0)
      let m' := if odd then 2 * m else m
      let e' := if odd then e - 1 else e
      let w := m' * 2 ^ 128
      let r := Nat.sqrt w
      .fin false (2 * r + b2n (decide (r * r ≠ w))) (e' / 2 - 64 - 1)

end Sys2Proof.Machine
end

