-- ==== Sys2Proof/Config.lean ====
section
/-! DEFINITION. What an implementation fixes and the values the spec leaves open. Each opaque constant is a free value:
nothing in Lean can evaluate it. -/

namespace Sys2Proof.Config

/-- A fresh open value: the n-th one the machine takes (log entry 1). -/
opaque free : Nat → Nat

/-- A function of R133 on the bits of a finite FP32 operand: `op` is the VX OP (GELU's tanh form 0x124), 0x133 the cosine
of R134. Each is a fixed function of its input bits; how it rounds within its 2 ulp is open (log entry 15). -/
opaque func : Nat → Nat → Nat

/-- The 64-bit hash of a run of bundle addresses that the stream sequencers compare (R48); the spec does not give it. -/
opaque seqHash : List Nat → BitVec 64

/-- The board's identity certificates (R486, R488): device certificate, then the CA certificate, in DER form. -/
opaque certificates : List Byte × List Byte

end Sys2Proof.Config
end

