-- ==== Sys2Proof/Machine/State.lean ====
section
/-! DEFINITION. State: everything the spec gives the package, as plain data; Fault, Refusal and State.reset. The
chapter of spec/ that names a group stands in the heading above it. A numbered unit's table lists only the units whose
value differs from the value after reset. -/

namespace Sys2Proof.Machine

/-- Speed grade (R1, R2): TD-B7200-33 or TD-B7200-26. -/
inductive Grade where
  | g33
  | g26
  deriving DecidableEq, Repr

/-! ### Events (18) -/

/-- Where a source is delivered and whether it is masked (R429, R437; MASK of R431). -/
structure EvtRoute where
  criers : BitVec 8 := 0
  vecFirst : BitVec 8 := 0
  vecCount : Nat := 0
  wake : Bool := false
  mask : Bool := true
  deriving DecidableEq, Repr

/-- A source's pending state (R431): PEND, ACTIVE, RERAISE, code, COUNT and NEXT. -/
structure EvtSrc where
  pend : Bool := false
  active : Bool := false
  reraise : Bool := false
  code : BitVec 32 := 0
  count : Nat := 0
  next : Nat := 0
  deriving DecidableEq, Repr

/-- The retention copy of R436. -/
structure EvtSave where
  srcs : Tab EvtSrc := []
  routes : Tab EvtRoute := []
  enabled : BitVec 8 := 0
  deriving DecidableEq, Repr

/-- The event controller (R428 to R437). -/
structure Events where
  srcs : Tab EvtSrc := []
  /-- delivery queues by crier, oldest first: source and code (R430, R433) -/
  queues : Tab (List (Nat × BitVec 32)) := []
  enabled : BitVec 8 := 0
  restored : Nat := 0
  givenBack : Nat := 0
  /-- R436: delivery stopped and the state held in the retention registers -/
  frozen : Bool := false
  retention : Option EvtSave := none
  /-- MSI-X messages sent, by vector, oldest first (R433) -/
  messages : List (Nat × BitVec 64 × BitVec 32) := []
  deriving DecidableEq, Repr

/-! ### Error records (19) -/

/-- An error record (R452) with its INDEX; CHECK is computed from the rest. -/
structure ErrEntry where
  index : Nat
  body : ErrRec
  deriving DecidableEq, Repr

/-- Capture queue, ring and counts (R452 to R456), exposure (R451) and SRAM repair marks (R450). -/
structure Errors where
  queue : List ErrEntry := []
  overflow : Bool := false
  ring : List ErrEntry := []
  /-- ring records not yet in the ledger's error log -/
  waiting : Nat := 0
  nextIndex : Nat := 0
  lifetime : Tab Nat := []
  sinceBoot : Tab Nat := []
  exposedMs : Nat := 0
  rowsMarked : Nat := 0
  colsMarked : Nat := 0
  banksUsed : BitVec 16 := 0
  bankMarked : BitVec 16 := 0
  /-- wall clock of the last fault of a core in its MX_FAIL_WINDOW count (R82), and of a voted copy (R441) -/
  coreFaultAt : Tab (Option Nat) := []
  copyFaultAt : Tab (Option Nat) := []
  /-- copies switched off under R441, and copies waiting for reload at the next checkpoint bell -/
  copiesOff : Tab Bool := []
  copyReload : Tab Bool := []
  /-- wall clocks of each core's tile and group retries, newest first (R449) -/
  retries24h : Tab (List Nat) := []
  deriving DecidableEq, Repr

/-! ### Configuration: every field whose reset reads "from ledger" and that a write may change -/

/-- A port's LINK_CTRL fields (R315). -/
structure LinkCfg where
  enable : Bool := true
  laneLimit : BitVec 8 := 64
  deriving DecidableEq, Repr

/-- STK_CE_LIMIT and STK_SCRUB of a stack (R269). -/
structure StackCfg where
  ceLimit : BitVec 16 := 4096
  scrubEnable : Bool := true
  scrubPeriod : BitVec 15 := 24
  deriving DecidableEq, Repr

/-- The retained register fields (R420 Configuration), at their factory values on TD-B7200-33. -/
structure Cfg where
  streamWdog : BitVec 20 := 500
  streamQuantum : BitVec 16 := 200
  mxFailWindow : BitVec 20 := 600
  stewardEnable : Bool := true
  narrowDefault : BitVec 8 := 8
  ovfDefault : BitVec 16 := 0x0010
  flushDefault : BitVec 16 := 0x0290
  forceFull : Bool := false
  healthEvt : Bool := true
  hashEn : Bool := true
  convNoSkip : Bool := false
  attnNoSkip : Bool := false
  poolWait : Tab (BitVec 20) := []
  stk : Tab StackCfg := []
  moveShare : BitVec 7 := 25
  hostTimeout : BitVec 16 := 200
  links : Tab LinkCfg := []
  autojoin : Bool := true
  fabricWait : BitVec 16 := 100
  substEn : Bool := true
  redDeadline : BitVec 16 := 0
  hostDefer : BitVec 16 := 50
  codecPoll : Tab (BitVec 16) := []
  codecLimit : Tab (BitVec 16) := []
  crierWdog : BitVec 8 := 10
  throttleC : BitVec 8 := 105
  powerW : BitVec 12 := 2800
  divMin : BitVec 4 := 4
  evt : Tab EvtRoute := []
  wearReplays : BitVec 8 := 16
  predictEn : Bool := true
  scrubS : BitVec 8 := 10
  sagWarn : BitVec 4 := 4
  shutterEn : Bool := true
  idleUs : BitVec 16 := 50
  deriving DecidableEq, Repr

/-! ### Clusters, cores and the shape table (01) -/

/-- A cluster controller (R15 to R21): positions in service, positions retired in the spare map, the position bound
to each slot in the codes of CLUSTER_SLOT_MAP (R20), and the borrowing and lending partners. -/
structure Cluster where
  coreOk : BitVec 9 := 0x1FF
  retired : BitVec 9 := 0
  bound : List Nat := [0, 1, 2, 3, 4, 5, 6, 7]
  borrowsFrom : Option Nat := none
  lendsTo : Option Nat := none
  orphan : Bool := false
  deriving DecidableEq, Repr

/-- The changing fields of the shape table (R22, R25). -/
structure Shape where
  generation : BitVec 32 := 0
  stackCap : List Nat := List.replicate 12 0x0C00000000
  factors : List Nat := List.replicate 16 16
  packageFactor : Nat := 16
  sparesLeft : Nat := 16
  spares : List Nat := List.replicate 16 1
  topology : Nat := 0
  dim : Nat × Nat × Nat := (1, 1, 1)
  coord : Nat × Nat × Nat := (0, 0, 0)
  portsUp : BitVec 24 := 0
  published : Bool := false
  deriving DecidableEq, Repr

/-! ### Criers, lease, firmware, awning and ledger (17) -/

/-- A crier: CRIER_STATUS state (R425), the time of its last heartbeat, and the version of the image it runs. -/
structure Crier where
  state : Nat := 0
  lastBeat : Option Nat := none
  version : BitVec 32 := 0
  deriving DecidableEq, Repr

/-- The lease arbiter (R407 to R410, R425). -/
structure Lease where
  holderB : Bool := false
  valid : Bool := false
  window : Bool := false
  reqA : Bool := false
  reqB : Bool := false
  changes : Nat := 0
  demotions : Nat := 0
  lastRenewal : Option Nat := none
  /-- CRIER_STATUS.RESTARTS (R425) -/
  restarts : Nat := 0
  /-- state-mirror records written and applied by the standby (R405) -/
  mirrorWritten : Nat := 0
  mirrorApplied : Nat := 0
  deriving DecidableEq, Repr

/-- A firmware package in an image bank (R480), and whether its bank carries the validity mark (R413). -/
structure BankPkg where
  image : BankImage
  marked : Bool := false
  slot : Nat := 0
  deriving DecidableEq, Repr

/-- Firmware banks and the update in progress (R413 to R417, R426). -/
structure Fw where
  banks : Tab (Option BankPkg) := []
  activeBank : Bool := false
  staged : Bool := false
  stagedVersion : BitVec 32 := 0
  phase : Nat := 0
  /-- the complex that started the activation -/
  fromB : Bool := false
  /-- wall clock at which the running FW_ACTIVATE was accepted -/
  acceptedAt : Nat := 0
  deriving DecidableEq, Repr

/-- The awning (R418, R426): dividers, what each die is stepped down for, the trip, sensors and counts. -/
structure Awning where
  div : Tab Nat := []
  /-- divider ordered and not yet switched (R459) -/
  target : Tab Nat := []
  /-- bit 0 temperature, bit 1 power, bit 2 current, bit 3 supply sag, by die -/
  cause : Tab (BitVec 4) := []
  temp : Tab Nat := []
  coolest : Tab Nat := []
  tripped : Bool := false
  throttleMs : Nat := 0
  steps : Nat := 0
  limitEvents : Nat := 0
  /-- arrays of the die under a pause order (R78) -/
  paused : Tab Bool := []
  /-- the power of the last 1 ms window -/
  watts : Nat := 0
  railMv : Tab Nat := []
  railDa : Tab Nat := []
  deriving DecidableEq, Repr

/-- One two-half region of the ledger (R420, R421): whether it has a valid commit, which half holds it, and how full
that half is. -/
structure LedgerRegion where
  valid : Bool := false
  half : Bool := false
  usedKib : Nat := 0
  deriving DecidableEq, Repr

/-- A physical channel (R256, R259, R269): STATE, GROUP, ROLE (0 data, 1 parity, 2 widow), spares left, causes counted. -/
structure Chan where
  state : Nat := 0
  group : Nat
  role : Nat
  rowsLeft : Nat := 64
  colsLeft : Nat := 16
  errors : Nat := 0
  deriving DecidableEq, Repr

/-- A channel lost on a die (R257), with its phase: 0 evacuating, 1 cut and relocating, 2 re-forming, 3 mapped out;
`band` is its number k among the losses of the die. Where a parity channel failed, the loss is that of the even member of the
pair its group gives up, and `parity` names the failed channel (R260). -/
structure Loss where
  stack : Nat
  chan : Nat
  band : Nat
  phase : Nat
  parity : Option Nat := none
  deriving DecidableEq, Repr

/-- The maps region (R420): spare maps by cluster, stack-channel states and the relocation map, spare lanes used. -/
structure LedgerMaps where
  clusters : Tab Cluster := []
  /-- ports whose spare lane is used -/
  lanes : List Nat := []
  /-- channels by stack, losses, relocation map -/
  chans : Tab (Tab (Option Chan)) := []
  losses : List Loss := []
  reloc : Tab Nat := []
  rowsMarked : Nat := 0
  colsMarked : Nat := 0
  bankMarked : BitVec 16 := 0
  banksUsed : BitVec 16 := 0
  deriving DecidableEq, Repr

/-- The counters region (R420). -/
structure LedgerCounters where
  lifetime : Tab Nat := []
  exposedMs : Nat := 0
  deriving DecidableEq, Repr

/-- The ledger (R420 to R424, R427). -/
structure Ledger where
  regions : Tab LedgerRegion := []
  config : Cfg := {}
  fabricTable : List Byte := []
  maps : LedgerMaps := {}
  /-- policy tables by program digest (R106) -/
  policy : List (BitVec 256 × List (BitVec 128)) := []
  counters : LedgerCounters := {}
  errorLog : List ErrEntry := []
  arSvn : Nat := 0
  arBank : Bool := false
  /-- firmware commits pending in hub SRAM (R422) with their KiB, oldest first -/
  pending : List (Region × Nat) := []
  commits : Nat := 0
  configValid : Bool := false
  factory : Bool := false
  /-- HOLDUP: last reading, 2E of the last commit checked in tenths of a mJ, and whether that check failed -/
  energy : Nat := 0
  needed10 : Nat := 0
  low : Bool := false
  deriving DecidableEq, Repr

/-- Power, shutter and reset state (20). -/
structure Power where
  /-- 0 Active, 1 Close, 2 Dark: the state the package is in (R463) -/
  asleep : Nat := 0
  /-- entry requested and waiting under R465: 0 none, 1 Close, 2 Dark -/
  want : Nat := 0
  shutter : BitVec 4 := 0
  darkValid : Bool := false
  wakes : Nat := 0
  kind : Nat := 0
  rail : Nat := 0
  sagDie : Nat := 0
  commitFinished : Bool := false
  commitCut : Bool := false
  dieResets : Nat := 0
  /-- start-up: RESET_N released and not yet published (R471) -/
  starting : Bool := false
  /-- a reset is held: RESET_N is low, or REFCLK is outside its limits (R458, R471) -/
  resetLow : Bool := true
  /-- dies held in reset: by a trip (R418), or until back in service after a die reset (R469) -/
  dieDown : Tab Bool := []
  locked : BitVec 10 := 0
  losses : Nat := 0
  sagRail : Nat := 0
  warnDie : Nat := 0
  /-- rails below the warning threshold, with the die of the sense point (R461) -/
  sags : List (Nat × Nat) := []
  warnings : Nat := 0
  sagSteps : Nat := 0
  /-- wall clocks of a die's warnings of the last millisecond (R461) -/
  recentWarnings : Tab (List Nat) := []
  /-- wall clock of the last sag warning, and of the last current- or power-limit event (R416) -/
  lastWarning : Option Nat := none
  lastLimit : Option Nat := none
  /-- cores under a core reset's check (R470) -/
  coreCheck : Tab Bool := []
  sleepN : Bool := true
  thermtripN : Bool := true
  alertPulses : Nat := 0
  /-- wall clock of the last reset of each die and of the hub (error-record CYCLE, R452) -/
  dieResetAt : Tab Nat := []
  hubResetAt : Nat := 0
  deriving DecidableEq, Repr

/-- Fuses, measurement slots and identity (21). -/
structure Security where
  keyHash : Tab (BitVec 256) := []
  revoked : BitVec 4 := 0
  svn : Nat := 0
  romDigest : BitVec 256 := 0
  /-- ID_SEED (R479), and the identity hash as the key engine last derived it (R486) -/
  idSeed : BitVec 256 := 0
  identity : BitVec 256 := 0
  recovery : Bool := false
  /-- the device certificate names the key that ID_SEED gives (R486), as manufactured -/
  certOk : Bool := true
  idBad : Bool := false
  raising : Bool := false
  fallback : Bool := false
  authFails : Nat := 0
  signSlot : Nat := 0
  /-- slot i of complex x at key 8x + i (R487) -/
  slots : Tab (BitVec 256) := []
  deriving DecidableEq, Repr

/-! ### Tills and the host link (15) -/

/-- The status catalogue (R363). -/
inductive Status where
  | ok | busy | deferred | retry | badOpcode | badParam | notNegotiated | shapeExceedsPlan | resourceOverflow
  | filterTooLarge | prefetchFault | prefetchLate | checksumMismatch | tallyMismatch | pitchExhausted | authFail
  | imageRollback | holdupLow | coreLost | capacityShrunk | internal
  deriving DecidableEq, Repr

/-- A completion record (R359). -/
structure CplRec where
  tag : BitVec 64
  seq : BitVec 32
  opcode : BitVec 16
  status : Status
  interim : Bool
  phase : Bool
  detail : BitVec 32
  result : BitVec 32
  elapsed : BitVec 32
  deriving DecidableEq, Repr

/-- A till (R355 to R360, R381). -/
structure Till where
  enable : Bool := false
  base : BitVec 36 := 0
  log2 : BitVec 5 := 0
  tail : BitVec 32 := 0
  head : BitVec 32 := 0
  cplBase : BitVec 43 := 0
  cplLog2 : BitVec 5 := 0
  cplHead : BitVec 32 := 0
  cplTail : BitVec 32 := 0
  expectSeq : BitVec 32 := 0
  /-- the packet executing or deferred, and the wall clock of its acceptance -/
  cur : Option Packet := none
  curAt : Nat := 0
  deferred : Bool := false
  /-- ABORT_TASKs acting ahead of their turn (R358): their final records follow the task's -/
  aborts : List Packet := []
  /-- ENABLE cleared while executing (R381) -/
  closing : Bool := false
  /-- records written to the completion ring, oldest first, and records waiting for space or for the link (R348,
  R360) -/
  records : List CplRec := []
  held : List CplRec := []
  deriving DecidableEq, Repr

/-- A test accepted by SELF_TEST or TASTE_CHANNEL and not ended (R375 to R377). -/
structure TestJob where
  scope : Nat
  index : Nat
  pattern : Nat := 0
  running : Bool := false
  /-- failing blocks that a taste found -/
  failing : Nat := 0
  /-- it runs in an idle window (R376) -/
  window : Bool := false
  deriving DecidableEq, Repr

/-- The CXL port and what HOST_MAP and HAGGLE set (15). -/
structure HostIf where
  rate : Nat := 0
  width : Nat := 0
  retrains : Nat := 0
  tierOffset : BitVec 48 := 0
  tierSize : Nat := 0
  winName : BitVec 48 := 0
  winSize : Nat := 0
  negotiated : Bool := false
  agreed : BitVec 64 := 0
  /-- writes of the device to host memory outside the host tier, oldest first (R370, R374): address and bytes -/
  writes : List (Nat × List Byte) := []
  /-- the last read through the CXL.mem window returned poisoned data (R352) -/
  poison : Bool := false
  /-- the last DOE reply object -/
  doeReply : List Byte := []
  msixEnable : Bool := false
  msixFuncMask : Bool := false
  msixMask : Tab Bool := []
  msixPend : Tab Bool := []
  msixTable : Tab (BitVec 64 × BitVec 32) := []
  test : Option TestJob := none
  snoops : Nat := 0
  /-- counter totals that firmware accumulates (R374), by register number of the model's list -/
  totals : Tab Nat := []
  deriving DecidableEq, Repr

/-! ### The bundle stream (02) -/

/-- An active loop level (R41, R42): passes left, first and last bundle of the body. -/
structure LoopAct where
  level : Nat
  left : Nat
  first : Nat
  last : Nat
  deriving DecidableEq, Repr

/-- Where a task stands (R59, R60, R64, R367): no task; RUN_TASK taken and first bundle not issued; started and not
running (R60); running; stopped by an abort and not yet freed. -/
inductive Phase where
  | idle
  | starting
  | ready
  | running
  | aborting
  deriving DecidableEq, Repr

/-- The sequencers' STATE (R66). -/
inductive SeqMode where
  | idle
  | issuing
  | bellWait
  | hold
  | saving
  | replay
  | aborting
  deriving DecidableEq, Repr

/-- Pre-emption in progress (R62): the outgoing context draining, saved, or the incoming context being restored. -/
inductive Preempt where
  | none
  | draining (t : CtxId)
  | saved (t : CtxId)
  | restored (t : CtxId)
  deriving DecidableEq, Repr

/-- The execution point of a context that a solo replay leaves and returns to (R57). -/
structure HeldPoint where
  pc : Nat
  issuePc : Nat
  scal : Tab (BitVec 32)
  loops : List LoopAct
  masks : Tab (BitVec 128)
  bases : Tab (BitVec 48)
  ended : Bool
  bellWait : Option BellOp
  bellDone : Bool
  issues : Nat
  deriving DecidableEq, Repr

/-- A slot replay (R57, R443, R446): the context, the slots with the number of the snapshot each starts from (0 the
newest), whether rebinding is done, whether the spare was adopted, and what the deferred record needs. -/
structure Replay where
  ctx : CtxId
  slots : List (Nat × Nat)
  running : Bool := false
  /-- the snapshot number the replay has reached: slots named with it or an older one act -/
  stage : Nat := 0
  adopted : Bool := false
  kind : FaultKind
  core : Nat
  /-- the fault was an escape of class 15 (R442) -/
  escape : Bool := false
  /-- faults that joined the replay: core, kind, slot (R446) -/
  joined : List (Nat × FaultKind × Nat) := []
  held : Option HeldPoint := none
  /-- reports that arrived during Solo replay and start their own Hold after Resume (R446) -/
  next : List (Nat × Nat × FaultKind × Nat) := []
  deriving DecidableEq, Repr

/-- The four stream sequencers' common state (R47, R59 to R66) and each die's copy of the counters. -/
structure Seq where
  running : Option CtxId := none
  mode : SeqMode := .idle
  preemptPending : Bool := false
  preempt : Preempt := .none
  stall : Tab Nat := []
  hold : Tab Nat := []
  /-- late engines: core and engine, 0 matrix, 1 vector, 2 transpose (R47) -/
  late : List (Nat × Nat) := []
  /-- a porter cannot accept a PT operation (R47) -/
  ptHold : Bool := false
  /-- a checkpoint bell waits for its spacing (R56) -/
  ckptHold : Bool := false
  replay : Option Replay := none
  /-- the context that ran last, after which the next ready one is taken (R60) -/
  lastRun : Nat := 15
  /-- a tap dump has not landed (R200) -/
  tapHold : Bool := false
  /-- the MODEL's own: elements that an operation under capture writes, as slot, bits and bit address (R199) -/
  tapOn : Bool := false
  tapLog : List (Nat × Nat × Nat) := []
  /-- by die, the sequencer's own run of addresses issued since the last checkpoint bell, which its hash covers (R48) -/
  issued : Tab (List Nat) := []
  /-- the task whose bundle is being dispatched: its operations have not all issued (R36, R47) -/
  dispatch : Option CtxId := none
  /-- sixteenths of a fabric cycle over from the stretched timebase (R19) -/
  stretch : Nat := 0
  /-- cores ordered out of service while they hold a slot of the running task: each leaves at the next checkpoint bell; whether
  the order is a retirement or a reset (R14) -/
  adopt : List (Nat × Bool) := []
  deriving DecidableEq, Repr

/-! ### Programs: images, loop descriptors (05, 15 R364) -/

/-- A format word (R91). -/
structure FmtWord where
  code : Nat := 0
  blocked : Bool := false
  blk16 : Bool := false
  steered : Bool := false
  mapIndex : Nat := 0
  tag : Nat := 0
  rsv : Nat := 0
  deriving DecidableEq, Repr

/-- A level entry (R111). -/
structure Level where
  bound : Nat
  boundSrc : Nat
  tile : Nat
  role : Nat
  order : Nat
  split : Bool
  plist : Bool
  splitOff : BitVec 4
  strideA : Int
  strideB : Int
  strideC : Int
  strideAcc : Int
  deriving DecidableEq, Repr

/-- A loop descriptor (R110). -/
structure Desc where
  levels : List Level := []
  curve : Nat := 0
  plistBase : Nat := 0
  plistLen : Nat := 0
  fa : FmtWord := {}
  fb : FmtWord := {}
  fc : FmtWord := {}
  fp : FmtWord := {}
  deriving DecidableEq, Repr

/-- A loaded program image (R364, R508): the sections a task uses. -/
structure Prog where
  bundles : List (BitVec 512) := []
  pool : List (BitVec 128) := []
  descs : List Desc := []
  /-- the descriptor table as the image gives it (R110) -/
  descBytes : List Byte := []
  conv : List (List Byte) := []
  attn : List (List Byte) := []
  objects : List Byte := []
  placement : List Byte := []
  reductions : List Byte := []
  pools : List Byte := []
  /-- SRAM shares: base and bytes per slot and per cluster (R508) -/
  slotShare : List (Nat × Nat) := []
  clusterShare : List (Nat × Nat) := []
  /-- image-given names of the compiler-placed objects, by position in the object list (R280) -/
  names : List (BitVec 48) := []
  digest : BitVec 256 := 0
  features : BitVec 64 := 0
  deriving DecidableEq, Repr

/-! ### Per-slot task state -/

/-- A decoded stationary tile (R71): its mode, the format it was read in, and its elements by row and column with the
bit position each was read from; an element that came from no operand has position -1. `ldesc` and `base` name the SLOAD's
descriptor and the base of its operand. -/
structure Tile where
  stat : Nat
  code : Nat
  ldesc : Nat
  base : Nat
  elems : List (Int × Num)
  deriving DecidableEq, Repr

/-- A stationary bank (R71, R506), and the number of the checkpoint bell after which its tile was swapped in (R72). -/
structure Bank where
  valid : Bool := false
  tile : Option Tile := none
  since : Nat := 0
  deriving DecidableEq, Repr

/-- Counts of the scales unit for one tag (R101 to R104): AMAX and AMIN_NZ as FP32 bits. -/
structure ScaleRec where
  values : Nat := 0
  amax : Nat := 0
  aminNz : Nat := 0
  ovf : List Nat := [0, 0, 0, 0, 0, 0]
  flush : List Nat := [0, 0, 0, 0, 0, 0]
  nanCount : Nat := 0
  infCount : Nat := 0
  zeroCount : Nat := 0
  saturated : Bool := false
  fmt : Nat := 0
  deriving DecidableEq, Repr

/-- LOOP_FAULT_ADDR and LOOP_FAULT_INFO of a slot (R128). -/
structure LoopFault where
  addr : Nat
  resource : Nat
  level : Nat
  pc : Nat
  kind : Nat
  ldesc : Nat
  reported : Bool
  task : Nat
  deriving DecidableEq, Repr

/-- What an engine operation takes with it when it issues on a slot (R45, R47, R119, R122): the context, the slot, its
rank and the set bits of the mask, the bundle address, the scalars and the base registers. -/
structure Issue where
  t : CtxId
  k : Nat
  rank : Nat
  n : Nat
  pc : Nat
  scal : Tab (BitVec 32)
  bases : Tab (BitVec 48)
  /-- units of the operation dealt before the slot's first one (R17, R18, R120) -/
  deal : Nat := 0
  deriving DecidableEq, Repr

/-- FORCE_FULL and the two NO_SKIPs as they stand when a matrix operation issues (R170, R212, R225). -/
structure MxModes where
  full : Bool := false
  conv : Bool := false
  attn : Bool := false
  deriving DecidableEq, Repr

/-- A matrix operation that waits behind a held swap, as it issued (R73). -/
structure MxWait where
  instr : Instr
  at_ : Issue
  modes : MxModes
  deriving DecidableEq, Repr

/-! ### Barrows (07) -/

/-- A window position (R155): the unit it holds, and whether it is DIRTY; a position that is not listed is EMPTY. -/
structure WinPos where
  unit : Nat
  dirty : Bool
  deriving DecidableEq, Repr

/-- An OFFLOAD entry that is armed or whose prefetch-back has not landed (R159, R161, R187). -/
structure Armed where
  index : Nat
  /-- the MODEL's own: the number of the BPUSHOFF's porter operation -/
  num : Nat := 0
  lead : Nat
  host : Nat
  landing : Nat
  frc : Nat
  /-- the bytes sent, which land in the host tier when they are acknowledged -/
  data : List Byte
  instr : Instr
  at_ : Issue
  acked : Bool := false
  /-- the prefetch-back: 0 not due, 1 due and waiting for the acknowledgement, 2 started, 3 landed -/
  back : Nat := 0
  /-- the porter operation of the BPUSHOFF, and of the BPOP that popped the entry -/
  pushOp : Option Nat := none
  popOp : Option Nat := none
  deriving DecidableEq, Repr

/-- A slot's barrow in one task (R155, R156, R176). -/
structure Barrow where
  winBase : Nat := 0
  winUnits : Nat := 0
  spillBase : Nat := 0
  capUnits : Nat := 0
  spillMark : Nat := 0
  refillMark : Nat := 0
  accSave : Nat := 0
  top : Nat := 0
  entries : Nat := 0
  win : Tab (Option WinPos) := []
  armed : List Armed := []
  /-- porter operations of the slot whose turn has not come or that wait, oldest first (R159) -/
  queue : List Nat := []
  /-- the armed set as it stood when a solo replay went back to a snapshot: its sends and fetches are not repeated (R58, R165) -/
  before : List Armed := []
  /-- units being written to the spill region, and units being fetched from it -/
  spilling : List Nat := []
  refilling : List Nat := []
  /-- ranges freed by a BPOP, each with the number of the checkpoint bell before it (R164) -/
  freed : List (Nat × Nat × Nat) := []
  pushWait : Bool := false
  protectWait : Bool := false
  spilled : Nat := 0
  refilled : Nat := 0
  deriving DecidableEq, Repr

/-- The slot's share of a checkpoint snapshot: barrow position and armed set (R165), open accumulator units (R173). -/
structure SlotSnap where
  top : Nat := 0
  entries : Nat := 0
  armed : List Armed := []
  openUnits : List Nat := []
  deriving DecidableEq, Repr

/-- A checkpoint snapshot (R54, R165, R173). -/
structure Snapshot where
  pc : Nat
  scal : Tab (BitVec 32)
  loops : List LoopAct
  masks : Tab (BitVec 128)
  bases : Tab (BitVec 48)
  slots : Tab SlotSnap
  /-- bundles issued before this bell -/
  issues : Nat
  deriving DecidableEq, Repr

/-- The state of one slot in one task: banks (R506), open accumulator units (R97), scales tables (R103). How the 240 KiB
scales area of the save area lays the tables out is not given, so they stand here and not in the local store's bytes
(DESIGN CHOICE, log entry 35). -/
structure CtxSlot where
  bank0 : Bank := {}
  bank1 : Bank := {}
  active : Bool := false
  /-- SLOADs that write the shadow bank and whose last byte is not written (R71) -/
  sloadOut : Nat := 0
  mxWait : List MxWait := []
  openUnits : List Nat := []
  /-- by tag: committed counts, and interval tables with the number of the checkpoint bell each starts at (R103) -/
  committed : Tab ScaleRec := []
  intervals : List (Nat × Tab ScaleRec) := []
  bar : Barrow := {}
  deriving DecidableEq, Repr

/-! ### Diagnostics (08) -/

/-- A captured operation whose dump has not landed (R199, R200): the tap and the occurrence, the bundle address
and engine (0 MX, 1 VX, 2 PT, 3 TX) of the operation, its slots, those not yet captured, the segments by slot. -/
structure TapDump where
  tap : Nat
  occ : Nat
  pc : Nat
  engine : Nat
  slots : List Nat
  missing : List Nat
  segments : Tab (List Byte) := []
  /-- the porter operation under capture; 0 for the engines -/
  op : Nat := 0
  deriving DecidableEq, Repr

/-- A STEP_REPLAY in progress (R194 to R199): scope, the record replayed, the address of its own record, and by tap the
issues seen, the bytes dumped and whether it has stopped. -/
structure StepRep where
  fabric : Bool
  record : List Byte
  outRecord : BitVec 64
  taps : List (List Byte)
  stopPc : Option Nat := none
  truncated : Bool := false
  seen : List Nat := []
  used : List Nat := []
  stopped : List Nat := []
  dumps : List TapDump := []
  deriving DecidableEq, Repr

/-- REPLAY_STATUS (R201). -/
structure ReplayStat where
  pc : Nat := 0
  task : Nat := 0
  running : Bool := false
  recordsMatch : Bool := false
  talliesMatch : Bool := false
  stoppedEarly : Bool := false
  deriving DecidableEq, Repr

/-- An entry of RUN_HEALTH (R192); FLAGS of the previous step's record and steps in a row in which it was widened (R193). -/
structure Health where
  steps : Nat := 0
  lastStep : BitVec 32 := 0
  nanSteps : Nat := 0
  infSteps : Nat := 0
  satSteps : Nat := 0
  widened : Nat := 0
  narrowed : Nat := 0
  flags : Nat := 0
  streak : Nat := 0
  deriving DecidableEq, Repr

/-- A task context (R47): its program and its task. -/
structure Ctx where
  prog : Option Prog := none
  phase : Phase := .idle
  pc : Nat := 0
  /-- address of the bundle being issued, which detail words name -/
  issuePc : Nat := 0
  scal : Tab (BitVec 32) := []
  loops : List LoopAct := []
  masks : Tab (BitVec 128) := []
  /-- BASE register r of slot k at key 64k + r -/
  bases : Tab (BitVec 48) := []
  tokens : Tab Nat := []
  /-- a branch was taken by the bundle being issued (R42) -/
  taken : Bool := false
  bellWait : Option BellOp := none
  /-- the bell of the bundle at issuePc has been passed -/
  bellDone : Bool := false
  /-- checkpoint bells counted with task start and resumption (R53, R103) -/
  bellNo : Nat := 0
  /-- fabric cycles the waiting bell has waited while the task ran (R52) -/
  bellWaited : Nat := 0
  wdog : Nat := 0
  /-- bundles issued since the task started: the stream position that a solo replay returns to (R57) -/
  issues : Nat := 0
  snaps : List Snapshot := []
  ckptCount : Nat := 0
  lastCkpt : Nat := 0
  /-- schedule-clock cycles since the last checkpoint bell (R53), and wall clock of that bell (R56) -/
  sinceCkpt : Nat := 0
  ckptAt : Nat := 0
  quantumAt : Nat := 0
  ended : Bool := false
  saved : Bool := false
  abort : Option (Status × Nat) := none
  /-- the abort's cause came in the bundle being dispatched: issue stops at the next fabric cycle (R64, R127) -/
  stopDue : Bool := false
  hostAbort : Bool := false
  slots : Tab CtxSlot := []
  /-- FORMAT_MAP: code and BLK16 of each entry (R105) -/
  fmap : Tab (BitVec 8) := []
  /-- policy table (R106) -/
  policy : Tab (BitVec 128) := []
  step : BitVec 32 := 0
  seed : BitVec 64 := 0
  record : BitVec 64 := 0
  /-- EPOCH_IN of the running task, by pool (R238, R241) -/
  epochIn : Tab (Option Nat) := []
  /-- placement hints of the context by object number (R281) -/
  hints : Tab (Option Nat) := []
  /-- step of the most recently started task of the program (R304) -/
  curStep : Option (BitVec 32) := none
  /-- step inputs: home handle, size, hash (R190, R191), and whether one was not content-hashed -/
  inputs : List (Nat × Nat × BitVec 256) := []
  unhashed : Bool := false
  /-- step-record FLAGS: a recovery replay, time-sliced service (R190) -/
  recovered : Bool := false
  sliced : Bool := false
  /-- sequences suspended by the pitch pass (R243) -/
  suspended : Nat := 0
  /-- the parameters of a RUN_TASK that has not started its task -/
  run : Option RunParams := none
  /-- a STEP_REPLAY of the task (R194) -/
  srep : Option StepRep := none
  /-- records of the ended step that the steward has not processed, with its STEP (R107, R108) -/
  stewardDue : Option (BitVec 32 × List (List Byte)) := none
  lastRecorded : BitVec 32 := 0
  /-- every sequence with a batch slot of a pool is suspended (R243) -/
  exhausted : Bool := false
  /-- host writes of policy entries that a steward pass has still to override with (R108) -/
  policyHeld : List (Nat × BitVec 128) := []
  deriving DecidableEq, Repr

/-! ### Porters and homes (12) -/

/-- A transfer entry (R271): state 0 FREE, 1 WAITING, 2 ISSUED, 3 CANCELLED; its generation; the operation, slot and tile
step it carries; link packets of it not yet acknowledged, and whether the slot's token packet is among them (R300). -/
structure Entry where
  state : Nat := 0
  gen : BitVec 4 := 0
  ctx : Nat := 0
  op : Nat := 0
  slot : Nat := 0
  step : Nat := 0
  packets : Nat := 0
  tokenSent : Bool := false
  /-- a barrow's own move of unit `step`: 1 a spill, 2 a refill; 0 a transfer of an operation (R163) -/
  own : Nat := 0
  deriving DecidableEq, Repr

/-- A slot's part of a PT operation: its transfers in all and those that have landed. -/
structure PtPart where
  at_ : Issue
  steps : Nat
  landed : Nat := 0
  /-- a barrow operation has been checked and has its place: the logical offset of its entry's header (R159, R160) -/
  hdr : Option Nat := none
  /-- the slot has finished (R49) -/
  fin : Bool := false
  deriving DecidableEq, Repr

/-- A PT operation that has not finished on every core of its mask (R49, R271). -/
structure PtRec where
  instr : Instr
  ctx : CtxId
  token : Option Nat
  parts : List PtPart
  /-- the prefetch-back of this entry of the slot's barrow (R161), not an operation of the program -/
  back : Option Nat := none
  deriving DecidableEq, Repr

/-- A transfer cancelled while ISSUED, whose writes may still be on their way (R287): where it was, and its operation. -/
structure Drain where
  core : Nat
  entry : Nat
  was : Entry
  op : Option PtRec
  deriving DecidableEq, Repr

/-- A home descriptor (R278), with the place that a move in progress goes to (R282). -/
structure Home where
  name : Nat := 0
  size : Nat := 0
  place : Nat := 0
  gen : BitVec 32 := 0
  tier : Nat := 0
  valid : Bool := false
  compiler : Bool := false
  moving : Bool := false
  hint : Nat := 0
  die : Nat := 0
  contexts : BitVec 16 := 0
  number : Nat := 0
  moved : Nat := 0
  toPlace : Nat := 0
  toTier : Nat := 0
  toDie : Nat := 0
  deriving DecidableEq, Repr

/-- A move in progress or waiting (R282, R284): the descriptor, and whether it belongs to an Evacuate phase. -/
structure Move where
  index : Nat
  evac : Bool
  /-- a management packet waits for it (R283) -/
  posted : Bool
  deriving DecidableEq, Repr

/-! ### Stacks (11) -/

/-- A stack controller (R263, R268, R269). -/
structure Stack where
  chans : Tab (Option Chan) := []
  trained : Bool := false
  onDie : Nat := 0
  corrected : Nat := 0
  mismatch : Nat := 0
  rebuilt : Nat := 0
  passes : Nat := 0
  tasteChan : Nat := 0
  tastePattern : Nat := 0
  tasteRunning : Bool := false
  tastePass : Bool := false
  tasteFirst : Nat := 0
  tasteLast : Nat := 0
  tasteCount : Nat := 0
  /-- channels being resilvered after a drain (R262) -/
  resilver : List Nat := []
  /-- wall clock since which some group has no redundancy (R451) -/
  exposedFrom : Option Nat := none
  /-- the stack is in self-refresh (R463, R469) -/
  refresh : Bool := false
  deriving DecidableEq, Repr

/-- A partial write of a stripe line in a write-intent table (R255): the porter transfer, the line, the addresses of the blocks it
writes. -/
structure Intent where
  core : Nat
  entry : Nat
  line : Nat
  blocks : List Nat
  deriving DecidableEq, Repr

/-- A journal record of REPAIR_STACK (R265). -/
structure Journal where
  stack : Nat
  chan : Nat
  step : Nat
  phase : Nat
  sequence : Nat
  rows : Nat
  cols : Nat
  prior : Nat
  deriving DecidableEq, Repr

/-- REPAIR_STATUS (R270) and the repair in progress (R264). -/
structure Repair where
  stack : Nat := 0
  chan : Nat := 0
  step : Nat := 0
  rolled : Bool := false
  repaired : Bool := false
  prior : Nat := 0
  rows : Nat := 0
  cols : Nat := 0
  /-- the partner this repair drained -/
  partner : Option Nat := none
  /-- a crier restart or an update cut it short, and its journal is not resolved yet (R361) -/
  cut : Bool := false
  sequence : Nat := 0
  /-- failing rows and columns that step 3 found -/
  needRows : Nat := 0
  needCols : Nat := 0
  journal : List Journal := []
  /-- journal records formed and not yet committed (R264, R422) -/
  unwritten : List Journal := []
  deriving DecidableEq, Repr

/-! ### Links and the fabric (13) -/

/-- A packet that this package has sent or has to send, kept until it is acknowledged (R301): the port it went out on,
KIND (0 write, 3 reduction, 5 token), its header and payload, for KIND 3 its MODE and fields, and whether the peer had no
room for it (R304). -/
structure OutPkt where
  port : Option Nat
  kind : Nat
  link : LinkPacket
  mode : Nat := 0
  red : Option RedPacket := none
  full : Bool := false
  /-- sent by an adder bank or by the port logic, not by a porter's entry (R333, R336, R338) -/
  bank : Bool := false
  deriving DecidableEq, Repr

/-- A packet held ahead of its step (R304): KIND, and for KIND 3 its MODE. -/
structure HeldPkt where
  kind : Nat
  link : LinkPacket
  mode : Nat := 0
  red : Option RedPacket := none
  deriving DecidableEq, Repr

/-- An acknowledgement or refusal that a port sent (R299, R304): KIND 1 or 2, the packet's context, slot and entry, the
refusal's reason and resource code. -/
structure Reply where
  port : Nat
  kind : Nat
  ctx : CtxId
  slot : Nat
  entry : Nat
  reason : Nat := 0
  resource : Nat := 0
  deriving DecidableEq, Repr

/-- A link port (R293 to R296, R304, R315). -/
structure Port where
  state : Nat := 0
  spareUsed : Bool := false
  lanes : Nat := 0
  peer : Option (Nat × Nat × Nat) := none
  corrected : Nat := 0
  uncorrected : Nat := 0
  replays : Nat := 0
  swaps : Nat := 0
  sentBytes : Nat := 0
  forwardedBytes : Nat := 0
  stale : Nat := 0
  window : Nat := 0
  ahead : Nat := 0
  full : Nat := 0
  /-- flits: the next to send, the last received in order, those sent and not acknowledged (R294) -/
  txSeq : Nat := 0
  rxSeq : Option Nat := none
  retry : List Nat := []
  replaySeq : Option Nat := none
  replayRuns : Nat := 0
  /-- answers of the link layer: acknowledged sequence, and whether it was a NAK -/
  flitReplies : List (Nat × Bool) := []
  /-- packet bytes in the last flit begun, below 242 (R293) -/
  txFill : Nat := 0
  /-- credits returned by the peer -/
  credits : Nat := 0
  /-- the authenticated peer's identity hash and table digest (R309, R489) -/
  peerId : Option (BitVec 256 × BitVec 256) := none
  /-- lane being swapped or half being dropped, and a lane failed meanwhile (R295, R296, R314) -/
  lane : Option Nat := none
  second : Option Nat := none
  landing : List HeldPkt := []
  deriving DecidableEq, Repr

/-- A notice that this package floods or sends: a port down or returned (R303), ready (R311), leave and absent (R313), the
abort of a mismatch (R335), the verified links of a coordinate round (R309). -/
inductive Notice where
  | down (l : LinkLine)
  | back (l : LinkLine)
  | ready (coord : Nat × Nat × Nat) (digest : BitVec 256)
  | leave (coord : Nat × Nat × Nat)
  | absent (coord : Nat × Nat × Nat)
  | mismatch (t : CtxId) (red stage : Nat)
  | links (l : List LinkLine)
  deriving DecidableEq, Repr

/-- The fabric's hub state (R307 to R316). -/
structure Fabric where
  state : Nat := 0
  /-- FABRIC_TABLE as last written, and the table in force -/
  written : List Byte := []
  table : List Byte := []
  present : List Nat := []
  absent : List Nat := []
  rounds : Nat := 0
  roundsRestarted : Bool := false
  version : Nat := 0
  readySent : Bool := false
  leaving : Bool := false
  stacksReady : Bool := false
  /-- lines known to be down (R303), and verified links known (R309) -/
  down : List LinkLine := []
  known : List LinkLine := []
  outbox : List OutPkt := []
  replies : List Reply := []
  /-- notices flooded by this package, oldest first -/
  notices : List Notice := []
  /-- round-robin position over the links to a peer, by dimension and offset (R302): key 32 x dimension + offset -/
  turn : Tab Nat := []
  /-- packets passed on for others, by port -/
  passed : List (Nat × LinkPacket) := []
  /-- token packets counted (R301): context, source, slot, entry, generation, step -/
  seenTokens : List (CtxId × (Nat × Nat × Nat) × Nat × Nat × Nat × Nat) := []
  deriving DecidableEq, Repr

/-! ### Reduction (14) -/

/-- A context's layout (R323) with the layout epoch. -/
structure RedLayout where
  epoch : BitVec 64 := 0
  maskX : BitVec 32 := 0
  maskY : BitVec 32 := 0
  maskZ : BitVec 32 := 0
  members : Nat := 1
  backups : List (Option (Nat × Nat × Nat)) := []
  deriving DecidableEq, Repr

/-- A chunk held by a gathering bank (R332, R333): its key, the ranks that have arrived, the running sum, its scale bytes
or proposals, the tally sum, the ranks asked of backups, and its stage: 0 gathering, 1 forwarded and not yet
acknowledged, 2 waiting for its hand-off frame. -/
structure Chunk where
  ctx : CtxId
  red : Nat
  chunk : Nat
  stage : Nat
  add : Bool
  ranks : List Nat := []
  ints : List Int := []
  scales : List Byte := []
  tally : Nat := 0
  tallies : List (Nat × Nat) := []
  copies : List (Nat × List Byte) := []
  asked : List Nat := []
  phase : Nat := 0
  deriving DecidableEq, Repr

/-- An adder bank (R331, R346). -/
structure Bank2 where
  chunks : List Chunk := []
  /-- keys of chunks completed and freed, which a later arrival meets as LATE: context, reduction, chunk, stage, add -/
  freed : List (CtxId × Nat × Nat × Nat × Bool) := []
  addedBytes : Nat := 0
  duplicates : Nat := 0
  late : Nat := 0
  /-- RED_BANK_FAULT: reduction, chunk, stage, context -/
  fault : Option (Nat × Nat × Nat × Nat) := none
  retries : Nat := 0
  inject : Bool := false
  full : Bool := false
  deriving DecidableEq, Repr

/-- A STANDBY operation that is armed (R329): it serves requests for its member until its task ends. -/
structure Standby where
  instr : Instr
  at_ : Issue
  member : Nat
  deriving DecidableEq, Repr

/-- A reduction of a context's step (R334, R342). -/
structure RedRun where
  /-- role-0 and role-1 tally sums of the step record (R334), none where nothing was sent or handed off -/
  role0 : Option Nat := none
  role1 : Option Nat := none
  /-- chunks whose proposals, and whose parameters, are in place here -/
  proposals : List Nat := []
  params : List Nat := []
  xtoken : Bool := false
  rtoken : Bool := false
  /-- frames handed off: slot and chunk index within the slot's share -/
  handed : List (Nat × Nat) := []
  waves : Nat := 0
  /-- owner slots whose RGATHER has raised its TOKEN -/
  gathered : List Nat := []
  deriving DecidableEq, Repr

/-- The reduction state of a context. -/
structure RedCtx where
  layout : RedLayout := {}
  runs : Tab (Option RedRun) := []
  armed : List Standby := []
  deriving DecidableEq, Repr

/-! ### Physical cores: engine registers (03, 06, 07, 08, 09, 10) -/

/-- An operation in flight on an engine of a core (R47). -/
structure Flight where
  ctx : CtxId
  slot : Nat
  op : Nat
  /-- it uses the array's cells (R76, R98, R169); it waits behind a held swap (R73) -/
  cells : Bool := false
  held : Bool := false
  /-- FORCE_RAMP stood when it issued (R85) -/
  forced : Bool := false
  /-- its last vector has left the array (R76) -/
  left : Bool := false
  /-- DUAL of a transpose operation (R146) -/
  dual : Bool := false
  /-- schedule-free nominal times of a vector or transpose operation (R139): it enters at `start` and its feed ends at
  `feedEnd`, on the wall clock -/
  start : Nat := 0
  feedEnd : Nat := 0
  /-- the local-store and shared bytes that it writes, by address, with the values they held before (R142) -/
  was : Tab Byte := []
  deriving DecidableEq, Repr

/-- A physical core's engines (R84, R145, R146, R175, R202, R218, R245). -/
structure Core where
  /-- MX_STATUS.STATE, MODE, FMT_A, FMT_B -/
  mxState : Nat := 0
  mxMode : Nat := 0
  mxFmtA : Nat := 0
  mxFmtB : Nat := 0
  /-- the state that a ramp-up leads to, and the wall clock at which it ends (R76) -/
  mxNext : Nat := 2
  rampAt : Nat := 0
  /-- the state in which a pause met the array (R78, R83) -/
  mxResume : Nat := 0
  swapHold : Nat := 0
  pause : Nat := 0
  mxBusy : Nat := 0
  tileReplays : Nat := 0
  accMismatches : Nat := 0
  failed : Bool := false
  forceRamp : Bool := false
  mxInject : Bool := false
  vxBusy : Nat := 0
  vxRetries : Nat := 0
  tableParity : Bool := false
  vxInject : Bool := false
  /-- OP of the last vector operation that entered the engine (R145) -/
  vxOp : Nat := 0
  /-- wall clock at which a retry of the vector and of the transpose engine ends (R144) -/
  vxRetryEnd : Nat := 0
  txRetryEnd : Nat := 0
  txBusy : Nat := 0
  txRetries : Nat := 0
  txInject : Bool := false
  bwdSkip : Nat := 0
  convSkip : Nat := 0
  attnSkip : Nat := 0
  frcEncoded : Nat := 0
  frcDecoded : Nat := 0
  frcRetries : Nat := 0
  frcNonfinite : Nat := 0
  mxQ : List Flight := []
  vxQ : List Flight := []
  txQ : List Flight := []
  /-- porter entries (R271) and the transfers that wait for one, oldest first: operation, slot, step -/
  entries : Tab Entry := []
  backlog : List (Nat × Nat × Nat) := []
  /-- a cancellation is in progress (R290) -/
  cancelling : Option CtxId := none
  /-- bytes read from and written to the stack and host tiers -/
  readBytes : Nat := 0
  writtenBytes : Nat := 0
  discarded : Nat := 0
  cancels : Nat := 0
  /-- PORTER_FAULT (R290): address, cause, context -/
  porterFault : Option (Nat × Nat × Nat) := none
  /-- the translation cache: descriptor indices, 64 at most (R279) -/
  tcache : List Nat := []
  misses : Nat := 0
  /-- fabric cycles accesses were held by moves -/
  heldCycles : Nat := 0
  deriving DecidableEq, Repr

/-- A frame of a hand-off area (R135): it holds a summed chunk, and the task and checkpoint bell of the last OPTSTEP that
read it. -/
structure Frame where
  full : Bool := false
  readAt : Option (CtxId × Nat) := none
  /-- the context whose reduction wrote it -/
  owner : Option CtxId := none
  deriving DecidableEq, Repr

/-- A pitch pool (R231, R246): geometry as the image gives it, addresses of its table, sequence table and two regions, the
epoch, the attached contexts and the counts. FREE, HELD and OLDEST are computed. -/
structure Pool where
  table : Nat := 0
  seq : Nat := 0
  seqs : Nat := 0
  pitches : Nat := 0
  sramPitches : Nat := 0
  layers : Nat := 0
  hkv : Nat := 0
  d128 : Bool := false
  fmt : Nat := 0
  sramAt : Nat := 0
  stackAt : Nat := 0
  epoch : Nat := 0
  attach : BitVec 16 := 0
  drops : Nat := 0
  copies : Nat := 0
  exhausted : Nat := 0
  /-- contexts whose pass has not ended, in the order of their RUN_TASKs (R238); the first one's pass is in progress: what it
  has grown, as sequence and tokens, and whether it has stamped a pitch -/
  queue : List CtxId := []
  grown : List (Nat × Nat) := []
  stamped : Bool := false
  /-- the sequence whose grow has taken its victims and waits for pitches to drain (R242, R243) -/
  taken : Option Nat := none
  deriving DecidableEq, Repr

/-! ### Codec units (16) -/

/-- A record of a job (R390) before its PHASE is known. -/
structure CodecRec where
  seq : BitVec 32
  status : Nat
  interim : Bool
  concealedAny : Bool
  frames : Nat
  pts : BitVec 64
  concealed : Nat
  first : Nat
  bytes : Nat
  detail : Nat
  deriving DecidableEq, Repr

/-- A stream slot of a codec unit (R387 to R390): the host line as last polled, the status line, the job in progress with the
frames, concealed frames, first concealed frame and bytes of it, the frame number since the stream opened. -/
structure CodecStream where
  /-- REQ and REQ_SEQ of the host line -/
  req : Nat := 0
  reqSeq : Nat := 0
  state : Nat := 0
  desc : Option StreamDesc := none
  doneSeq : Nat := 0
  reqStatus : Nat := 0
  stop : Nat := 0
  jobTail : BitVec 32 := 0
  bsTail : BitVec 32 := 0
  recHead : BitVec 32 := 0
  jobHead : BitVec 32 := 0
  bsHead : BitVec 32 := 0
  recTail : BitVec 32 := 0
  job : Option Job := none
  frames : Nat := 0
  concealed : Nat := 0
  firstConcealed : Nat := 0xFFFF
  bytes : Nat := 0
  /-- coded bytes of the picture in progress (R398) -/
  buf : List Byte := []
  /-- the last output frame (R399), and records that wait for ring space (R390) -/
  lastOut : Option Picture := none
  recs : List CodecRec := []
  shown : Nat := 0
  /-- the last output frame was concealed, or there is none (R394) -/
  noRef : Bool := true
  closing : Bool := false
  deriving DecidableEq, Repr

/-- A codec unit (R384 to R403). -/
structure Codec where
  streams : Tab CodecStream := []
  /-- the stream each engine works on, and when each stream last ran on it (R386) -/
  entropy : Option Nat := none
  pixel : Option Nat := none
  ranEntropy : Tab Nat := []
  ranPixel : Tab Nat := []
  turns : Nat := 0
  held : List (CtxId × Nat × BitVec 32) := []
  failed : Bool := false
  retries : Nat := 0
  mismatchAt : Option Nat := none
  frames : Nat := 0
  concealed : Nat := 0
  stale : Nat := 0
  abandoned : Nat := 0
  deriving DecidableEq, Repr

/-! ### The whole package -/

/-- Everything but the queue of waiting commands. -/
structure Dev where
  grade : Grade := .g33
  /-- fabric cycles of wall-clock time since reset -/
  wall : Nat := 0
  /-- the MODEL's own: how many free values have been taken -/
  freeIdx : Nat := 0
  /-- the MODEL's own: what the last read command answered -/
  readData : Nat := 0
  /-- writes and reads that the spec says are ignored and logged -/
  logged : Nat := 0
  /-- until the ledger restore the awning runs with its fused limits (R471) -/
  cfg : Cfg := { powerW := 3000 }
  evt : Events := {}
  err : Errors := {}
  clusters : Tab Cluster := []
  shape : Shape := {}
  criers : Tab Crier := []
  lease : Lease := {}
  fw : Fw := {}
  awning : Awning := {}
  ledger : Ledger := {}
  pwr : Power := {}
  sec : Security := {}
  tills : Tab Till := []
  host : HostIf := {}
  seq : Seq := {}
  ctxs : Tab Ctx := []
  cores : Tab Core := []
  /-- SRAM, accumulator buffers, stack memory and host tier by 48-bit package address (R27) -/
  mem : Tab Byte := []
  /-- SRAM words of 8 bytes that their code cannot correct, by the address of their first byte (R440) -/
  badSram : List Nat := []
  /-- the MODEL's own: while an operation reads old values of bytes that operations in flight write, what those bytes hold (R142) -/
  veil : Tab Byte := []
  /-- actions on a die's units that wait in the hub for its die crier, oldest first (R12, R412) -/
  waiting : List (Nat × Instr) := []
  /-- accumulator bytes of the cores that no slot's address names: byte `o` of core `p` at key 2^21 p + o (R16, R27) -/
  accHeld : Tab Byte := []
  /-- LOOP_FAULT_ADDR and LOOP_FAULT_INFO of each slot (R128) -/
  loopFaults : Tab (Option LoopFault) := []
  /-- FMT_STEWARD_STATUS LAST_STEP and LAST_TASK (R109) -/
  stewardStep : BitVec 32 := 0
  stewardTask : Nat := 0
  /-- hand-off areas (R135): byte `o` of slot `k`'s area at key 524288 k + o; they lie outside the address map -/
  handoff : Tab Byte := []
  /-- frame `f` of slot `k`'s hand-off area at key 128 k + f -/
  frames : Tab Frame := []
  /-- pitch pools (R231, R246) -/
  pools : Tab Pool := []
  /-- PT operations in progress, by number (R271), and the number of the next one -/
  ptOps : Tab (Option PtRec) := []
  ptNext : Nat := 0
  /-- a PT operation that no porter could accept (R47) -/
  ptHeld : Option Instr := none
  /-- cancelled transfers until their cancellation's write drain ends (R287) -/
  drains : List Drain := []
  /-- position of the porter that took a slot's previous transfer (R271) -/
  lastPorter : Tab Nat := []
  /-- bytes sent by BPUSHOFF and fetched by prefetch-back (R201) -/
  offSent : Nat := 0
  offFetched : Nat := 0
  homes : Tab Home := []
  moves : List Move := []
  stks : Tab Stack := []
  /-- channels lost, oldest first (R257) -/
  losses : List Loss := []
  /-- stack blocks that fail until they are written whole (R251), by the address of their first byte -/
  badBlocks : List Nat := []
  /-- relocation maps (R258): of block `b` of die `d`, at key 2^26 d + b, the number of its slot plus one -/
  reloc : Tab Nat := []
  /-- write-intent tables (R255): of group `g` of stack `s` at key 8 s + g, the partial writes that have begun, the first 64, and
  those that wait for an entry, oldest first -/
  intent : Tab (List Intent) := []
  repair : Repair := {}
  ports : Tab Port := []
  fabric : Fabric := {}
  red : Tab RedCtx := []
  banks : Tab Bank2 := []
  redSubst : Nat := 0
  redMismatch : Nat := 0
  /-- RUN_HEALTH of tag n of context t at key 1024 t + n (R192) -/
  health : Tab Health := []
  replayStat : ReplayStat := {}
  codecs : Tab Codec := []
  deriving DecidableEq, Repr

/-- The state of the block: the device and the commands that wait, first in, first out. -/
structure State where
  pending : List Instr := []
  dev : Dev := {}
  deriving DecidableEq, Repr

/-- Why the machine stops with a fault. -/
inductive Fault where
  /-- a slot operation presents a field value the spec reserves; R38 says a loaded image never does. Raised by the
  meanings of the engine slots. Safe: the spec gives such an operation no effect. -/
  | reservedEncoding
  deriving DecidableEq, Repr

/-- Why a command has no meaning. -/
inductive Refusal where
  /-- the arm has no meaning yet. Raised by Dispatch. Safe. -/
  | notModelled (mnemonic : String)
  deriving DecidableEq, Repr

/-- The outcome of a meaning. -/
abbrev Res := Host.Outcome State Fault Refusal

/-- The machine right after reset (R467 to R473 and the reset column of every register table). -/
def State.reset : State := {}

end Sys2Proof.Machine
end

