-- ==== Sys2Proof/Machine/Tab.lean ====
section
/-! DEFINITION. Sparse tables: the one representation of memories and of numbered units, and their two operations. -/

namespace Sys2Proof.Machine

/-- The value at key `k`; a key that is not listed holds the default `d`. -/
def Tab.get {α : Type} (d : α) : Tab α → Nat → α
  | [], _ => d
  | (j, v) :: r, k => if j = k then v else Tab.get d r k

/-- Write `v` at key `k`, keeping the keys rising and listing no default. -/
def Tab.set {α : Type} [DecidableEq α] (d : α) (m : Tab α) (k : Nat) (v : α) : Tab α :=
  m.filter (fun e => decide (e.1 < k)) ++ (if v = d then [] else [(k, v)]) ++
    m.filter (fun e => decide (k < e.1))

/-- Change the value at key `k` by `f`. -/
def Tab.mod {α : Type} [DecidableEq α] (d : α) (m : Tab α) (k : Nat) (f : α → α) : Tab α :=
  Tab.set d m k (f (Tab.get d m k))

/-- Write the values `vs` at consecutive keys from `k`. -/
def Tab.setMany {α : Type} [DecidableEq α] (d : α) (m : Tab α) (k : Nat) : List α → Tab α
  | [] => m
  | v :: vs => Tab.setMany d (Tab.set d m k v) (k + 1) vs

/-- The `n` values at consecutive keys from `k`. -/
def Tab.getMany {α : Type} (d : α) (m : Tab α) (k : Nat) : Nat → List α
  | 0 => []
  | n + 1 => Tab.get d m k :: Tab.getMany d m (k + 1) n

/-- Change every key of `ks` by `f`. -/
def Tab.modMany {α : Type} [DecidableEq α] (d : α) (m : Tab α) (ks : List Nat) (f : Nat → α → α) : Tab α :=
  ks.foldl (fun acc k => Tab.mod d acc k (f k)) m

/-- Change every listed value by `f`, for an `f` that keeps the default. -/
def Tab.mapAll {α : Type} [DecidableEq α] (d : α) (m : Tab α) (f : α → α) : Tab α :=
  (m.map (fun e => (e.1, f e.2))).filter (fun e => decide (e.2 ≠ d))

/-- The values of the first table at the keys where the second one differs; `fuel` bounds the entries of both. -/
def Tab.before {α : Type} [DecidableEq α] (d : α) : Nat → Tab α → Tab α → Tab α
  | 0, _, _ => []
  | _ + 1, [], b => b.map (fun e => (e.1, d))
  | _ + 1, a, [] => a
  | n + 1, (i, u) :: a, (j, v) :: b =>
    if i < j then (i, u) :: Tab.before d n a ((j, v) :: b)
    else if j < i then (j, d) :: Tab.before d n ((i, u) :: a) b
    else if u = v then Tab.before d n a b
    else (i, u) :: Tab.before d n a b

/-- The canonical form: keys strictly rising, no entry equal to the default. -/
def Tab.wf {α : Type} [DecidableEq α] (d : α) : Tab α → Bool
  | [] => true
  | (k, v) :: r =>
    decide (v ≠ d) && (match r with | [] => true | (j, _) :: _ => decide (k < j)) && Tab.wf d r

end Sys2Proof.Machine
end

