-- ==== Sys2Proof/Machine/Ops.lean ====
section
/-! DEFINITION. The named operations that many commands share: the lift of a device operation to a meaning, free
values, events (18), error records (19), who may write (R13, R409, R437), completion records (R359, R360), and the
slot-to-core maps with the shape table (01). -/

namespace Sys2Proof.Machine

/-- A meaning that always answers a next state: the device changes by `f`, the queue stays. -/
def State.upd (s : State) (f : Dev → Dev) : Res := .next { s with dev := f s.dev }

/-- Take a fresh open value of `w` bits (log entry 1). -/
def useFree (w : Nat) (d : Dev) : Nat × Dev :=
  (Config.free d.freeIdx % 2 ^ w, { d with freeIdx := d.freeIdx + 1 })

/-- A field of `w` bits that shows a count whose overflow the spec does not describe: an open value past the width
(log entry 6). -/
def shown (w n : Nat) (d : Dev) : Nat × Dev := if n < 2 ^ w then (n, d) else useFree w d

/-- Answer a read command. -/
def answer (v : Nat) (d : Dev) : Dev := { d with readData := v }

/-- Count an access that is ignored and logged. -/
def logIgnored (d : Dev) : Dev := { d with logged := d.logged + 1 }

/-! ### Accessors of numbered units -/

def Dev.ctx (d : Dev) (t : CtxId) : Ctx := Tab.get {} d.ctxs t.val
def Dev.modCtx (d : Dev) (t : CtxId) (f : Ctx → Ctx) : Dev :=
  { d with ctxs := Tab.mod {} d.ctxs t.val f }
def Dev.cluster (d : Dev) (c : Nat) : Cluster := Tab.get {} d.clusters c
def Dev.modCluster (d : Dev) (c : Nat) (f : Cluster → Cluster) : Dev :=
  { d with clusters := Tab.mod {} d.clusters c f }
def Dev.till (d : Dev) (n : TillId) : Till := Tab.get {} d.tills n.val
def Dev.modTill (d : Dev) (n : TillId) (f : Till → Till) : Dev :=
  { d with tills := Tab.mod {} d.tills n.val f }
def Dev.crier (d : Dev) (c : CrierId) : Crier := Tab.get {} d.criers c.val
def Dev.modCrier (d : Dev) (c : CrierId) (f : Crier → Crier) : Dev :=
  { d with criers := Tab.mod {} d.criers c.val f }

/-- Bytes of a barrow unit, a stripe, a unit of a moving home: 64 KiB (R155, R248, R282). -/
def unit64 : Nat := 65536

/-- The till that serves context `t` (R355). -/
def taskTill (t : CtxId) : TillId := ⟨t.val, by omega⟩
/-- The management till (R355). -/
def mgmtTill : TillId := 16
/-- All contexts, ascending. -/
def allCtx : List CtxId := List.finRange 16
/-- The die of a physical core, a cluster, a stack, a port (R10). -/
def dieOfCore (c : Nat) : Nat := c / 36
def dieOfCluster (c : Nat) : Nat := c / 4
def dieOfStack (s : Nat) : Nat := s / 3
def dieOfPort (p : Nat) : Nat := p / 6
/-- The cluster and the slot within it of logical slot `k` (R10). -/
def clusterOfSlot (k : Nat) : Nat := k / 8

/-! ### Events -/

/-- Sources marked reserved in the table of R428. -/
def reservedSource (n : Nat) : Bool :=
  (17 ≤ n && n ≤ 31) || (72 ≤ n && n ≤ 95) || (100 ≤ n && n ≤ 127) || (300 ≤ n && n ≤ 303) ||
    (332 ≤ n && n ≤ 351) || 384 ≤ n

/-- The die crier bit of a unit's die, with A1 and B1 (factory routes of 18_events). -/
def unitCriers (die : Nat) : BitVec 8 := BitVec.ofNat 8 (0x0A + 2 ^ (4 + die))

/-- The factory route of a source (18_events, Registers); the mask is that of reset (R437). -/
def factoryRoute (n : Nat) : EvtRoute :=
  let wake := n ≤ 16 || (96 ≤ n && n ≤ 99) || (352 ≤ n && n ≤ 383)
  if n ≤ 16 || (32 ≤ n && n ≤ 63) then { vecFirst := BitVec.ofNat 8 n, vecCount := 1, wake := wake }
  else if n = 71 then { criers := 0x0A, vecFirst := 64, vecCount := 1, wake := wake }
  else if (64 ≤ n && n ≤ 70) || (96 ≤ n && n ≤ 99) then { criers := 0x0A, wake := wake }
  else if 128 ≤ n && n ≤ 271 then { criers := unitCriers (dieOfCore (n - 128)), wake := wake }
  else if 272 ≤ n && n ≤ 287 then { criers := unitCriers (dieOfCluster (n - 272)), wake := wake }
  else if 288 ≤ n && n ≤ 299 then { criers := unitCriers (dieOfStack (n - 288)), wake := wake }
  else if 304 ≤ n && n ≤ 327 then { criers := unitCriers (dieOfPort (n - 304)), wake := wake }
  else if 328 ≤ n && n ≤ 331 then { criers := unitCriers (n - 328), wake := wake }
  else if 352 ≤ n && n ≤ 383 then { vecFirst := BitVec.ofNat 8 (n - 256), vecCount := 1, wake := wake }
  else { wake := wake }

def Dev.route (d : Dev) (n : Nat) : EvtRoute := Tab.get (factoryRoute n) d.cfg.evt n
def Dev.modRoute (d : Dev) (n : Nat) (f : EvtRoute → EvtRoute) : Dev :=
  { d with cfg := { d.cfg with evt := Tab.mod (factoryRoute n) d.cfg.evt n f } }
def Dev.src (d : Dev) (n : Nat) : EvtSrc := Tab.get {} d.evt.srcs n
def Dev.modSrc (d : Dev) (n : Nat) (f : EvtSrc → EvtSrc) : Dev :=
  { d with evt := { d.evt with srcs := Tab.mod {} d.evt.srcs n f } }

/-- The three effects of a raise (R431). -/
def raiseSrc (code : BitVec 32) (e : EvtSrc) : EvtSrc :=
  if !e.pend then { e with pend := true, code := code, count := 0 }
  else if !e.active then { e with count := satAdd 8 e.count 1 }
  else { e with reraise := true, count := satAdd 8 e.count 1 }

/-- Raise source `n` with a code (R428, R431). While the controller is saved, the raise lands in the retention copy
(R436). Sources 96 to 99 pulse MGMT_ALERT_N (R499). -/
def raiseEvent (n : Nat) (code : Nat) (d : Dev) : Dev :=
  if reservedSource n then d
  else
    let d := if 96 ≤ n && n ≤ 99 then { d with pwr := { d.pwr with alertPulses := d.pwr.alertPulses + 1 } } else d
    match d.evt.retention with
    | some r =>
      { d with evt := { d.evt with
          retention := some { r with srcs := Tab.mod {} r.srcs n (raiseSrc (BitVec.ofNat 32 code)) } } }
    | none => d.modSrc n (raiseSrc (BitVec.ofNat 32 code))

/-- Clear source `n` (R434). -/
def clearSrc (e : EvtSrc) : EvtSrc :=
  if e.reraise then { e with pend := true, active := false, reraise := false }
  else { e with pend := false, active := false }

/-- Give back every source that is ACTIVE at crier `c` and discard its queue (R435). -/
def giveBack (c : Nat) (d : Dev) : Dev :=
  let back := fun (p : Nat × EvtSrc) => p.2.active && p.2.next == c
  { d with evt := { d.evt with
      srcs := d.evt.srcs.map (fun p => if back p then (p.1, { p.2 with active := false }) else p)
      queues := Tab.set [] d.evt.queues c []
      givenBack := d.evt.givenBack + (d.evt.srcs.filter back).length } }

/-! ### Who may act -/

/-- Crier `c` belongs to the complex that holds a valid lease (R407). -/
def leads (d : Dev) (c : CrierId) : Bool :=
  c.val < 4 && d.lease.valid && (decide (2 ≤ c.val) == d.lease.holderB)

/-- Feature bit `n` is agreed (R370, R371). -/
def agreedBit (d : Dev) (n : Nat) : Bool := d.host.agreed.getLsbD n

/-- The host may write through BAR0 (R371 bit 13, R372). -/
def expert (d : Dev) : Bool := agreedBit d 13

/-- The common rule of a management write: carried out from the leading complex, from the host where `hostOk`, and
from a die crier where `dieOk`; dropped and counted as a demotion from a complex without the lease (R409); otherwise
ignored and logged. -/
def writeFrom (src : Source) (hostOk : Bool) (dieOk : CrierId → Bool) (act : Dev → Dev) (d : Dev) : Dev :=
  match src with
  | .host => if hostOk then act d else logIgnored d
  | .crier c =>
    if c.val < 4 then
      if leads d c then act d
      else logIgnored { d with lease := { d.lease with demotions := satAdd 16 d.lease.demotions 1 } }
    else if dieOk c then act d else logIgnored d

/-- Carried out only from the leading complex or from the host with EXPERT agreed. -/
def hubWrite (src : Source) (act : Dev → Dev) (d : Dev) : Dev := writeFrom src (expert d) (fun _ => false) act d

/-- The die crier of die `x` runs, so that actions ordered on the die's units reach their owners (R12, R412). -/
def dieCrierRuns (d : Dev) (x : Nat) : Bool := (Tab.get ({} : Crier) d.criers (4 + x)).state == 2

/-- An action on a unit of die `x` is carried out where the die crier that forwards it runs; otherwise the command that orders it
waits in the hub, behind those that wait already (R12, R412). -/
def dieAction (c : Instr) (x : Nat) (act : Dev → Dev) (d : Dev) : Dev :=
  if dieCrierRuns d x then act d else { d with waiting := d.waiting ++ [(x, c)] }

/-- The same, and from the running die crier of the unit's own die (R12, R13); `c` is the command itself. -/
def dieWrite (c : Instr) (src : Source) (die : Nat) (act : Dev → Dev) (d : Dev) : Dev :=
  writeFrom src (expert d) (fun x => x.val == 4 + die && dieCrierRuns d die) (dieAction c die act) d

/-- Carried out from the leading complex and from the running die crier of the unit's own die, never from the host (R21). -/
def dieOwnWrite (c : Instr) (src : Source) (die : Nat) (act : Dev → Dev) (d : Dev) : Dev :=
  writeFrom src false (fun x => x.val == 4 + die && dieCrierRuns d die) (dieAction c die act) d

/-- Carried out from the leading complex alone (R85, R147, R346). -/
def dieLeadWrite (c : Instr) (src : Source) (die : Nat) (act : Dev → Dev) (d : Dev) : Dev :=
  writeFrom src false (fun _ => false) (dieAction c die act) d

/-- The replay that is executing bundles, if one is (R57). -/
def runningReplay (d : Dev) : Option Replay :=
  match d.seq.replay with
  | some r => if r.running then some r else none
  | none => none

/-- The number of the checkpoint bell that opened the interval in which the context now works: the last one passed, or in a solo
replay the one that the replay has reached (R72, R103). -/
def interval (d : Dev) (t : CtxId) : Nat :=
  (d.ctx t).bellNo - (match runningReplay d with | some r => if r.ctx = t then r.stage else 0 | none => 0)

/-! ### Error records -/

/-- The location word of an error record (R452). -/
def errLoc (unit sub : Nat) (slot : Option Nat) : Nat :=
  unit % 256 + 256 * (sub % 256) + (match slot with | some k => 65536 * k + 2 ^ 23 | none => 0)

/-- What the reporter of a fault knows; the rest of the record is the clock's (R452). -/
structure Report where
  cls : Nat
  level : Nat
  action : Nat
  status : Nat := 0
  loc : Nat := 0
  detail : Nat := 0
  spare : Nat := 0
  ctx : Option CtxId := none
  flags : Nat := 0
  interruptNs : Nat := 0
  waitNs : Nat := 0
  /-- the detecting die; none for the hub -/
  die : Option Nat := none

/-- Form an error record in the capture queue (R452, R454, R455), with the layout epoch and the step of the task affected.
DETECT_NS, which the record states "where known", is an open value (log entry 7). -/
def errReport (r : Report) (d : Dev) : Dev :=
  let e := d.err
  let counted := { e with
    lifetime := Tab.mod 0 e.lifetime r.cls (fun n => satAdd 32 n 1)
    sinceBoot := Tab.mod 0 e.sinceBoot r.cls (fun n => satAdd 32 n 1) }
  if 256 ≤ e.queue.length then { d with err := { counted with overflow := true } }
  else
    let (ns, d) := useFree 32 d
    let start := match r.die with | some x => Tab.get 0 d.pwr.dieResetAt x | none => d.pwr.hubResetAt
    let body : ErrRec := {
      cls := BitVec.ofNat 8 r.cls, level := BitVec.ofNat 8 r.level, action := BitVec.ofNat 8 r.action
      status := BitVec.ofNat 8 r.status, location := BitVec.ofNat 32 r.loc
      cycle := BitVec.ofNat 64 ((d.wall - start) / 4)
      epoch := match r.ctx with | some t => (Tab.get ({} : RedCtx) d.red t.val).layout.epoch | none => 0
      step := match r.ctx with | some t => (d.ctx t).step | none => 0
      detectNs := BitVec.ofNat 32 ns, interruptNs := BitVec.ofNat 32 (min r.interruptNs (2 ^ 32 - 1))
      waitNs := BitVec.ofNat 32 (min r.waitNs (2 ^ 32 - 1)), detail := BitVec.ofNat 32 r.detail
      spare := BitVec.ofNat 8 r.spare
      context := BitVec.ofNat 8 (match r.ctx with | some t => t.val | none => 0xFF)
      flags := BitVec.ofNat 8 r.flags }
    { d with err := { counted with
        queue := e.queue ++ [⟨e.nextIndex, body⟩], nextIndex := e.nextIndex + 1 } }

/-! ### Completion records -/

/-- The code of a status (R363). -/
def Status.code : Status → Nat
  | .ok => 0x00 | .busy => 0x01 | .deferred => 0x02 | .retry => 0x03 | .badOpcode => 0x10 | .badParam => 0x11
  | .notNegotiated => 0x12 | .shapeExceedsPlan => 0x20 | .resourceOverflow => 0x21 | .filterTooLarge => 0x22
  | .prefetchFault => 0x30 | .prefetchLate => 0x31 | .checksumMismatch => 0x32 | .tallyMismatch => 0x33
  | .pitchExhausted => 0x40 | .authFail => 0x50 | .imageRollback => 0x51 | .holdupLow => 0x52 | .coreLost => 0x60
  | .capacityShrunk => 0x61 | .internal => 0x7F

/-- CXL.io is carried: records can be written (R348). -/
def cxlIo (d : Dev) : Bool := d.host.rate != 0

/-- Write the held records that now find room, in order (R348, R360). -/
def flushHeld (up : Bool) (n : Till) : Till :=
  let room := 2 ^ n.cplLog2.toNat - (n.cplTail - n.cplHead).toNat
  let k := if up then min room n.held.length else 0
  let out := (n.held.take k).mapIdx (fun i r =>
    { r with phase := decide (((n.cplTail.toNat + i) / 2 ^ n.cplLog2.toNat) % 2 = 0) })
  { n with records := n.records ++ out, cplTail := n.cplTail + BitVec.ofNat 32 k, held := n.held.drop k }

/-- A detail or result word: an open value where no rule gives one (log entry 22). -/
def wordOr (w : Option Nat) (d : Dev) : Nat × Dev := match w with | some v => (v, d) | none => useFree 32 d

/-- Record a status of packet `k` on till `n` (R359, R360): written when the ring has room and the link is up, held
otherwise. A record of a packet with FLAGS.EVT raises the till's event with SEQ (R356, R428). -/
def record (n : TillId) (k : Packet) (at_ : Nat) (interim : Bool) (st : Status) (detail result : Option Nat) (d : Dev) : Dev :=
  let (detail, d) := wordOr detail d
  let (result, d) := wordOr result d
  let r : CplRec := {
    tag := k.tag, seq := k.seq, opcode := k.opcode, status := st, interim := interim, phase := true
    detail := BitVec.ofNat 32 detail, result := BitVec.ofNat 32 result
    elapsed := BitVec.ofNat 32 (min ((d.wall - at_) / 1650) (2 ^ 32 - 1)) }
  let up := cxlIo d
  let d := d.modTill n (fun x => flushHeld up { x with held := x.held ++ [r] })
  if k.flags.getLsbD 0 then raiseEvent n.val k.seq.toNat d else d

/-- The final record of the packet a till executes; the till is idle, or disabled where ENABLE was cleared (R381). -/
def finish (n : TillId) (st : Status) (detail result : Option Nat) (d : Dev) : Dev :=
  match (d.till n).cur with
  | none => d
  | some k =>
    let d := record n k (d.till n).curAt false st detail result d
    d.modTill n (fun x => { x with
      cur := none, deferred := false, enable := x.enable && !x.closing, closing := false })

/-- An interim record with DEFERRED for the packet a till executes (R377, R416). -/
def interimDeferred (n : TillId) (d : Dev) : Dev :=
  match (d.till n).cur with
  | none => d
  | some k => (record n k (d.till n).curAt true .deferred none none d).modTill n (fun x => { x with deferred := true })

/-- Firmware starts steps of packets: a complex leads, and no update is between Quiesce and the end of Adopt (R412, R414). -/
def firmwareServes (d : Dev) : Bool := d.lease.valid && !(decide (4 ≤ d.fw.phase) && decide (d.fw.phase ≤ 7))

/-- Till `n` executes, and has not deferred, a packet with this opcode; one that firmware executes waits while none serves (R412,
R414). A RUN_TASK is the till's but for its hashes and passes (R362). -/
def executing (d : Dev) (n : TillId) (op : Nat) : Bool :=
  match (d.till n).cur with
  | some k => k.opcode.toNat == op && !(d.till n).deferred && (op == 0x0102 || firmwareServes d)
  | none => false

/-- Till `n` has deferred a packet with this opcode. -/
def deferredOn (d : Dev) (n : TillId) (op : Nat) : Bool :=
  match (d.till n).cur with
  | some k => k.opcode.toNat == op && (d.till n).deferred
  | none => false

/-- A change of management state is written to the state mirror (R405). -/
def mirror (d : Dev) : Dev := { d with lease := { d.lease with mirrorWritten := d.lease.mirrorWritten + 1 } }

/-! ### Slot maps -/

/-- Positions of a cluster in service, ascending. -/
def Cluster.inService (c : Cluster) : List Nat := which 9 (fun p => c.coreOk.getLsbD p)

/-- The positions bound to a slot. -/
def Cluster.boundPos (c : Cluster) : List Nat := c.bound.filter (· < 9)

/-- The cluster's spares: cores in service beyond the bound ones, none in time-sliced, lending or borrowing service
(R22 CLUSTER_SPARES). -/
def Cluster.spareList (c : Cluster) : List Nat :=
  if c.bound.all (· < 9) then c.inService.filter (fun p => !c.bound.contains p) else []

/-- The throughput factor in sixteenths (R17, R18). -/
def factorOf (d : Dev) (c : Nat) : Nat :=
  let x := d.cluster c
  let own := x.inService.length
  if x.orphan then 0
  else match x.borrowsFrom with
    | some l => (d.cluster l).inService.length
    | none =>
      if x.lendsTo.isSome then own
      else if 8 ≤ own then 16 else 2 * own

/-- The value of CLUSTER_STATUS (R20). -/
def clusterStatus (d : Dev) (c : Nat) : Nat :=
  let x := d.cluster c
  let boundBits := x.boundPos.foldl (fun acc p => acc + 2 ^ p) 0
  x.coreOk.toNat + put 9 9 boundBits + put 18 5 (factorOf d c) + put 23 1 (b2n x.borrowsFrom.isSome) +
    put 24 1 (b2n x.lendsTo.isSome)

/-- The value of CLUSTER_SLOT_MAP (R20). -/
def clusterSlotMap (d : Dev) (c : Nat) : Nat :=
  (List.range 8).foldl (fun acc s => acc + put (4 * s) 4 ((d.cluster c).bound.getD s 0xF)) 0

/-- The physical cores that serve slot `k`: the bound one, or all cores that deal its tiles (R16 to R18). -/
def servingCores (d : Dev) (k : Nat) : List Nat :=
  let c := clusterOfSlot k
  let x := d.cluster c
  if x.orphan then []
  else match x.bound.getD (k % 8) 0xF with
    | 0xE => match x.borrowsFrom with
      | some l => (d.cluster l).inService.map (fun p => 9 * l + p)
      | none => []
    | 0xF => x.inService.map (fun p => 9 * c + p)
    | p => [9 * c + p]

/-- The core that runs the `u`-th unit that is dealt: the units of an operation go round-robin over the serving cores, the first
unit to the lowest core (R17, R18, R120; log entry 63). -/
def dealtCore (cores : List Nat) (u : Nat) : Option Nat := cores[u % cores.length]?

/-- The core that stands for slot `k` in fault reports: the bound one, or the first that deals. -/
def coreOfSlot (d : Dev) (k : Nat) : Option Nat := (servingCores d k).head?

/-- The slots a physical core serves (R446: eight or sixteen in time-sliced or lending service). -/
def slotsOfCore (d : Dev) (core : Nat) : List Nat := (List.range 128).filter (fun k => (servingCores d k).contains core)

/-- Bind a cluster's slots anew from its cores in service: one to one when eight or more are in service, a position
that keeps its slot keeping it and the freed slots taking spares ascending; otherwise time-sliced (R16, R17). -/
def rebindOwn (x : Cluster) : Cluster :=
  let ok := x.inService
  if 8 ≤ ok.length then
    let kept := x.bound.map (fun p => if ok.contains p then p else 0xF)
    let free := ok.filter (fun p => !kept.contains p)
    let filled := kept.foldl (fun (acc : List Nat × List Nat) p =>
      if p = 0xF then (acc.1 ++ [acc.2.headD 0xF], acc.2.drop 1) else (acc.1 ++ [p], acc.2)) ([], free)
    { x with bound := filled.1 }
  else { x with bound := List.replicate 8 0xF }

/-- A cluster that can lend to cluster `c` (R18): the first after it on its die that has a core and neither lends nor
borrows. -/
def lenderFor (d : Dev) (c : Nat) : Option Nat :=
  (([1, 2, 3].map (fun i => 4 * (c / 4) + (c % 4 + i) % 4)).find? (fun l =>
    let y := d.cluster l
    y.inService.length ≠ 0 && y.lendsTo.isNone && y.borrowsFrom.isNone))

/-- A cluster without cores borrows, or is orphaned (R18). An orphan's slots show the code 0xE of a borrowing cluster in
CLUSTER_SLOT_MAP, with BORROWING 0, although no cluster serves them: the spec gives no code for them (DESIGN CHOICE, log
entry 33). -/
def borrow (c : Nat) (d : Dev) : Dev :=
  match lenderFor d c with
  | some l =>
    (d.modCluster c (fun x => { x with borrowsFrom := some l, lendsTo := none, orphan := false,
                                       bound := List.replicate 8 0xE })).modCluster l
      (fun y => { y with lendsTo := some c, bound := List.replicate 8 0xF })
  | none =>
    d.modCluster c (fun x => { x with borrowsFrom := none, lendsTo := none, orphan := true,
                                      bound := List.replicate 8 0xE })

/-- Settle a cluster after a core left or came (R16 to R18). A cluster that loses its last core borrows, and so does
the cluster it lent to; one that has a core again leaves borrowing and takes its own slots back. Where a lender loses its last
core, it looks for a lender of its own before its former borrower does: the spec does not say which comes first (DESIGN
CHOICE, log entry 33). -/
def settleOne (c : Nat) (d : Dev) : Dev :=
  let x := d.cluster c
  if x.inService.isEmpty then
    match x.lendsTo with
    | some b => borrow b (borrow c (d.modCluster c (fun y => { y with lendsTo := none })))
    | none => if x.borrowsFrom.isSome then d else borrow c d
  else
    let d := match x.borrowsFrom with
      | some l => (d.modCluster c (fun y => { y with borrowsFrom := none, orphan := false })).modCluster l
          (fun y => rebindOwn { y with lendsTo := none })
      | none => d.modCluster c (fun y => { y with orphan := false })
    if (d.cluster c).lendsTo.isSome then d else d.modCluster c rebindOwn

/-- The clusters of cluster `c`'s die, ascending. -/
def dieClusters (c : Nat) : List Nat := [0, 1, 2, 3].map (4 * (c / 4) + ·)

/-- The same, and every orphan of the die, ascending, takes a lender that the change has left free (R18). -/
def settleCluster (c : Nat) (d : Dev) : Dev :=
  (dieClusters c).foldl (fun d x => if (d.cluster x).orphan then borrow x d else d) (settleOne c d)

/-! ### The shape table -/

/-- Write the shape table's fields that follow from the clusters (R22), as one update (R23): the generation rises by
two and the shape-changed event is raised. Nothing happens when no field changes. -/
def publishShape (f : Shape → Shape) (d : Dev) : Dev :=
  let fs := (List.range 16).map (factorOf d)
  let sp := (List.range 16).map (fun c => (d.cluster c).spareList.length)
  let nz := fs.filter (· ≠ 0)
  let new := f { d.shape with
    factors := fs, packageFactor := nz.foldl min (nz.headD 0), spares := sp, sparesLeft := sp.foldl (· + ·) 0 }
  if new = d.shape then d
  else
    let g := d.shape.generation + 2
    raiseEvent 64 g.toNat { d with shape := { new with generation := g } }

end Sys2Proof.Machine
end

