-- ==== Sys2Proof/Machine/Operands.lean ====
section
/-! DEFINITION. Operands of the engine slots: memory by package address (R27), the windows and checks of R125, loop
descriptors with their indices, shares and visit order (R110 to R124), element reads, and blocked or plain writes (R88,
R90 to R95). -/

namespace Sys2Proof.Machine

/-! ### Memory -/

/-- First package address of the host tier, and of the region past every package address (R27). -/
def hostBase : Nat := 0x800000000000
def hostEnd : Nat := 0x1000000000000

/-- The link carries CXL.cache: not while it is down, nor at 2.5 GT/s (R347, R348). -/
def cacheUp (d : Dev) : Bool := decide (2 ≤ d.host.rate)

/-- Where memory keeps the byte of a package address: a host-tier name stands for the host address that HOST_TIER_OFFSET gives
it, host address = package address - 0x8000_0000_0000 + HOST_TIER_OFFSET (R27), and the byte of host address `h` is kept at
0x8000_0000_0000 + h; every other address keeps its own byte. -/
def memKey (d : Dev) (a : Nat) : Nat :=
  if a < hostBase then a else if a < hostEnd then a + d.host.tierOffset.toNat else a + 2 ^ 64

/-- The byte at a package address; an address that nothing has written reads as zero (log entry 4). -/
def rdByte (d : Dev) (a : Nat) : Byte := Tab.get 0 d.mem (memKey d a)

/-- Write one byte. -/
def wrByte (a : Nat) (v : Byte) (d : Dev) : Dev := { d with mem := Tab.set 0 d.mem (memKey d a) v }

/-- Write consecutive bytes. -/
def wrBytes (a : Nat) : List Byte → Dev → Dev
  | [], d => d
  | v :: r, d => wrBytes (a + 1) r (wrByte a v d)

/-- Read `n` consecutive bytes. -/
def rdBytes (d : Dev) (a : Nat) : Nat → List Byte
  | 0 => []
  | n + 1 => rdByte d a :: rdBytes d (a + 1) n

/-- `n` bytes read as a little-endian number (R7). -/
def rdNat (d : Dev) (a n : Nat) : Nat := leNat (rdBytes d a n)

/-- Base addresses and sizes of R27. -/
def localBase (k : Nat) : Nat := k * 0x02000000
def sharedBase (c : Nat) : Nat := 0x100000000 + c * 0x10000000
def accBase (k : Nat) : Nat := 0x200000000 + k * 0x00200000
def accSize : Nat := 0x200000
def sharedSize : Nat := 0x0C000000
def stackBase : Nat := 0x1000000000

/-- Where a package address lies (R27). -/
inductive Place where
  | localStore (k : Nat)
  | shared (c : Nat)
  | acc (k : Nat)
  | shape
  | mgmt
  | stack (die : Nat)
  | host
  | none
  deriving DecidableEq, Repr

/-- The place of an address (R27); the unpopulated part of a shared buffer's 256 MiB is none. -/
def placeOf (a : Nat) : Place :=
  if a < 0x100000000 then .localStore (a / 0x02000000)
  else if a < 0x200000000 then
    let c := (a - 0x100000000) / 0x10000000
    if a - sharedBase c < sharedSize then .shared c else .none
  else if a < 0x210000000 then .acc ((a - 0x200000000) / 0x00200000)
  else if a < 0x210000100 then .shape
  else if 0x300000000 ≤ a ∧ a < 0x400000000 then .mgmt
  else if 0x1000000000 ≤ a ∧ a < 0x11000000000 then
    let die := (a - stackBase) / 0x4000000000
    if die < 4 ∧ (a - stackBase) % 0x4000000000 < 0x2400000000 then .stack die else .none
  else if hostBase ≤ a ∧ a < hostEnd then .host
  else .none

/-- The code word of an SRAM byte, named by its first byte (R440): 4 bytes in an accumulator buffer, 8 elsewhere. -/
def wordOf (a : Nat) : Nat := match placeOf a with | .acc _ => a / 4 * 4 | _ => a / 8 * 8

/-- Bytes of a save area (R62): 2,240 KiB. -/
def saveAreaBytes : Nat := 2240 * 1024

/-- An address lies in the task's local-store window (R508). -/
def inLocalWindow (p : Prog) (a : Nat) : Bool :=
  let (b, n) := p.slotShare.getD (a / 0x02000000) (0, 0)
  let n := if p.features.getLsbD 0 then n - saveAreaBytes else n
  decide (b ≤ a) && decide (a < b + n)

/-- An address lies in the task's shared-buffer window (R508). -/
def inSharedWindow (p : Prog) (a : Nat) : Bool :=
  let (b, n) := p.clusterShare.getD ((a - 0x100000000) / 0x10000000) (0, 0)
  decide (b ≤ a) && decide (a < b + n)

/-! ### Loop descriptors -/

/-- A format word from its 32 bits (R91). -/
def FmtWord.ofNat (x : Nat) : FmtWord :=
  { code := field x 3 0, blocked := bit x 4, blk16 := bit x 5, steered := bit x 6, mapIndex := field x 15 10
    tag := field x 31 16, rsv := field x 9 7 }

/-- A level entry from its 24 bytes (R111). -/
def Level.ofBytes (l : List Byte) : Level :=
  let b := leAt l 0 4
  let c := leAt l 6 2
  { bound := field b 23 0, boundSrc := field b 28 24, tile := leAt l 4 2, role := field c 1 0, order := field c 4 2
    split := bit c 5, plist := bit c 6, splitOff := BitVec.ofNat 4 (field c 10 7)
    strideA := sext 32 (leAt l 8 4), strideB := sext 32 (leAt l 12 4), strideC := sext 32 (leAt l 16 4)
    strideAcc := sext 32 (leAt l 20 4) }

/-- A loop descriptor from its 192 bytes (R110); its reserved fields are LOAD_PROGRAM's to check. -/
def Desc.ofBytes (l : List Byte) : Desc :=
  let n := leAt l 0 1
  { levels := (List.range (min n 6)).map (fun i => Level.ofBytes (slice l (24 + 24 * i) 24))
    curve := field (leAt l 1 1) 1 0, plistBase := field (leAt l 2 1) 5 0, plistLen := leAt l 4 2
    fa := FmtWord.ofNat (leAt l 8 4), fb := FmtWord.ofNat (leAt l 12 4), fc := FmtWord.ofNat (leAt l 16 4)
    fp := FmtWord.ofNat (leAt l 20 4) }

/-- Which stride an operand uses (R112); a bias vector uses C's on the N level alone. -/
inductive OpSel where
  | a | b | c | acc | bias
  deriving DecidableEq, Repr

def Level.stride (l : Level) : OpSel → Int
  | .a => l.strideA | .b => l.strideB | .c => l.strideC | .acc => l.strideAcc
  | .bias => if l.role = 1 then l.strideC else 0

/-- The operand's SPLIT_OFF bit on the level. -/
def Level.offBit (l : Level) : OpSel → Bool
  | .a => l.splitOff.getLsbD 0 | .b => l.splitOff.getLsbD 1 | .c => l.splitOff.getLsbD 2 | .acc => l.splitOff.getLsbD 3
  | .bias => l.splitOff.getLsbD 2

/-- A level as one core runs it: the first index of its share and how many indices it takes, of how many (R119, R122). -/
structure Run where
  lv : Level
  lo : Nat
  n : Nat
  b : Nat
  deriving DecidableEq, Repr

/-- The run-time bound of a level (R122). -/
def Level.runBound (l : Level) (scal : Nat → Nat) : Nat := if l.boundSrc = 0 then l.bound else scal l.boundSrc

/-- The share of rank `j` of `n` in `b` indices (R119): first index and one past the last. -/
def share (j b n : Nat) : Nat × Nat := (ceilDiv (j * b) n, ceilDiv ((j + 1) * b) n)

/-- The levels of a descriptor as the core of rank `j` among `n` runs them. -/
def Desc.runs (x : Desc) (scal : Nat → Nat) (j n : Nat) : List Run :=
  x.levels.map (fun l =>
    let b := l.runBound scal
    if l.split then
      let (lo, hi) := share j b n
      { lv := l, lo := lo, n := hi - lo, b := b }
    else { lv := l, lo := 0, n := b, b := b })

/-- The lowest-numbered level whose run-time bound exceeds its plan (R124). -/
def Desc.outOfPlan (x : Desc) (scal : Nat → Nat) : Option Nat :=
  (List.range x.levels.length).find? (fun i =>
    match x.levels[i]? with
    | some l => decide (l.bound < l.runBound scal)
    | none => false)

/-- The element offset of an operand at an index vector (R113). -/
def offsetOf (rs : List Run) (op : OpSel) (idx : List Nat) : Int :=
  (List.zipWith (fun (r : Run) (i : Nat) =>
    ((if r.lv.split && r.lv.offBit op then i + r.lo else i : Nat) : Int) * r.lv.stride op) rs idx).foldl (· + ·) 0

/-- Tile steps of a level. -/
def Run.steps (r : Run) : Nat := ceilDiv r.n r.lv.tile

/-- The Hilbert point of `d` on a curve of side `m` (R116); `fuel` bounds the doublings of `s`. -/
def hilbertGo : Nat → Nat → Nat → Nat → Nat → Nat → Nat × Nat
  | 0, _, _, _, x, y => (x, y)
  | fuel + 1, m, t, s, x, y =>
    if m ≤ s then (x, y)
    else
      let rx := (t / 2) % 2
      let ry := (t + rx) % 2
      let (x, y) :=
        if ry = 0 then
          let (x, y) := if rx = 1 then (s - 1 - x, s - 1 - y) else (x, y)
          (y, x)
        else (x, y)
      hilbertGo fuel m (t / 4) (s * 2) (x + s * rx) (y + s * ry)

def hilbert (m d : Nat) : Nat × Nat := hilbertGo (Nat.log2 m + 1) m d 1 0 0

/-- The Morton point of `d` (R116): x takes the even bits. -/
def morton (m d : Nat) : Nat × Nat :=
  (List.range (Nat.log2 m)).foldl (fun (p : Nat × Nat) i =>
    (p.1 + b2n (bit d (2 * i)) * 2 ^ i, p.2 + b2n (bit d (2 * i + 1)) * 2 ^ i)) (0, 0)

/-- The least power of two that is at least `n`. -/
def pow2AtLeast (n : Nat) : Nat :=
  match (List.range 32).find? (fun i => decide (n ≤ 2 ^ i)) with | some i => 2 ^ i | none => 2 ^ 32

/-- The points (x, y) of the two outermost levels in visit order (R116): `a` steps of y, `b` steps of x. -/
def curvePoints (curve a b : Nat) : List (Nat × Nat) :=
  let m := pow2AtLeast (max a b)
  let pts := match curve with
    | 0 => (List.range (m * m)).map (hilbert m)
    | 1 => (List.range (m * m)).map (morton m)
    | _ => (List.range a).flatMap (fun y => (List.range b).map (fun x => (x, y)))
  pts.filter (fun p => decide (p.1 < b) && decide (p.2 < a))

/-- The level entries in nesting order, outermost first. -/
def byOrder (rs : List Run) : List Nat :=
  (List.range 8).reverse.filterMap (fun o => (List.range rs.length).find? (fun i =>
    match rs[i]? with
    | some r => r.lv.order == o
    | none => false))

/-- Tile-step vectors of the given levels, inner levels through all their steps, each as (level, step) pairs. -/
def innerSteps (rs : List Run) : List Nat → List (List (Nat × Nat))
  | [] => [[]]
  | i :: r =>
    let n := match rs[i]? with | some x => x.steps | none => 0
    (List.range n).flatMap (fun s => (innerSteps rs r).map (fun v => (i, s) :: v))

/-- The visit order of tile steps over the levels not in `skip` (R116): a list of step vectors, by level number. -/
def visit (curve : Nat) (rs : List Run) (skip : Nat → Bool) : List (List Nat) :=
  let ord := (byOrder rs).filter (fun i => !skip i)
  let steps := fun (i : Nat) => match rs[i]? with | some r => r.steps | none => 0
  let pairs : List (List (Nat × Nat)) := match byOrder rs, ord with
    | y :: x :: _, y' :: x' :: r =>
      if y = y' ∧ x = x' then
        (curvePoints curve (steps y) (steps x)).flatMap (fun (p : Nat × Nat) =>
          (innerSteps rs r).map (fun (v : List (Nat × Nat)) => (y, p.2) :: (x, p.1) :: v))
      else innerSteps rs ord
    | _, _ => innerSteps rs ord
  pairs.map (fun v => (List.range rs.length).map (fun i =>
    match v.find? (fun p => p.1 == i) with | some p => p.2 | none => 0))

/-- The valid indices of level `i` in tile step `s` (R121). -/
def Run.valid (r : Run) (s : Nat) : List Nat :=
  (List.range (min r.lv.tile (r.n - s * r.lv.tile))).map (fun j => s * r.lv.tile + j)

/-- The index vectors of a tile step over the valid indices of every level, the last level fastest. -/
def tileIdx : List Run → List Nat → List (List Nat)
  | [], _ => [[]]
  | r :: rs, steps => (r.valid (steps.headD 0)).flatMap (fun i => (tileIdx rs (steps.drop 1)).map (fun v => i :: v))

/-- The iteration space is empty (R123): an M, N or X level without an index. -/
def emptyShape (rs : List Run) : Bool := rs.any (fun r => r.lv.role ≠ 2 && r.n == 0)

/-- The extent in elements of an operand planned over its whole descriptor (R92): one plus the largest offset. -/
def plannedExtent (x : Desc) (op : OpSel) (n : Nat) : Nat :=
  let top := x.levels.foldl (fun (acc : Int) l =>
    let b := if l.split && !l.offBit op then ceilDiv l.bound n else l.bound
    acc + max 0 (((b : Int) - 1) * l.stride op)) 0
  top.toNat + 1

/-! ### Element accesses -/

/-- Why an operation stops on a core: a check of R125 (resource code, address, level), an SRAM word or an accumulator
word that its code cannot correct (R440), a rule whose breach is BAD_PARAM at the bundle address, a shared pitch
(R236), a shape beyond its plan (R124), a porter transfer's fault with its cause (R286), or a stack block that cannot be
rebuilt (R251). -/
inductive Stop where
  | overflow (resource : Nat) (addr : Nat) (level : Nat)
  | ecc (addr : Nat)
  | accBad
  | badParam
  | badPitch (pitch : Nat)
  | shape (level addr : Nat)
  | pfault (cause addr : Nat)
  | block (addr : Nat)
  deriving DecidableEq, Repr

/-- A block of a blocked output of which earlier tile steps have written lanes and whose last lane is to come: the base of the
operand, the block's number, and the lanes' offsets and values. -/
structure HeldBlk where
  base : Nat
  no : Int
  lanes : List (Int × Option Num)

/-- The same for the scales unit's block of 32 values (R102): its tag, SAT, and the lanes' offsets and values. -/
structure HeldCnt where
  base : Nat
  no : Int
  tag : Nat
  sat : Bool
  lanes : List (Int × Num)

/-- An operation on one core as it runs: the device, the stop it met, the accesses it may still make (a stop elsewhere
ends it, R126), each operand's previous index vector (R128 LEVEL), and the blocks whose last lane is to come. -/
structure Ex where
  d : Dev
  stop : Option Stop := none
  fuel : Option Nat := none
  last : List (Nat × List Nat) := []
  held : List HeldBlk := []
  counts : List HeldCnt := []
  /-- elements that the latest tile write stored -/
  done : Nat := 0

/-- Whether the operation goes on. -/
def Ex.live (x : Ex) : Bool := x.stop.isNone && (match x.fuel with | some 0 => false | _ => true)

/-- Where an engine's element access goes: the slot's program and cluster. -/
structure Env where
  t : CtxId
  k : Nat
  prog : Prog
  runs : List Run
  n : Nat

/-- An operand as an engine addresses it: its base, its effective format, and where its scales lie (R92). -/
structure View where
  sel : OpSel
  tagNo : Nat
  base : Nat
  fmt : Fmt
  blocked : Bool
  blk : Nat
  scaleBase : Nat
  /-- elements added to every offset (the taps of R206) -/
  shift : Int := 0
  /-- bytes added to the base (the planes of R136) -/
  disp : Int := 0

/-- Checks 1 to 3 of R125 on a byte of an MX, VX or TX operand. -/
def engineCheck (env : Env) (a : Int) : Option Nat :=
  if a < 0 ∨ (2 ^ 48 : Int) ≤ a then some 6
  else
    let n := a.toNat
    match placeOf n with
    | .localStore j =>
      if j / 8 ≠ env.k / 8 then some 6 else if inLocalWindow env.prog n then none else some 1
    | .shared c =>
      if c ≠ env.k / 8 then some 6 else if inSharedWindow env.prog n then none else some 2
    | _ => some 6

/-- The level named in LOOP_FAULT_ADDR (R128): the outermost whose index changed since the operand's previous access,
or the level of ORDER 0 at its first. -/
def faultLevel (rs : List Run) (prev : Option (List Nat)) (idx : List Nat) : Nat :=
  let ord := byOrder rs
  match prev with
  | none => ord.getLastD 0
  | some p => (ord.find? (fun i => decide (p.getD i 0 ≠ idx.getD i 0))).getD (ord.getLastD 0)

/-- The bit position of an element (R88). -/
def View.bitPos (v : View) (off : Int) : Int := 8 * ((v.base : Int) + v.disp) + (off + v.shift) * (v.fmt.bits : Int)

/-- The byte addresses of an element, and of its scale. -/
def View.byteAddrs (v : View) (off : Int) : List Int :=
  let p := v.bitPos off
  let first := p / 8
  let last := (p + v.fmt.bits - 1) / 8
  (List.range ((last - first).toNat + 1)).map (fun i => first + (i : Nat))

def View.scaleAddr (v : View) (off : Int) : Int := (v.scaleBase : Int) + (off + v.shift) / (v.blk : Int)

/-- Make one access to the bytes `as_`: the first that fails a check stops the operation (R125, R126), and a bad word
stops it under R440 unless the access covers it whole. ADDR of R128 is the access's first byte that fails: the spec does not say
which byte it names where an access lies across a window's edge (DESIGN CHOICE, log entry 65). -/
def access (env : Env) (v : View) (idx : List Nat) (as_ : List Int) (whole : List Nat) (x : Ex) : Ex :=
  if !x.live then x
  else
    let prev := (x.last.find? (fun p => p.1 == v.tagNo)).map (·.2)
    match as_.find? (fun a => (engineCheck env a).isSome) with
    | some a =>
      { x with stop := some (.overflow ((engineCheck env a).getD 6) (wrapInt 48 a) (faultLevel env.runs prev idx)) }
    | none =>
      match as_.find? (fun a => x.d.badSram.contains (wordOf a.toNat) && !whole.contains (wordOf a.toNat)) with
      | some a => { x with stop := some (.ecc a.toNat) }
      | none => { x with
          fuel := x.fuel.map (· - 1)
          last := (v.tagNo, idx) :: x.last.filter (fun p => p.1 ≠ v.tagNo) }

/-- The bits of an element in memory. -/
def View.rawBits (v : View) (d : Dev) (off : Int) : Nat :=
  let p := v.bitPos off
  let first := (p / 8).toNat
  field (rdNat d first (v.byteAddrs off).length) ((p % 8).toNat + v.fmt.bits - 1) (p % 8).toNat

/-- The value of an element in memory (R87, R90). -/
def View.value (v : View) (d : Dev) (off : Int) : Num :=
  if v.blocked then v.fmt.decodeBlocked (rdByte d (v.scaleAddr off).toNat).toNat (v.rawBits d off)
  else v.fmt.decode (v.rawBits d off)

/-- Read the element at an offset with its block scale. -/
def readAt (env : Env) (v : View) (off : Int) (idx : List Nat) (x : Ex) : Num × Ex :=
  let as_ := v.byteAddrs off ++ (if v.blocked then [v.scaleAddr off] else [])
  let y := access env v idx as_ [] x
  if x.live ∧ y.stop.isNone then (v.value y.d off, y) else (.zero, y)

/-- Insert an element into a list sorted by offset, once per offset. -/
def insertOff (off : Int) (idx : List Nat) : List (Int × List Nat) → List (Int × List Nat)
  | [] => [(off, idx)]
  | (o, i) :: r => if off < o then (off, idx) :: (o, i) :: r else if off = o then (o, i) :: r
    else (o, i) :: insertOff off idx r

/-- The distinct elements of an operand over index vectors, in ascending offset (R117). -/
def sortedElems (env : Env) (v : View) (idxs : List (List Nat)) : List (Int × List Nat) :=
  idxs.foldl (fun acc i => insertOff (offsetOf env.runs v.sel i) i acc) []

/-- Read elements once each in ascending offset (R117); the values by offset. -/
def readOffs (env : Env) (v : View) (l : List (Int × List Nat)) (x : Ex) : List (Int × Num) × Ex :=
  (l.foldl (fun acc e => insertOff e.1 e.2 acc) []).foldl (fun (acc : List (Int × Num) × Ex) e =>
    if acc.2.live then
      let (u, y) := readAt env v e.1 e.2 acc.2
      (acc.1 ++ [(e.1, u)], y)
    else acc) ([], x)

/-- Read the distinct elements of an operand over index vectors; the values by offset. -/
def readTile (env : Env) (v : View) (idxs : List (List Nat)) (x : Ex) : List (Int × Num) × Ex :=
  readOffs env v (idxs.map (fun i => (offsetOf env.runs v.sel i, i))) x

/-- The value read at an offset. -/
def valueAt (l : List (Int × Num)) (off : Int) : Num :=
  match l.find? (fun p => p.1 == off) with
  | some p => p.2
  | none => .zero

/-- Bytes that the running operation writes: no veil lies over them any more (R142). -/
def unveil (as_ : List Nat) (d : Dev) : Dev :=
  if d.veil = [] then d else let ks := as_.map (memKey d); { d with veil := d.veil.filter (fun e => !ks.contains e.1) }

/-- What a byte holds under the veil. -/
def heldByte (d : Dev) (a : Nat) : Byte :=
  match d.veil.find? (fun e => e.1 == memKey d a) with
  | some e => e.2
  | none => rdByte d a

/-- Store an element's bits (a part of a byte keeps the byte's other bits). -/
def View.storeBits (v : View) (off : Int) (bits : Nat) (d : Dev) : Dev :=
  let p := v.bitPos off
  let first := (p / 8).toNat
  let n := (v.byteAddrs off).length
  let sh := (p % 8).toNat
  let old := leNat ((List.range n).map (fun j => heldByte d (first + j)))
  let new := old % 2 ^ sh + (bits % 2 ^ v.fmt.bits) * 2 ^ sh + (old / 2 ^ (sh + v.fmt.bits)) * 2 ^ (sh + v.fmt.bits)
  wrBytes first (leBytes n new) (unveil ((List.range n).map (first + ·)) d)

/-- Store a block's scale byte. -/
def View.storeScale (v : View) (off : Int) (sc : Nat) (d : Dev) : Dev :=
  let a := (v.scaleAddr off).toNat
  wrByte a (BitVec.ofNat 8 sc) (unveil [a] d)

/-- Store a valid element of an output; an operation under capture notes what it wrote to C (R199). -/
def View.storeElem (v : View) (k : Nat) (off : Int) (bits : Nat) (d : Dev) : Dev :=
  let d := v.storeBits off bits d
  if d.seq.tapOn && v.sel == .c then
    { d with seq := { d.seq with tapLog := d.seq.tapLog ++ [(k, v.fmt.bits, (v.bitPos off).toNat)] } }
  else d

/-- The code words that a set of byte addresses covers whole (R440). -/
def wholeWords (as_ : List Int) : List Nat :=
  let l := as_.map (·.toNat)
  (l.map wordOf).filter (fun w => (List.range 8).all (fun i => l.contains (w + i)))

/-- One value of a tile step's output: its index vector, its value, or an open value where the spec leaves the result
open (`none`). -/
abbrev OutVal := List Nat × Option Num

/-- The innermost stored level of a blocked operand (R92). -/
def innerLevel (rs : List Run) (sel : OpSel) : Nat :=
  ((List.range rs.length).find? (fun i => match rs[i]? with | some r => r.lv.stride sel == 1 | none => false)).getD 0

/-- The lanes of a tile step's output that share the block of `off`. -/
def blockLanes' (env : Env) (v : View) (outs : List OutVal) (blkNo : Int) : List OutVal :=
  outs.filter (fun o => (offsetOf env.runs v.sel o.1 + v.shift) / (v.blk : Int) == blkNo)

/-- Of the block that an output lane lies in: how many valid lanes this core's share has in it, and how many the whole operation
has (R121, R507). -/
def blockShare (env : Env) (v : View) (idx : List Nat) : Nat × Nat :=
  let li := innerLevel env.runs v.sel
  match env.runs[li]? with
  | none => (0, 1)
  | some r =>
    let joint := r.lv.split && r.lv.offBit v.sel
    let lo : Nat := if joint then r.lo else 0
    let first : Int := ((idx.getD li 0 + lo : Nat) : Int) - (offsetOf env.runs v.sel idx + v.shift) % (v.blk : Int)
    let span := fun (a b : Nat) => (min (first + v.blk) (b : Int) - max first (a : Int)).toNat
    (span lo (lo + r.n), span 0 (if joint then r.b else r.n))

/-- Offsets of the stored padding that follows the last valid lane of a run (R92, R121, R507): of the core's own tensor, or of the
one that all cores write. -/
def padOffs (env : Env) (v : View) (off : Int) (idx : List Nat) : List Int :=
  let li := innerLevel env.runs v.sel
  match env.runs[li]? with
  | some r =>
    if idx.getD li 0 + 1 = r.n ∧ (!(r.lv.split && r.lv.offBit v.sel) ∨ r.lo + r.n = r.b) then
      (List.range (v.blk - 1 - ((off + v.shift) % (v.blk : Int)).toNat)).map (fun j => off + 1 + (j : Nat))
    else []
  | none => []

/-- The lanes of a block that earlier tile steps of the operation have written. -/
def Ex.heldLanes (x : Ex) (v : View) (no : Int) : List (Int × Option Num) :=
  match x.held.find? (fun h => h.base == v.base && h.no == no) with
  | some h => h.lanes
  | none => []

/-- A tile step's lanes join the blocks that are not whole yet. -/
def Ex.holdLanes (v : View) (no : Int) (lanes : List (Int × Option Num)) (x : Ex) : Ex :=
  { x with held := { base := v.base, no := no, lanes := lanes } :: x.held.filter (fun h => !(h.base == v.base && h.no == no)) }

/-- The lanes of an output block known after this tile step, and whether they are all of it: R93 chooses the scale from the valid
lanes of the whole block, in whichever tile steps of the core they are written. A block that holds lanes of two cores' shares is
never whole (R507). -/
def outBlock (env : Env) (v : View) (outs : List OutVal) (idx : List Nat) (x : Ex) : List (Int × Option Num) × Bool :=
  let no := (offsetOf env.runs v.sel idx + v.shift) / (v.blk : Int)
  let lanes := x.heldLanes v no ++ (blockLanes' env v outs no).map (fun o => (offsetOf env.runs v.sel o.1, o.2))
  let (mine, all) := blockShare env v idx
  (lanes, lanes.length == mine && mine == all && lanes.all (fun l => l.2.isSome))

/-- Store one lane of a blocked output (R93): with its block's scale where the block is whole, the lanes that earlier tile steps
wrote included; otherwise open values stand for its element and scale until the block is whole, and for good where it never is
(log entry 11). -/
def storeBlocked (env : Env) (v : View) (sat : Bool) (outs : List OutVal) (e : Int × List Nat) (x : Ex) : Ex :=
  let (lanes, whole) := outBlock env v outs e.2 x
  if whole then
    let sc := blockScale v.fmt sat (lanes.filterMap (·.2))
    let put_ := fun (off : Int) (u : Option Num) (d : Dev) => v.storeBits off (v.fmt.encodeBlocked sat sc (u.getD .zero)) d
    let d := (x.heldLanes v ((e.1 + v.shift) / (v.blk : Int))).foldl (fun d l => put_ l.1 l.2 d) x.d
    let own := (lanes.find? (fun l => l.1 == e.1)).bind (fun l => l.2)
    let d := v.storeElem env.k e.1 (v.fmt.encodeBlocked sat sc (own.getD .zero)) d
    { x with d := v.storeScale e.1 sc d }
  else
    let (g, d) := useFree v.fmt.bits x.d
    let (h, d) := useFree 8 d
    { x with d := v.storeScale e.1 h (v.storeElem env.k e.1 g d) }

/-- Write the outputs of a tile step, in ascending element offset (R117). Plain operands convert each value under SAT
(R94, R95). A blocked operand takes each block's scale from its valid lanes (R93), stores the padding of the last block
as zeros, checked as the write it is (R121, R125); that of a block shared with another core's share is open (R507). -/
def writeTile (env : Env) (v : View) (sat : Bool) (outs : List OutVal) (x : Ex) : Ex :=
  let sorted := sortedElems env v (outs.map (·.1))
  let bytes := sorted.flatMap (fun e => v.byteAddrs e.1 ++
    (if v.blocked then v.scaleAddr e.1 :: (padOffs env v e.1 e.2).flatMap v.byteAddrs else []))
  let whole := wholeWords bytes
  let clear := fun (d : Dev) => { d with badSram := d.badSram.filter (fun w => !(whole.contains w)) }
  let valOf := fun (idx : List Nat) => match outs.find? (fun o => o.1 == idx) with | some o => o.2 | none => none
  let y := sorted.foldl (fun (x : Ex) e =>
    if !x.live then x
    else
      let as_ := v.byteAddrs e.1 ++ (if v.blocked then [v.scaleAddr e.1] else [])
      let y := access env v e.2 as_ whole x
      if y.stop.isSome then y
      else if !v.blocked then
        match valOf e.2 with
        | some u => { y with d := clear (v.storeElem env.k e.1 (v.fmt.encode sat u) y.d), done := y.done + 1 }
        | none =>
          let (g, d) := useFree v.fmt.bits y.d
          { y with d := clear (v.storeElem env.k e.1 g d), done := y.done + 1 }
      else
        let y := storeBlocked env v sat outs e y
        let joint := let s := blockShare env v e.2; s.1 != s.2
        (padOffs env v e.1 e.2).foldl (fun (y : Ex) off =>
          if !y.live then y
          else
            let z := access env v e.2 (v.byteAddrs off) whole y
            if z.stop.isSome then z
            else
              let (g, d) := if joint then useFree v.fmt.bits z.d else (0, z.d)
              { z with d := clear (v.storeBits off g d) }) { y with d := clear y.d, done := y.done + 1 }) { x with done := 0 }
  if !v.blocked then y
  else
    sorted.foldl (fun (y : Ex) e =>
      let no := (e.1 + v.shift) / (v.blk : Int)
      let (lanes, done) := outBlock env v outs e.2 x
      if done then { y with held := y.held.filter (fun h => !(h.base == v.base && h.no == no)) } else y.holdLanes v no lanes) y

/-- The effective format of an operand's word (R91, R105): a steered operand takes its FORMAT_MAP entry. -/
def effective (c : Ctx) (w : FmtWord) : Fmt × Bool × Nat :=
  if w.steered then
    let e := (Tab.get 0 c.fmap w.mapIndex).toNat
    let f := (Fmt.ofCode (field e 3 0)).getD .bf16
    (f, f != .bf16, if bit e 4 then 16 else 32)
  else ((Fmt.ofCode w.code).getD .fp32, w.blocked, if w.blk16 then 16 else 32)

/-- The view of an operand with its base (R92: scales from the element bytes rounded up to 4,096). -/
def viewOf (c : Ctx) (x : Desc) (n : Nat) (sel : OpSel) (tagNo base : Nat) (w : FmtWord) : View :=
  let (f, blocked, blk) := effective c w
  let ext := plannedExtent x sel n
  let ext := if blocked then roundUp ext blk else ext
  { sel := sel, tagNo := tagNo, base := base, fmt := f, blocked := blocked, blk := blk
    scaleBase := base + roundUp (ceilDiv (ext * f.bits) 8) 4096 }

end Sys2Proof.Machine
end

