-- ==== Sys2Proof/Machine/HomeTable.lean ====
section
/-! DEFINITION. The home table and addresses by name (12_porter_tiers.md R278, R279): what a name of the stack or host-tier
region stands for, and bytes read and written by name. -/

namespace Sys2Proof.Machine

/-- An address of the stack or host-tier region, which porters address by name (R279). -/
def isName (a : Nat) : Bool :=
  (decide (stackBase ≤ a) && decide (a < 0x11000000000)) || (decide (hostBase ≤ a) && decide (a < 0x1000000000000))

/-! ### The home table -/

def Dev.home (d : Dev) (i : Nat) : Home := Tab.get {} d.homes i
def Dev.modHome (d : Dev) (i : Nat) (f : Home → Home) : Dev := { d with homes := Tab.mod {} d.homes i f }

/-- Live descriptors, by index. -/
def liveHomes (d : Dev) : List (Nat × Home) := d.homes.filter (fun (p : Nat × Home) => p.2.valid)

/-- The descriptor whose name range contains an address (R279). -/
def homeAt (d : Dev) (a : Nat) : Option (Nat × Home) :=
  (liveHomes d).find? (fun p => decide (p.2.name ≤ a) && decide (a < p.2.name + p.2.size))

/-- Where a home holds the byte at an offset of its object: units below MOVED lie in the new place (R282). -/
def Home.addr (h : Home) (off : Nat) : Nat :=
  if h.moving && decide (off / unit64 < h.moved) then h.toPlace + off else h.place + off

/-- The package address of a named byte; SRAM addresses are not translated (R279). -/
def translate (d : Dev) (a : Nat) : Option Nat :=
  if isName a then (homeAt d a).map (fun p => p.2.addr (a - p.2.name)) else some a

/-- A named byte's package address, or the address itself where nothing names it. -/
def physical (d : Dev) (a : Nat) : Nat := (translate d a).getD a

/-! ### Memory by name -/

/-- Bytes at a name or SRAM address, as the hub and the engines' own units read them (R279). -/
def hubRd (d : Dev) (a n : Nat) : List Byte := (List.range n).map (fun i => rdByte d (physical d (a + i)))

/-- Write bytes at a name or SRAM address. -/
def hubWr (a : Nat) (l : List Byte) (d : Dev) : Dev :=
  l.zipIdx.foldl (fun d p => wrByte (physical d (a + p.2)) p.1 d) d

end Sys2Proof.Machine
end

