-- ==== Sys2Proof/Machine/Bundle.lean ====
section
/-! DEFINITION. Bundles (02_bundle_stream.md R34 to R43): the fields of a bundle, the commands its slots hold, and the rules
that LOAD_PROGRAM checks on it (R35 to R38, R41). -/

namespace Sys2Proof.Machine

/-- Field of `w` bits from bit `lo`. -/
def cut (x lo w : Nat) : Nat := (x / 2 ^ lo) % 2 ^ w

/-- The fields of a bundle (R34, R35). -/
structure Bundle where
  hdr : Nat
  mx : Nat
  vx : Nat
  pt : Nat
  tx : Nat
  lp : Nat
  sy : Nat
  ext : Nat
  deriving DecidableEq, Repr

def Bundle.of (w : BitVec 512) : Bundle :=
  let n := w.toNat
  { hdr := cut n 0 16, mx := cut n 16 96, vx := cut n 112 96, pt := cut n 208 96, tx := cut n 304 64, lp := cut n 368 64
    sy := cut n 432 32, ext := cut n 464 48 }

def Bundle.cls (b : Bundle) : Nat := cut b.hdr 0 3
def Bundle.yielding (b : Bundle) : Bool := bit b.hdr 3
def Bundle.bell (b : Bundle) : Bool := bit b.hdr 4
def Bundle.ckpt (b : Bundle) : Bool := bit b.hdr 5
def Bundle.owner (b : Bundle) : Nat := cut b.hdr 6 3
/-- EXT as slot `n` of EXT_OWNER sees it. -/
def Bundle.extOf (b : Bundle) (n : Nat) : Nat := if b.owner = n then b.ext else 0

/-! ### Slots -/

/-- The MX slot's fields (R39). -/
def mxFields (x : Nat) : MxOp :=
  { mask := BitVec.ofNat 4 (cut x 8 4), ldesc := BitVec.ofNat 6 (cut x 12 6), baseA := BitVec.ofNat 6 (cut x 18 6)
    baseB := BitVec.ofNat 6 (cut x 24 6), baseC := BitVec.ofNat 6 (cut x 30 6), stat := BitVec.ofNat 2 (cut x 36 2)
    fmtA := BitVec.ofNat 4 (cut x 38 4), fmtB := BitVec.ofNat 4 (cut x 42 4), fmtC := BitVec.ofNat 4 (cut x 46 4)
    preload := BitVec.ofNat 2 (cut x 50 2), baseP := BitVec.ofNat 6 (cut x 52 6), accInto := bit x 58, sat := bit x 59
    swap := bit x 60, accOff := BitVec.ofNat 11 (cut x 61 11), baseM := BitVec.ofNat 6 (cut x 72 6), full := bit x 78 }

/-- The VX slot's fields (R40). -/
def vxFields (x : Nat) : VxOp :=
  { mask := BitVec.ofNat 4 (cut x 8 4), ldesc := BitVec.ofNat 6 (cut x 12 6), baseA := BitVec.ofNat 6 (cut x 18 6)
    baseB := BitVec.ofNat 6 (cut x 24 6), baseC := BitVec.ofNat 6 (cut x 30 6), fmtIn := BitVec.ofNat 4 (cut x 36 4)
    fmtOut := BitVec.ofNat 4 (cut x 40 4), sat := bit x 44, stats := bit x 45, arg := BitVec.ofNat 16 (cut x 46 16) }

/-- The PT slot's fields (R40). -/
def ptSlotFields (x ext : Nat) : PtOp :=
  { mask := BitVec.ofNat 4 (cut x 8 4), ldesc := BitVec.ofNat 6 (cut x 12 6), baseSrc := BitVec.ofNat 6 (cut x 18 6)
    baseDst := BitVec.ofNat 6 (cut x 24 6), frc := BitVec.ofNat 3 (cut x 30 3), token := BitVec.ofNat 12 (cut x 33 12)
    tokenEn := bit x 45, oparg := BitVec.ofNat 18 (cut x 46 18), ext := BitVec.ofNat 48 ext }

/-- The TX slot's fields (R40). -/
def txFields (x : Nat) : TxOp :=
  { mask := BitVec.ofNat 4 (cut x 8 4), ldesc := BitVec.ofNat 6 (cut x 12 6), baseSrc := BitVec.ofNat 6 (cut x 18 6)
    baseDst := BitVec.ofNat 6 (cut x 24 6), fmtIn := BitVec.ofNat 4 (cut x 30 4), fmtOut := BitVec.ofNat 4 (cut x 34 4)
    dual := bit x 38 }

/-- The matrix operation of an opcode (R69, R205, R221). -/
def mxInstr (t : CtxId) (op : Nat) (o : MxOp) : Option Instr :=
  match op with
  | 0x01 => some (.mma t o) | 0x02 => some (.sload t o) | 0x03 => some (.accwrite t o) | 0x04 => some (.acczero t o)
  | 0x10 => some (.conv t o) | 0x11 => some (.convt t o) | 0x12 => some (.convwg4 t o) | 0x13 => some (.convwg2 t o)
  | 0x14 => some (.convdw t o) | 0x20 => some (.attn t o) | 0x21 => some (.attnFin t o) | 0x22 => some (.attnBwd t o)
  | 0x23 => some (.kvAppend t o) | 0x24 => some (.attnDec t o)
  | _ => none

/-- The vector operation of an opcode (R130). -/
def vxInstr (t : CtxId) (op : Nat) (o : VxOp) : Option Instr :=
  match op with
  | 0x01 => some (.add t o) | 0x02 => some (.sub t o) | 0x03 => some (.mul t o) | 0x04 => some (.fma t o)
  | 0x05 => some (.max t o) | 0x06 => some (.min t o) | 0x07 => some (.scale t o) | 0x08 => some (.offset t o)
  | 0x09 => some (.cvt t o) | 0x0A => some (.select t o) | 0x10 => some (.redsum t o) | 0x11 => some (.redmax t o)
  | 0x12 => some (.redsumsq t o) | 0x13 => some (.ksum t o) | 0x18 => some (.expsub t o) | 0x19 => some (.recip t o)
  | 0x1A => some (.sqrt t o) | 0x1B => some (.rsqrt t o) | 0x20 => some (.exp t o) | 0x21 => some (.log t o)
  | 0x22 => some (.sigmoid t o) | 0x23 => some (.tanh t o) | 0x24 => some (.gelu t o) | 0x25 => some (.silu t o)
  | 0x30 => some (.rngu t o) | 0x31 => some (.rngn t o) | 0x32 => some (.dropmask t o) | 0x40 => some (.optstep t o)
  | _ => none

/-- The porter operation of an opcode (R157, R274, R300, R327). -/
def ptInstr (t : CtxId) (op : Nat) (o : PtOp) : Option Instr :=
  match op with
  | 0x01 => some (.copy t o) | 0x02 => some (.encode t o) | 0x03 => some (.decode t o) | 0x04 => some (.ring t o)
  | 0x10 => some (.lsend t o) | 0x18 => some (.rxmax t o) | 0x19 => some (.rsend t o) | 0x1A => some (.rgather t o)
  | 0x20 => some (.bpush t o) | 0x21 => some (.bpushoff t o) | 0x22 => some (.bpushrc t o) | 0x23 => some (.bpop t o)
  | _ => none

/-- The transpose operation of an opcode (R137). -/
def txInstr (t : CtxId) (op : Nat) (o : TxOp) : Option Instr :=
  match op with
  | 0x01 => some (.tcopy t o) | 0x02 => some (.tblock t o)
  | _ => none

/-- The LP operation (R41); EXT is given where EXT_OWNER = 5. -/
def lpInstr (t : CtxId) (x : Nat) (ext : Option Nat) : Option Instr :=
  let dst := BitVec.ofNat 5 (cut x 6 5)
  let src := BitVec.ofNat 5 (cut x 11 5)
  let mask := BitVec.ofNat 4 (cut x 16 4)
  let imm := BitVec.ofNat 42 (cut x 22 42)
  match cut x 0 6 with
  | 0x01 => some (.smovi t dst imm) | 0x02 => some (.sadd t dst src imm)
  | 0x03 => some (.loop t (dst.setWidth 3) src imm) | 0x04 => some (.br t imm) | 0x05 => some (.brz t src imm)
  | 0x06 => some (.brnz t src imm) | 0x07 => some (.bset t dst mask imm (ext.map (BitVec.ofNat 48)))
  | 0x08 => some (.badd t dst src mask imm) | 0x09 => some (.brow t dst src mask imm)
  | 0x0A => some (.mload t (dst.setWidth 4) imm)
  | _ => none

/-- The SY operation (R43). -/
def syInstr (t : CtxId) (b : Bundle) : Option Instr :=
  let x := b.sy
  let e := b.extOf 6
  match cut x 0 4 with
  | 0x1 => some (.bell t { tok0 := BitVec.ofNat 12 (cut x 4 12), cnt0 := BitVec.ofNat 8 (cut x 16 8)
                           tok1 := BitVec.ofNat 12 (cut e 0 12), cnt1 := BitVec.ofNat 8 (cut e 12 8)
                           tok2 := BitVec.ofNat 12 (cut e 20 12), cnt2 := BitVec.ofNat 8 (cut e 32 8)
                           ckpt := b.ckpt, yielding := b.yielding })
  | 0x2 => some (.tclear t (BitVec.ofNat 12 (cut x 4 12)))
  | 0x3 => some (.signal t (BitVec.ofNat 8 (cut x 24 8)))
  | _ => none

def Bundle.mxI (b : Bundle) (t : CtxId) : Option Instr := mxInstr t (cut b.mx 0 8) (mxFields b.mx)
def Bundle.vxI (b : Bundle) (t : CtxId) : Option Instr := vxInstr t (cut b.vx 0 8) (vxFields b.vx)
def Bundle.ptI (b : Bundle) (t : CtxId) : Option Instr := ptInstr t (cut b.pt 0 8) (ptSlotFields b.pt (b.extOf 3))
def Bundle.txI (b : Bundle) (t : CtxId) : Option Instr := txInstr t (cut b.tx 0 8) (txFields b.tx)
def Bundle.lpI (b : Bundle) (t : CtxId) : Option Instr :=
  lpInstr t b.lp (if b.owner = 5 then some b.ext else none)
def Bundle.syI (b : Bundle) (t : CtxId) : Option Instr := syInstr t b

/-! ### The rules of R35 to R38 -/

/-- OP 0 is a NOP (R37); any other opcode is defined. -/
def slotDefined (op : Nat) (i : Option Instr) : Bool := op == 0 || i.isSome

/-- Reserved fields of the MX slot (R39; R204 and R219 for FULL, R220 for STAT and PRELOAD). -/
def mxClean (x : Nat) : Bool :=
  let op := cut x 0 8
  cut x 79 17 == 0 && cut x 36 2 != 3 && cut x 50 2 != 3 && !(decide (0x10 ≤ op) && bit x 78) &&
    !(decide (0x20 ≤ op) && (cut x 36 2 != 0 || cut x 50 2 != 0))

/-- Reserved fields of the VX slot (R40). -/
def vxClean (x : Nat) : Bool := cut x 62 34 == 0

/-- The STANDBY bit of a reduction operation's slot (R327). -/
def ptStandby (x : Nat) : Bool := (cut x 0 8 == 0x18 || cut x 0 8 == 0x19 || cut x 0 8 == 0x1A) && bit x 57

/-- Reserved fields of the PT slot (R40, R274, R300, R327). -/
def ptClean (x : Nat) : Bool :=
  let op := cut x 0 8
  let arg := cut x 46 18
  cut x 64 32 == 0 && decide (cut x 30 3 ≤ 4) && !(decide (1 ≤ op) && decide (op ≤ 4) && arg != 0) &&
    !(op == 0x10 && cut arg 16 2 != 0) && !(decide (0x18 ≤ op) && decide (op ≤ 0x1F) && cut arg 12 6 != 0)

/-- Reserved fields of the TX slot (R40). -/
def txClean (x : Nat) : Bool := cut x 39 25 == 0

/-- The bits of an LP slot that its operation reads (R41). BSET with EXT_OWNER = 5 takes EXT instead of IMM, so IMM is taken as
unread there and must be zero: the spec does not say so itself (DESIGN CHOICE, log entry 47). -/
def lpUsed (op : Nat) (ext : Bool) : Nat :=
  let dst := put 6 5 31
  let src := put 11 5 31
  let mask := put 16 4 15
  let imm := fun (n : Nat) => put 22 n (2 ^ n - 1)
  63 + match op with
    | 0x01 => dst + imm 32
    | 0x02 => dst + src + imm 32
    | 0x03 => put 6 3 7 + src + imm 32
    | 0x04 => imm 16
    | 0x05 | 0x06 => src + imm 16
    | 0x07 => dst + mask + (if ext then 0 else imm 42)
    | 0x08 => dst + src + mask + imm 42
    | 0x09 => dst + src + mask + imm 42
    | 0x0A => put 6 4 15 + imm 12
    | _ => 0

/-- The LP slot's rules (R38, R41, R42): no unread bit set, targets inside an image of `n` bundles, no MLOAD of MASK0. -/
def lpClean (n x : Nat) (ext : Bool) : Bool :=
  let op := cut x 0 6
  let imm := cut x 22 42
  (x &&& lpUsed op ext) == x &&
    (match op with
     | 0x03 => decide (cut imm 16 16 < n)
     | 0x04 | 0x05 | 0x06 => decide (cut imm 0 16 < n)
     | 0x0A => cut x 6 4 != 0
     | _ => true)

/-- Bits of EXT that the owning operation does not use are zero, and the owner's operation uses EXT (R37). -/
def extClean (b : Bundle) : Bool :=
  let op := cut b.pt 0 8
  match b.owner with
  | 0 => b.ext == 0
  | 3 =>
    if op = 0x21 then true
    else if op = 0x22 then cut b.ext 32 16 == 0
    else if op = 0x10 then cut b.ext 13 35 == 0
    else if ptStandby b.pt then cut b.ext 10 38 == 0
    else false
  | 5 => cut b.lp 0 6 == 0x07
  | 6 => cut b.sy 0 4 == 0x1 && cut b.ext 40 8 == 0
  | _ => false

/-- The slots of a bundle of an image of `n` bundles hold defined operations without a reserved field (R38 to R43). -/
def slotsOk (n : Nat) (b : Bundle) : Bool :=
  let t : CtxId := 0
  slotDefined (cut b.mx 0 8) (b.mxI t) && slotDefined (cut b.vx 0 8) (b.vxI t) &&
    slotDefined (cut b.pt 0 8) (b.ptI t) && slotDefined (cut b.tx 0 8) (b.txI t) &&
    slotDefined (cut b.lp 0 6) (b.lpI t) && slotDefined (cut b.sy 0 4) (b.syI t) &&
    mxClean b.mx && vxClean b.vx && ptClean b.pt && txClean b.tx && lpClean n b.lp (b.owner == 5)

/-- A bundle of an image of `n` bundles obeys R35 to R38 and its slots' tables. Which operations need EXT: BPUSHOFF, BPUSHRC
and STANDBY (R157, R327). An END bundle dispatches nothing, and its slots need only be encoded without a reserved field. -/
def bundleOk (n : Nat) (w : BitVec 512) : Bool :=
  let b := Bundle.of w
  let slots := b.mx == 0 && b.vx == 0 && b.pt == 0 && b.tx == 0 && b.lp == 0 && b.sy == 0
  cut b.hdr 9 7 == 0 &&
  match b.cls with
  | 0 =>
    (b.bell == (cut b.sy 0 4 == 0x1)) && (!b.ckpt || b.bell) && extClean b && slotsOk n b &&
      !((cut b.pt 0 8 == 0x21 || cut b.pt 0 8 == 0x22 || ptStandby b.pt) && b.owner != 3)
  | 1 => slots && !b.yielding && !b.bell && !b.ckpt && b.owner == 0 && cut b.ext 16 32 == 0
  | 2 => slotsOk n b && cut b.sy 0 4 != 0x1 && !b.yielding && !b.bell && !b.ckpt && b.owner == 0 && b.ext == 0
  | _ => false

/-- The bundle at an address of a program, END past its last one. -/
def Prog.bundle (p : Prog) (pc : Nat) : Bundle := Bundle.of (p.bundles.getD pc (BitVec.ofNat 512 2))

/-- Tokens that a program's PT operations raise on completion (R49). -/
def ptTokens (p : Prog) : List Nat :=
  (p.bundles.filterMap (fun w =>
    let b := Bundle.of w
    if b.cls = 0 ∧ cut b.pt 0 8 ≠ 0 ∧ bit b.pt 45 then some (cut b.pt 33 12) else none)).dedup

/-- Tokens that its LSEND operations name at their peers (R300), which run the same program. -/
def sendTokens (p : Prog) : List Nat :=
  (p.bundles.filterMap (fun w =>
    let b := Bundle.of w
    if b.cls = 0 ∧ cut b.pt 0 8 = 0x10 ∧ bit (b.extOf 3) 12 then some (cut (b.extOf 3) 0 12) else none)).dedup

/-- Tokens that its reduction descriptors name (R326, R329). -/
def redTokens (p : Prog) : List Nat :=
  ((List.range (p.reductions.length / 64)).flatMap (fun r =>
    let x := slice p.reductions (64 * r) 64
    [field (leAt x 32 2) 11 0, field (leAt x 34 2) 11 0, field (leAt x 36 2) 11 0])).dedup

end Sys2Proof.Machine
end

