-- ==== Sys2Proof/Machine/Events.lean ====
section
/-! DEFINITION. The event controller's commands (18_events.md). -/

namespace Sys2Proof.Machine

/-- Sources that only writes of EVT_PEND_SET raise (R428). -/
def doorbellSource (n : Nat) : Bool := 352 ≤ n && n ≤ 383

/-- EVENT_RAISE (R428, R431): a unit raises source `n`; no unit raises a doorbell. -/
def execEventRaise (n : SourceId) (code : BitVec 32) (s : State) : Res :=
  s.upd (fun d => if doorbellSource n.val then d else raiseEvent n.val code.toNat d)

/-- The target of a number is enabled (R430). -/
def targetEnabled (d : Dev) (g : Nat) : Bool :=
  if h : g < 4 then
    d.evt.enabled.getLsbD g && leads d ⟨g, by omega⟩ && decide ((Tab.get [] d.evt.queues g).length < 64)
  else if g < 8 then d.evt.enabled.getLsbD g && decide ((Tab.get [] d.evt.queues g).length < 64)
  else cxlIo d && d.host.msixEnable && !d.host.msixFuncMask && !(Tab.get true d.host.msixMask (g - 8))

/-- The target lies in the source's target set (R429). -/
def inTargetSet (r : EvtRoute) (g : Nat) : Bool :=
  if g < 8 then r.criers.getLsbD g else decide ((g - 8 + 256 - r.vecFirst.toNat) % 256 < r.vecCount)

/-- The first enabled target after NEXT, wrapping from 263 to 0 (R432). -/
def nextTarget (d : Dev) (n : Nat) : Option Nat :=
  ((List.range 264).map (fun i => ((d.src n).next + 1 + i) % 264)).find? (fun g =>
    inTargetSet (d.route n) g && targetEnabled d g)

/-- Source `n` is due (R432). -/
def due (d : Dev) (n : Nat) : Bool :=
  (d.src n).pend && !(d.src n).active && !(d.route n).mask && (nextTarget d n).isSome

/-- Send vector `v`'s MSI-X message with the address and data in the table (R433). -/
def sendMsix (v : Nat) (d : Dev) : Dev :=
  { d with evt := { d.evt with messages := d.evt.messages ++ [(v, Tab.get (0, 0) d.host.msixTable v)] } }

/-- Deliver source `n` to target `g` (R433). -/
def deliver (n g : Nat) (maskedMeanwhile : Bool) (d : Dev) : Dev :=
  if g < 8 then
    let d := { d with evt := { d.evt with
      queues := Tab.mod [] d.evt.queues g (fun q => q ++ [(n, (d.src n).code)]) } }
    d.modSrc n (fun e => { e with active := true, next := g })
  else
    let v := g - 8
    let d := if maskedMeanwhile then
        { d with host := { d.host with msixMask := Tab.set true d.host.msixMask v true
                                       msixPend := Tab.set false d.host.msixPend v true } }
      else sendMsix v d
    d.modSrc n (fun e => { e with pend := false, reraise := false, next := g })

/-- EVENT_DELIVERY (R432, R433): the lowest due source is delivered; nothing while delivery is stopped (R436). -/
def eventDelivery (maskedMeanwhile : Bool) (d : Dev) : Dev :=
  if d.evt.frozen then d
  else match (d.evt.srcs.map (·.1)).find? (due d) with
    | some n => match nextTarget d n with
      | some g => deliver n g maskedMeanwhile d
      | none => d
    | none => d

def execEventDelivery (maskedMeanwhile : Bool) (s : State) : Res := s.upd (eventDelivery maskedMeanwhile)

/-- The writes of the PEND and MASK registers (R434, R437): a die crier acts only on sources whose CRIERS bitmap names
it; reserved sources are left alone (R428). -/
def evtGroupWrite (src : Source) (g : Fin 32) (bits : BitVec 32) (f : Nat → Dev → Dev) (d : Dev) : Dev :=
  let sel := (which 32 (fun i => bits.getLsbD i)).map (fun i => 32 * g.val + i)
  let live := sel.filter (fun n => !reservedSource n)
  match src with
  | .crier c =>
    if 4 ≤ c.val then (live.filter (fun n => (d.route n).criers.getLsbD c.val)).foldl (fun d n => f n d) d
    else writeFrom src (expert d) (fun _ => false) (fun d => live.foldl (fun d n => f n d) d) d
  | .host => writeFrom src (expert d) (fun _ => false) (fun d => live.foldl (fun d n => f n d) d) d

/-- EVT_PEND_SET (R434): raise with code 0. -/
def execEvtPendSet (src : Source) (g : Fin 32) (bits : BitVec 32) (s : State) : Res :=
  s.upd (evtGroupWrite src g bits (fun n => raiseEvent n 0))

/-- EVT_PEND_CLR (R434). -/
def execEvtPendClr (src : Source) (g : Fin 32) (bits : BitVec 32) (s : State) : Res :=
  s.upd (evtGroupWrite src g bits (fun n d => d.modSrc n clearSrc))

/-- EVT_MASK_SET (R434): masks and leaves PEND. -/
def execEvtMaskSet (src : Source) (g : Fin 32) (bits : BitVec 32) (s : State) : Res :=
  s.upd (evtGroupWrite src g bits (fun n d => d.modRoute n (fun r => { r with mask := true })))

/-- EVT_MASK_CLR (R434). -/
def execEvtMaskClr (src : Source) (g : Fin 32) (bits : BitVec 32) (s : State) : Res :=
  s.upd (evtGroupWrite src g bits (fun n d => d.modRoute n (fun r => { r with mask := false })))

/-- The bits of EVT_CRIER_SET and EVT_CRIER_CLR that a source may write (R437): a die crier only its own. -/
def crierBits (src : Source) (bits : BitVec 8) : BitVec 8 :=
  match src with
  | .crier c => if 4 ≤ c.val then bits &&& BitVec.ofNat 8 (2 ^ c.val) else bits
  | .host => bits

/-- EVT_CRIER_SET (R430, R437). -/
def evtCrierSet (src : Source) (bits : BitVec 8) (d : Dev) : Dev :=
  writeFrom src (expert d) (fun _ => true)
    (fun d => { d with evt := { d.evt with enabled := d.evt.enabled ||| crierBits src bits } }) d

def execEvtCrierSet (src : Source) (bits : BitVec 8) (s : State) : Res := s.upd (evtCrierSet src bits)

/-- Clear enable bits; a crier that stops being an enabled target gives back its sources (R435). -/
def clearCrierEn (bits : BitVec 8) (d : Dev) : Dev :=
  let lost := which 8 (fun c => bits.getLsbD c && d.evt.enabled.getLsbD c)
  let d := { d with evt := { d.evt with enabled := d.evt.enabled &&& ~~~bits } }
  lost.foldl (fun d c => giveBack c d) d

/-- EVT_CRIER_CLR (R430, R435, R437). -/
def execEvtCrierClr (src : Source) (bits : BitVec 8) (s : State) : Res :=
  s.upd (fun d => writeFrom src (expert d) (fun _ => true) (clearCrierEn (crierBits src bits)) d)

/-- EVT_CLAIM (R437): a crier reads and removes the oldest entry of its own queue; the host reads zero. -/
def evtClaim (src : Source) (d : Dev) : Dev :=
  match src with
  | .host => answer 0 d
  | .crier c =>
    match Tab.get [] d.evt.queues c.val with
    | [] => answer 0 d
    | (n, code) :: rest =>
      answer (n % 1024 + 2 ^ 10 + put 32 32 code.toNat)
        { d with evt := { d.evt with queues := Tab.set [] d.evt.queues c.val rest } }

def execEvtClaim (src : Source) (s : State) : Res := s.upd (evtClaim src)

/-- MSIX_UNMASK (R433): the vector's mask bit clears, and a message held behind it is sent. -/
def msixUnmask (v : BitVec 8) (d : Dev) : Dev :=
  let d1 := { d with host := { d.host with msixMask := Tab.set true d.host.msixMask v.toNat false
                                           msixPend := Tab.set false d.host.msixPend v.toNat false } }
  if Tab.get false d.host.msixPend v.toNat then sendMsix v.toNat d1 else d1

def execMsixUnmask (v : BitVec 8) (s : State) : Res := s.upd (msixUnmask v)

/-- EVT_STATUS (R437): returned, and GIVEN_BACK cleared. -/
def evtStatusRead (d : Dev) : Dev :=
  let eff := ((which 8 (targetEnabled d)).map (fun c => 2 ^ c)).foldl (· + ·) 0
  let (g, d) := shown 32 d.evt.givenBack d
  answer (eff + put 8 3 d.evt.restored + put 32 32 g) { d with evt := { d.evt with givenBack := 0 } }

def execEvtStatusRead (s : State) : Res := s.upd evtStatusRead

end Sys2Proof.Machine
end

