-- ==== Sys2Proof/Machine/Criers.lean ====
section
/-! DEFINITION. Criers, heartbeats and the lease (17_firmware.md, R404 to R412, R425). -/

namespace Sys2Proof.Machine

/-- CRIER_STATUS [31:0] (R425). -/
def crierStatus (d : Dev) : Nat :=
  (List.range 8).foldl (fun acc c => acc + put (4 * c) 4 (Tab.get ({} : Crier) d.criers c).state) 0

/-- LEASE_STATUS [31:0] (R425). -/
def leaseStatus (d : Dev) : Nat :=
  b2n d.lease.holderB + put 1 1 (b2n d.lease.valid) + put 2 1 (b2n d.lease.window) +
    put 3 1 (b2n d.lease.reqA) + put 4 1 (b2n d.lease.reqB) + put 16 16 d.lease.changes

/-- FW_STATUS [31:0] (R426). -/
def fwStatus (d : Dev) : Nat := b2n d.fw.activeBank + put 1 1 (b2n d.fw.staged) + put 2 4 d.fw.phase

/-- Move the update to a phase and raise source 70 (R414, R428). -/
def setFwPhase (n : Nat) (d : Dev) : Dev :=
  let d := { d with fw := { d.fw with phase := n } }
  raiseEvent 70 (fwStatus d) d

/-- The two criers of a complex. -/
def complexCriers (b : Bool) : List CrierId := if b then [2, 3] else [0, 1]

/-- Both criers of a complex run (R407). -/
def complexRunning (d : Dev) (b : Bool) : Bool := (complexCriers b).all (fun c => (d.crier c).state == 2)

/-- Fabric cycles in 1 ms of wall clock at 1.65 GHz (R457). -/
def msCycles : Nat := 1650000

/-- HEARTBEAT (R407): a running crier beats; the arbiter renews a valid lease when both criers of the holder have
beaten within the last 2 ms. -/
def heartbeat (c : CrierId) (d : Dev) : Dev :=
  if (d.crier c).state ≠ 2 then d
  else
    let d := d.modCrier c (fun x => { x with lastBeat := some d.wall })
    let fresh := fun (x : CrierId) => match (d.crier x).lastBeat with
      | some w => decide (d.wall ≤ w + 2 * msCycles)
      | none => false
    if d.lease.valid && (complexCriers d.lease.holderB).all fresh then
      { d with lease := { d.lease with lastRenewal := some d.wall } }
    else d

def execHeartbeat (c : CrierId) (s : State) : Res := s.upd (heartbeat c)

/-- Withdraw a complex's request. -/
def setReq (b v : Bool) (d : Dev) : Dev :=
  { d with lease := if b then { d.lease with reqB := v } else { d.lease with reqA := v } }

/-- Grant the lease to a complex (R408, R410): a change of holder is counted and raises source 66; its mirror is
brought up to date. -/
def grant (b : Bool) (d : Dev) : Dev :=
  let changed := d.lease.holderB != b
  let d := { d with lease := { d.lease with
    holderB := b, valid := true, window := false, lastRenewal := some d.wall
    changes := if changed then satAdd 16 d.lease.changes 1 else d.lease.changes
    mirrorApplied := d.lease.mirrorWritten } }
  let d := setReq b false d
  if changed then raiseEvent 66 (leaseStatus d) d else d

/-- LEASE_EXPIRY (R407): the lease becomes invalid, its criers stop being targets (R435), and a standing request opens
the contention window (R408). -/
def leaseExpiry (d : Dev) : Dev :=
  if !d.lease.valid then d
  else
    let d := { d with lease := { d.lease with valid := false, window := d.lease.reqA || d.lease.reqB } }
    (complexCriers d.lease.holderB).foldl (fun d c => giveBack c.val d) d

def execLeaseExpiry (s : State) : Res := s.upd leaseExpiry

/-- LEASE_REQUEST (R407, R408): only a complex whose criers both run may request; the first request with no valid lease
opens the window. -/
def leaseRequest (b : Bool) (d : Dev) : Dev :=
  if !complexRunning d b then d
  else
    let d := setReq b true d
    if d.lease.valid then d else { d with lease := { d.lease with window := true } }

def execLeaseRequest (b : Bool) (s : State) : Res := s.upd (leaseRequest b)

/-- Pass the lease to the other complex if that complex requests (R410). -/
def passLease (d : Dev) : Dev :=
  let other := !d.lease.holderB
  if d.lease.valid && (if other then d.lease.reqB else d.lease.reqA) then
    let d := (complexCriers d.lease.holderB).foldl (fun d c => giveBack c.val d) d
    grant other d
  else d

/-- MIRROR_APPLY (R405): the standby applies the next record of the state mirror. -/
def mirrorApply (d : Dev) : Dev :=
  if d.lease.mirrorApplied < d.lease.mirrorWritten ∧ (complexCriers (!d.lease.holderB)).any (fun c => (d.crier c).state == 2)
  then { d with lease := { d.lease with mirrorApplied := d.lease.mirrorApplied + 1 } }
  else d

def execMirrorApply (s : State) : Res := s.upd mirrorApply

/-- A crier crashes (R411, R412): it is reset, its delivery enable is cleared and its sources given back (R435), a hub
complex without both criers stops requesting, and source 67 and an error record of class 8 name it. A crash of the
standby during Standby boot ends the FW_ACTIVATE with RETRY (R417). -/
def crash (c : CrierId) (d : Dev) : Dev :=
  if (d.crier c).state = 0 ∨ (d.crier c).state = 4 then d
  else
    let hub := decide (c.val < 4)
    let b := decide (2 ≤ c.val)
    let leading := leads d c
    let d := d.modCrier c (fun x => { x with state := 4, lastBeat := none })
    let d := clearCrierEn (BitVec.ofNat 8 (2 ^ c.val)) d
    let d := { d with lease := { d.lease with restarts := satAdd 32 d.lease.restarts 1 } }
    let d := if hub then setReq b false d else d
    let d := if hub && (d.fw.phase == 3) && (b != d.fw.fromB) then
        finish mgmtTill .retry none none (setFwPhase 0 d) else d
    let d := errReport { cls := 8, level := if hub then 4 else 3, action := if leading then 11 else 12
                         loc := errLoc c.val 0 none, detail := crierStatus d, spare := if hub then 7 else 0
                         die := if hub then none else some (c.val - 4) } d
    raiseEvent 67 c.val d

end Sys2Proof.Machine
end

