-- ==== Sys2Proof/Machine/Hash.lean ====
section
/-! DEFINITION. The checks and digests the spec names: CRC-32C (R7), CRC-64, SHA3-256 (R478). -/

namespace Sys2Proof.Machine

/-- One bit of a reflected CRC with polynomial `poly`. -/
def crcBit {w : Nat} (poly : BitVec w) (c : BitVec w) : BitVec w :=
  if c.getLsbD 0 then (c >>> 1) ^^^ poly else c >>> 1

/-- One byte of a reflected CRC. -/
def crcByte {w : Nat} (poly : BitVec w) (c : BitVec w) (b : Byte) : BitVec w :=
  (List.range 8).foldl (fun c _ => crcBit poly c) (c ^^^ b.setWidth w)

/-- CRC-32C (Castagnoli), reflected, initial value and final XOR all ones. -/
def crc32c (l : List Byte) : BitVec 32 :=
  (l.foldl (crcByte 0x82F63B78#32) (BitVec.allOnes 32)) ^^^ BitVec.allOnes 32

/-- The state of the bit generator of FIPS 202 algorithm 5 after `n` shifts: x^8 + x^6 + x^5 + x^4 + 1 over eight bits. -/
def keccakLfsr : Nat → Nat
  | 0 => 1
  | n + 1 =>
    let r := 2 * keccakLfsr n
    if r < 256 then r else r ^^^ 369

/-- The constant of round `i`: bit 2^j - 1 is the generator's bit j + 7 i. -/
def keccakConst (i : Nat) : BitVec 64 :=
  BitVec.ofNat 64 (((List.range 7).map (fun j => keccakLfsr (7 * i + j) % 2 * 2 ^ (2 ^ j - 1))).foldl (· + ·) 0)

/-- The lanes that rho turns, in the order of FIPS 202 algorithm 2: from (1, 0) each (x, y) leads to (y, 2 x + 3 y), and the
t-th turns by half of (t + 1) (t + 2). -/
def keccakWalk : Nat → Nat → Nat → Nat → List (Nat × Nat)
  | 0, _, _, _ => []
  | n + 1, t, x, y => (x + 5 * y, (t + 1) * (t + 2) / 2 % 64) :: keccakWalk n (t + 1) y ((2 * x + 3 * y) % 5)

/-- By how much lane `i` = x + 5 y turns. -/
def keccakTurn (i : Nat) : Nat :=
  match (keccakWalk 24 0 1 0).find? (fun p => p.1 == i) with | some p => p.2 | none => 0

/-- One round of Keccak-f[1600] on 25 lanes, lane x + 5y. -/
def keccakRound (a : List (BitVec 64)) (rc : BitVec 64) : List (BitVec 64) :=
  let g := fun (l : List (BitVec 64)) i => l.getD i 0
  let c := (List.range 5).map (fun x => g a x ^^^ g a (x + 5) ^^^ g a (x + 10) ^^^ g a (x + 15) ^^^ g a (x + 20))
  let e := (List.range 5).map (fun x => g c ((x + 4) % 5) ^^^ (g c ((x + 1) % 5)).rotateLeft 1)
  let t := (List.range 25).map (fun i => g a i ^^^ g e (i % 5))
  -- lane (x, y) of the result of rho and pi is lane (x + 3y, x) of t, rotated
  let b := (List.range 25).map (fun i =>
    let x := i % 5
    let y := i / 5
    let j := (x + 3 * y) % 5 + 5 * x
    (g t j).rotateLeft (keccakTurn j))
  (List.range 25).map (fun i =>
    let x := i % 5
    let y := i / 5
    let v := g b i ^^^ (~~~ (g b ((x + 1) % 5 + 5 * y)) &&& g b ((x + 2) % 5 + 5 * y))
    if i = 0 then v ^^^ rc else v)

/-- The Keccak-f[1600] permutation. -/
def keccakF (a : List (BitVec 64)) : List (BitVec 64) := (List.range 24).foldl (fun a i => keccakRound a (keccakConst i)) a

/-! ### The sponge of FIPS 202, with a rate of `r` bytes -/

/-- Take a block of `r` bytes into the state and permute. -/
def soak (r : Nat) (a : List (BitVec 64)) (b : List Byte) : List (BitVec 64) :=
  keccakF (a.mapIdx (fun i x => if 8 * i < r then x ^^^ BitVec.ofNat 64 (leAt b (8 * i) 8) else x))

/-- Take `n` blocks. -/
def soakAll (r : Nat) : Nat → List (BitVec 64) → List Byte → List (BitVec 64)
  | 0, a, _ => a
  | n + 1, a, l => soakAll r n (soak r a (l.take r)) (l.drop r)

/-- `n` blocks of output. -/
def squeeze (r : Nat) : Nat → List (BitVec 64) → List Byte
  | 0, _ => []
  | n + 1, a => (a.take (r / 8)).flatMap (fun x => leBytes 8 x.toNat) ++ squeeze r n (keccakF a)

/-- `n` bytes of output for a message whose last block's padding begins with the byte `dom` and ends with the top bit. -/
def sponge (r dom : Nat) (l : List Byte) (n : Nat) : List Byte :=
  let k := r - l.length % r
  let p := l ++ leBytes k (dom + 0x80 * 256 ^ (k - 1))
  (squeeze r ((n + r - 1) / r) (soakAll r (p.length / r) (List.replicate 25 0) p)).take n

/-- SHA3-256: its digest's bytes as a little-endian number. -/
def sha3 (l : List Byte) : BitVec 256 := BitVec.ofNat 256 (leNat (sponge 136 6 l 32))

end Sys2Proof.Machine
end

