-- ==== Sys2Proof/Machine/Ledger.lean ====
section
/-! DEFINITION. The ledger's commits and the error log (17_firmware.md R420 to R424; 19_reliability.md R454). -/

namespace Sys2Proof.Machine

/-- The number of a region in the ledger's table. -/
def regionKey : Region → Nat
  | .config => 0 | .maps => 1 | .policy => 2 | .counters => 3 | .journal => 4 | .errorLog => 5 | .antiRollback => 6

/-- KiB of one half of a region; the journal is a ring and has no halves (R420). -/
def halfKib : Region → Nat
  | .config => 4096 | .maps => 8192 | .policy => 8192 | .counters => 2048 | .journal => 0 | .errorLog => 8192
  | .antiRollback => 32

/-- Tenths of a mJ that a commit of `n` KiB needs twice over: 2E with E = 2.4 W x (2 + n/8) ms (R421, R422). -/
def need10 (n : Nat) : Nat := 96 + 6 * n

/-- The hold-up check (R422, R427): the reading in mJ against 2E. -/
def holdupCheck (kib : Nat) (holdup : BitVec 10) (d : Dev) : Bool × Dev :=
  let ok := decide (need10 kib ≤ 10 * holdup.toNat)
  (ok, { d with ledger := { d.ledger with energy := holdup.toNat, needed10 := need10 kib, low := !ok } })

/-- Slot 4 of both complexes extends with the digest of the configuration records in force, an open value because the
records' format is the firmware's (R487, log entry 8). -/
def extendConfig (d : Dev) : Dev :=
  let (g, d) := useFree 256 d
  let ext := fun (old : BitVec 256) => sha3 (leBytes 32 old.toNat ++ leBytes 32 g)
  { d with sec := { d.sec with slots := Tab.modMany 0 d.sec.slots [4, 12] (fun _ => ext) } }

/-- What a commit of a region writes (R420). -/
def saveRegion (r : Region) (d : Dev) : Dev :=
  let l := d.ledger
  match r with
  | .config => extendConfig { d with ledger := { l with config := d.cfg } }
  | .maps => { d with ledger := { l with maps := {
      clusters := d.clusters, lanes := which 24 (fun p => (Tab.get ({} : Port) d.ports p).spareUsed)
      chans := d.stks.map (fun (p : Nat × Stack) => (p.1, p.2.chans)), losses := d.losses, reloc := d.reloc, rowsMarked := d.err.rowsMarked, colsMarked := d.err.colsMarked
      bankMarked := d.err.bankMarked, banksUsed := d.err.banksUsed } } }
  | .policy => d
  | .counters => { d with ledger := { l with counters := { lifetime := d.err.lifetime, exposedMs := d.err.exposedMs } } }
  | .journal => { d with repair := { d.repair with journal := d.repair.journal ++ d.repair.unwritten, unwritten := [] } }
  | .errorLog =>
    let fresh := d.err.ring.drop (d.err.ring.length - d.err.waiting)
    { d with ledger := { l with errorLog := l.errorLog ++ fresh }, err := { d.err with waiting := 0 } }
  | .antiRollback => { d with ledger := { l with arBank := d.fw.activeBank } }

/-- One commit of `kib` KiB to a region, its hold-up check passed (R421). -/
def commitRegion (r : Region) (kib : Nat) (save : Dev → Dev) (d : Dev) : Dev :=
  let d := save d
  { d with ledger := { d.ledger with
      regions := Tab.mod {} d.ledger.regions (regionKey r) (fun x => { x with valid := true, usedKib := x.usedKib + kib })
      commits := d.ledger.commits + 1 } }

/-- A commit that firmware needs for itself: it runs when the hold-up check passes and stays pending otherwise
(R422). -/
def firmwareCommit (r : Region) (kib : Nat) (holdup : BitVec 10) (d : Dev) : Dev :=
  let (ok, d) := holdupCheck kib holdup d
  if ok then commitRegion r kib (saveRegion r) d
  else { d with ledger := { d.ledger with pending := d.ledger.pending ++ [(r, kib)] } }

end Sys2Proof.Machine
end

