-- ==== Sys2Proof/Machine/Awning.lean ====
section
/-! DEFINITION. The awning: temperature, power and current limits and the arithmetic dividers (17_firmware.md R418,
R419, R426; 20_power_clocks_reset.md R459 to R461). -/

namespace Sys2Proof.Machine

/-- The fused frequency cap (R418, R426 DIV_CAP). -/
def divCap (d : Dev) : Nat := match d.grade with | .g33 => 4 | .g26 => 5

/-- The divider of a die. -/
def divOf (d : Dev) (x : Nat) : Nat := Tab.get (divCap d) d.awning.div x

/-- The divider ordered for a die and not yet switched; the present one when none is ordered. -/
def targetOf (d : Dev) (x : Nat) : Nat := Tab.get 0 d.awning.target x |> fun t => if t = 0 then divOf d x else t

/-- The least divider allowed: the fused cap or DIV_MIN (R418, R426). -/
def divFloor (d : Dev) : Nat := max (divCap d) d.cfg.divMin.toNat

/-- The next slower step of R460. -/
def slower (n : Nat) : Nat := if n < 5 then 5 else if n < 6 then 6 else 8

/-- The next faster step of R460. -/
def faster (n : Nat) : Nat := if n ≤ 5 then 4 else if n ≤ 6 then 5 else 6

def Dev.causeOf (d : Dev) (x : Nat) : BitVec 4 := Tab.get 0 d.awning.cause x
def Dev.modAwning (d : Dev) (f : Awning → Awning) : Dev := { d with awning := f d.awning }

/-- Order the arrays of a die to pause (R78, R418). -/
def pauseDie (x : Nat) (d : Dev) : Dev :=
  d.modAwning (fun a => { a with paused := Tab.set false a.paused x true })

/-- AWNING_STATUS.CAUSE (R426). -/
def causeAll (d : Dev) : Nat :=
  ((List.range 4).map (d.causeOf)).foldl (fun (acc : BitVec 4) c => acc ||| c) 0 |>.toNat

/-- AWNING_STATUS [31:0] (R426). -/
def awningStatus (d : Dev) : Nat :=
  let tj := ((List.range 4).map (Tab.get 0 d.awning.temp)).foldl max 0
  let divs := (List.range 4).foldl (fun acc x => acc + put (8 + 4 * x) 4 (divOf d x)) 0
  let thr := (List.range 4).foldl (fun acc x => acc + put (24 + x) 1 (b2n (decide (divFloor d < divOf d x)))) 0
  tj % 256 + divs + thr + put 28 4 (causeAll d)

/-- Order one step down of a die for a cause, with its arrays paused (R418, R459). A step already ordered and not yet
switched counts for every cause of the same millisecond (R474). -/
def stepDown (x : Nat) (cause : BitVec 4) (d : Dev) : Dev :=
  let d := d.modAwning (fun a => { a with cause := Tab.mod 0 a.cause x (fun c => c ||| cause) })
  if targetOf d x ≠ divOf d x ∨ divOf d x = 8 then d
  else pauseDie x (d.modAwning (fun a => { a with target := Tab.set 0 a.target x (slower (divOf d x)) }))

/-- Order one step back up of a die that was stepped down for `cause` (R418, R460, R461); never past the floor. -/
def stepUp (x : Nat) (cause : BitVec 4) (d : Dev) : Dev :=
  if d.causeOf x &&& cause = 0 ∨ targetOf d x ≠ divOf d x then d
  else
    let t := max (divFloor d) (faster (divOf d x))
    let d := if t = divFloor d then
        d.modAwning (fun a => { a with cause := Tab.mod 0 a.cause x (fun c => c &&& 0b0100) }) else d
    if t < divOf d x then
      pauseDie x (d.modAwning (fun a => { a with target := Tab.set 0 a.target x t }))
    else d

/-- THERMAL_THROTTLE_STEP (R418): a sensor of the die at or above THROTTLE_C. -/
def thermalThrottleStep (x : Nat) (temp : BitVec 8) (d : Dev) : Dev :=
  let d := d.modAwning (fun a => { a with temp := Tab.set 0 a.temp x temp.toNat })
  if d.cfg.throttleC ≤ temp then stepDown x 0b0001 d else d

def execThermalThrottleStep (x : DieId) (temp : BitVec 8) (s : State) : Res :=
  s.upd (thermalThrottleStep x.val temp)

/-- THROTTLE_STEP_UP (R418): 10 ms below THROTTLE_C - 3. -/
def throttleStepUp (x : Nat) (temp : BitVec 8) (d : Dev) : Dev :=
  let d := d.modAwning (fun a => { a with temp := Tab.set 0 a.temp x temp.toNat })
  if temp.toNat + 3 < d.cfg.throttleC.toNat then stepUp x 0b0001 d else d

def execThrottleStepUp (x : DieId) (temp : BitVec 8) (s : State) : Res := s.upd (throttleStepUp x.val temp)

/-- POWER_WINDOW (R418): the power of a 1 ms window; one above POWER_W steps every die down once and raises source
99. The window also counts a throttled millisecond (R426). -/
def powerWindow (watts : Nat) (d : Dev) : Dev :=
  let thr := (List.range 4).any (fun x => decide (divFloor d < divOf d x))
  let d := d.modAwning (fun a => { a with watts := watts, throttleMs := a.throttleMs + b2n thr })
  if watts ≤ d.cfg.powerW.toNat then d
  else
    let d := (List.range 4).foldl (fun d x => stepDown x 0b0010 d) d
    let d := d.modAwning (fun a => { a with limitEvents := a.limitEvents + 1 })
    raiseEvent 99 (causeAll d) { d with pwr := { d.pwr with lastLimit := some d.wall } }

def execPowerWindow (watts : Nat) (s : State) : Res := s.upd (powerWindow watts)

/-- POWER_STEP_UP (R460): ten consecutive windows below POWER_W less 5%. -/
def powerStepUp (x : Nat) (d : Dev) : Dev :=
  if 100 * d.awning.watts < 95 * d.cfg.powerW.toNat then stepUp x 0b0010 d else d

def execPowerStepUp (x : DieId) (s : State) : Res := s.upd (powerStepUp x.val)

/-- The dies whose arrays a rail concerns: rail 0 is VCORE of one die, every other rail is the package's (R461,
R494). -/
def railDies (rail : Nat) (x : Nat) : List Nat := if rail = 0 then [x] else [0, 1, 2, 3]

/-- RAIL_CURRENT_LIMIT (R418): the arrays that the rail serves pause; source 99 is raised. -/
def railCurrentLimit (rail x : Nat) (d : Dev) : Dev :=
  let d := (railDies rail x).foldl (fun d y =>
    pauseDie y (d.modAwning (fun a => { a with cause := Tab.mod 0 a.cause y (fun c => c ||| 0b0100) }))) d
  let d := d.modAwning (fun a => { a with limitEvents := a.limitEvents + 1 })
  raiseEvent 99 (causeAll d) { d with pwr := { d.pwr with lastLimit := some d.wall } }

def execRailCurrentLimit (rail : Fin 7) (x : DieId) (s : State) : Res := s.upd (railCurrentLimit rail.val x.val)

/-- A supply-sag warning in force keeps the arrays of die `x` paused (R461). -/
def sagHolds (d : Dev) (x : Nat) : Bool := d.pwr.sags.any (fun s => (railDies s.1 s.2).contains x)

/-- DIVIDER_SWITCH (R459): with every array of the die paused, the divider changes and the arrays ramp up; a throttle
step raises source 96 (R428). A supply-sag or current pause in force keeps the arrays paused (R474). -/
def dividerSwitch (x : Nat) (d : Dev) : Dev :=
  let t := targetOf d x
  if t = divOf d x ∨ !(Tab.get false d.awning.paused x) then d
  else
    let down := decide (divOf d x < t)
    let keep := sagHolds d x || (d.causeOf x).getLsbD 2
    let d := d.modAwning (fun a => { a with
      div := Tab.set (divCap d) a.div x t, target := Tab.set 0 a.target x 0
      paused := Tab.set false a.paused x keep, steps := a.steps + b2n down })
    raiseEvent 96 (awningStatus d) d

def execDividerSwitch (x : DieId) (s : State) : Res := s.upd (dividerSwitch x.val)

/-- DIV_MIN as a write stores it (R426): not below the cap, not above 8, otherwise the next larger allowed divider. -/
def clampDiv (cap v : Nat) : Nat :=
  let w := max cap v
  if w ≤ 4 then 4 else if w ≤ 5 then 5 else if w ≤ 6 then 6 else 8

/-- Raise every divider below DIV_MIN to it, with the die's arrays paused (R426, R459). -/
def raiseToDivMin (d : Dev) : Dev :=
  (List.range 4).foldl (fun d x =>
    if targetOf d x < d.cfg.divMin.toNat then
      pauseDie x (d.modAwning (fun a => { a with target := Tab.set 0 a.target x d.cfg.divMin.toNat }))
    else d) d

/-- AWNING_LIMIT_WRITE (R418, R419, R426). -/
def awningLimitWrite (src : Source) (v : BitVec 32) (d : Dev) : Dev :=
  hubWrite src (fun d =>
    let c := field v.toNat 7 0
    let p := field v.toNat 19 8
    raiseToDivMin { d with cfg := { d.cfg with
      throttleC := BitVec.ofNat 8 (max 85 (min 105 c))
      powerW := BitVec.ofNat 12 (max 1000 (min 3000 p))
      divMin := BitVec.ofNat 4 (clampDiv (divCap d) (field v.toNat 23 20)) } }) d

def execAwningLimitWrite (src : Source) (v : BitVec 32) (s : State) : Res := s.upd (awningLimitWrite src v)

/-- AWNING_COUNT (R426): returned and cleared. -/
def awningCountRead (d : Dev) : Dev :=
  let (a, d) := shown 32 d.awning.throttleMs d
  let (b, d) := shown 16 d.awning.steps d
  let (c, d) := shown 16 d.awning.limitEvents d
  answer (a + put 32 16 b + put 48 16 c)
    (d.modAwning (fun w => { w with throttleMs := 0, steps := 0, limitEvents := 0 }))

def execAwningCountRead (s : State) : Res := s.upd awningCountRead

end Sys2Proof.Machine
end

