-- ==== Sys2Proof/Machine/MlDsa.lean ====
section
/-! DEFINITION. ML-DSA-44 in its pure form with an empty context string (21_security.md R478, R486): keys from a seed, signing,
verification. The algorithm is that of FIPS 204, which the spec names and does not repeat (PRESUMED, log entry 57). Names are those of
FIPS 204: a polynomial is its 256 coefficients modulo q, a vector or a matrix row a list of polynomials. -/

namespace Sys2Proof.Machine.MlDsa

/-- H of FIPS 204: SHAKE256. -/
def hash (l : List Byte) (n : Nat) : List Byte := sponge 136 0x1F l n

/-! ### Polynomials -/

def q : Int := 8380417
/-- γ1, γ2, β, ω, τ and d of the parameter set; k = l = 4, η = 2. -/
def gamma1 : Int := 131072
def gamma2 : Int := 95232
def beta : Int := 78
def omega : Nat := 80
def tau : Nat := 39
def two13 : Int := 8192

/-- Exponents of the places at which NTT evaluates: 2 × BitRev8(i) + 1. -/
def place (i : Nat) : Nat := 2 * ((List.range 8).foldl (fun v b => v + (if i.testBit b then 2 ^ (7 - b) else 0)) 0) + 1

/-- The powers of ζ = 1753, a 512th root of unity modulo q. -/
def zetas : List Int := (List.range 512).foldl (fun (p : List Int × Int) _ => (p.1 ++ [p.2], p.2 * 1753 % q)) (([] : List Int), (1 : Int)) |>.1

def zeta (n : Nat) : Int := zetas.getD (n % 512) 0

/-- NTT: the polynomial's values at the odd powers of ζ. -/
def ntt (w : List Int) : List Int :=
  (List.range 256).map (fun i => ((w.mapIdx (fun j c => c * zeta (j * place i))).foldl (· + ·) 0) % q)

/-- Its inverse; 8347681 is 1/256 modulo q. -/
def unNtt (w : List Int) : List Int :=
  (List.range 256).map (fun j => ((w.mapIdx (fun i c => c * zeta (512 * 512 - j * place i))).foldl (· + ·) 0) * 8347681 % q)

def padd (a b : List Int) : List Int := List.zipWith (fun x y => (x + y) % q) a b
def psub (a b : List Int) : List Int := List.zipWith (fun x y => (x - y) % q) a b
def pmul (a b : List Int) : List Int := List.zipWith (fun x y => x * y % q) a b

/-- A matrix times a vector, and a polynomial times each of a vector, all in NTT form. -/
def apply (m : List (List (List Int))) (v : List (List Int)) : List (List Int) :=
  m.map (fun row => (List.zipWith pmul row v).foldl padd (List.replicate 256 0))

/-- The product of NTT form `c` with each polynomial of a vector in plain form. -/
def timesEach (c : List Int) (v : List (List Int)) : List (List Int) := v.map (fun p => unNtt (pmul c (ntt p)))

/-- The representative nearest to 0: -m/2 < x ≤ m/2. -/
def centred (m x : Int) : Int := let r := x % m; if m / 2 < r then r - m else r

/-- The largest magnitude in a vector. -/
def norm (v : List (List Int)) : Int := (v.flatten.map (fun x => ((centred q x).natAbs : Int))).foldl max 0

/-! ### Rounding and hints -/

def power2Round (r : Int) : Int × Int :=
  let r0 := centred two13 (r % q)
  ((r % q - r0) / two13, r0)

def decompose (r : Int) : Int × Int :=
  let r0 := centred (2 * gamma2) (r % q)
  if r % q - r0 = q - 1 then (0, r0 - 1) else ((r % q - r0) / (2 * gamma2), r0)

def highBits (r : Int) : Int := (decompose r).1

def makeHint (z r : Int) : Bool := highBits r != highBits (r + z)

def applyHint (h : Bool) (r : Int) : Int :=
  let p := decompose r
  if !h then p.1 else if 0 < p.2 then (p.1 + 1) % 44 else (p.1 - 1) % 44

/-! ### Packing: a polynomial's coefficients as fields of `w` bits, the first lowest -/

def packPoly (w : Nat) (p : List Int) : List Byte :=
  leBytes (32 * w) (p.reverse.foldl (fun acc c => acc * 2 ^ w + c.toNat) 0)

def unpackPoly (w : Nat) (l : List Byte) : List Int := (List.range 256).map (fun i => ((leNat l / 2 ^ (w * i) % 2 ^ w : Nat) : Int))

/-- `n` polynomials of `w` bits from an offset. -/
def unpackVec (w n o : Nat) (l : List Byte) : List (List Int) := (List.range n).map (fun i => unpackPoly w (slice l (o + 32 * w * i) (32 * w)))

/-- The 84 bytes of a hint: the places of each polynomial's ones, then where each polynomial's end. -/
def packHint (h : List (List Bool)) : List Byte :=
  let ones := h.map (fun p => which 256 (fun j => p.getD j false))
  let marks := (ones.flatten ++ List.replicate omega 0).take omega
  let ends := (List.range 4).map (fun i => ((ones.take (i + 1)).map List.length).foldl (· + ·) 0)
  (marks ++ ends).flatMap (leBytes 1)

/-- A hint from its bytes; none where they are not in the one form that packing gives. -/
def unpackHint (l : List Byte) : Option (List (List Bool)) :=
  let y := l.map BitVec.toNat
  let ends := 0 :: y.drop omega
  let part := fun (i : Nat) => (y.take (ends.getD (i + 1) 0)).drop (ends.getD i 0)
  let rising := fun (p : List Nat) => (p.zip (p.drop 1)).all (fun x => decide (x.1 < x.2))
  if (List.range 4).all (fun i => decide (ends.getD i 0 ≤ ends.getD (i + 1) 0) && decide (ends.getD (i + 1) 0 ≤ omega) && rising (part i)) &&
      ((y.take omega).drop (ends.getD 4 0)).all (· == 0) then
    some ((List.range 4).map (fun i => (List.range 256).map (fun j => (part i).contains j)))
  else none

/-! ### Sampling -/

/-- Polynomial (r, s) of the matrix, in NTT form: 23-bit numbers below q of a SHAKE128 stream. -/
def sampleEntry (rho : List Byte) (r s : Nat) : List Int :=
  let b := sponge 168 0x1F (rho ++ leBytes 1 s ++ leBytes 1 r) 3360
  (((List.range 1120).map (fun i => leAt b (3 * i) 3 % 2 ^ 23)).filter (fun (z : Nat) => decide ((z : Int) < q))).take 256 |>.map (fun z => (z : Int))

def expandA (rho : List Byte) : List (List (List Int)) :=
  (List.range 4).map (fun r => (List.range 4).map (fun s => sampleEntry rho r s))

/-- A polynomial with coefficients of magnitude 2 at most: half bytes below 15 of a SHAKE256 stream. -/
def sampleSmall (rho : List Byte) (r : Nat) : List Int :=
  (((hash (rho ++ leBytes 2 r) 816).flatMap (fun b => [b.toNat % 16, b.toNat / 16])).filter (fun (z : Nat) => decide (z < 15))).take 256 |>.map
    (fun z => 2 - ((z % 5 : Nat) : Int))

/-- The masking vector of counter `kappa`. -/
def expandMask (rho : List Byte) (kappa : Nat) : List (List Int) :=
  (List.range 4).map (fun r => (unpackPoly 18 (hash (rho ++ leBytes 2 (kappa + r)) 576)).map (fun c => gamma1 - c))

/-- The next byte of a stream that is at most `i`, and the bytes after it. -/
def nextUpTo (i : Nat) : List Byte → Nat × List Byte
  | [] => (0, [])
  | b :: r => if b.toNat ≤ i then (b.toNat, r) else nextUpTo i r

/-- SampleInBall: τ coefficients of magnitude 1. -/
def ball (seed : List Byte) : List Int :=
  let b := hash seed 1360
  let signs := leAt b 0 8
  ((List.range tau).foldl (fun (p : List Int × List Byte) n =>
    let i := 256 - tau + n
    let (j, r) := nextUpTo i p.2
    ((p.1.set i (p.1.getD j 0)).set j (if signs.testBit n then -1 else 1), r)) (List.replicate 256 (0 : Int), b.drop 8)).1

/-! ### Keys, signatures -/

/-- A private key in use: ρ, K, tr, s1, s2, t0. -/
structure Key where
  rho : List Byte
  k : List Byte
  tr : List Byte
  s1 : List (List Int)
  s2 : List (List Int)
  t0 : List (List Int)

/-- KeyGen_internal: public key and private key of a 32-byte seed. -/
def keyGen (seed : List Byte) : List Byte × Key :=
  let b := hash (seed ++ [4#8, 4#8]) 128
  let rho := b.take 32
  let s1 := (List.range 4).map (sampleSmall (slice b 32 64))
  let s2 := (List.range 4).map (fun r => sampleSmall (slice b 32 64) (4 + r))
  let t := List.zipWith padd ((apply (expandA rho) (s1.map ntt)).map unNtt) s2
  let pk := rho ++ t.flatMap (fun p => packPoly 10 (p.map (fun c => (power2Round c).1)))
  (pk, { rho := rho, k := b.drop 96, tr := hash pk 64, s1 := s1, s2 := s2, t0 := t.map (fun p => p.map (fun c => (power2Round c).2)) })

/-- The message representative of a message in the pure form with an empty context string. -/
def messageRep (tr msg : List Byte) : List Byte := hash (tr ++ [0#8, 0#8] ++ msg) 64

/-- The commitment's bytes. -/
def packW1 (w1 : List (List Int)) : List Byte := w1.flatMap (packPoly 6)

/-- One attempt of Sign_internal with counter `kappa`: none where it is rejected. -/
def attempt (key : Key) (m : List (List (List Int))) (mu rho : List Byte) (kappa : Nat) : Option (List Byte) :=
  let y := expandMask rho kappa
  let w := (apply m (y.map ntt)).map unNtt
  let ct := hash (mu ++ packW1 (w.map (fun p => p.map highBits))) 32
  let c := ntt (ball ct)
  let z := List.zipWith padd y (timesEach c key.s1)
  let low := List.zipWith psub w (timesEach c key.s2)
  let ct0 := timesEach c key.t0
  let hint := List.zipWith (fun (a b : List Int) => List.zipWith (fun x r => makeHint (-x) (r + x)) a b) ct0 low
  if gamma1 - beta ≤ norm z ∨ gamma2 - beta ≤ norm (low.map (fun p => p.map (fun r => (decompose r).2))) then none
  else if gamma2 ≤ norm ct0 ∨ omega < (hint.flatten.filter (· == true)).length then none
  else some (ct ++ z.flatMap (fun p => packPoly 18 (p.map (fun x => gamma1 - centred q x))) ++ packHint hint)

/-- Sign_internal with randomness `rnd`: the first attempt of 814 that is not rejected (FIPS 204 appendix C bounds the loop so). -/
def sign (key : Key) (msg rnd : List Byte) : List Byte :=
  let mu := messageRep key.tr msg
  let rho := hash (key.k ++ rnd ++ mu) 64
  let m := expandA key.rho
  ((List.range 814).findSome? (fun i => attempt key m mu rho (4 * i))).getD []

/-- Verify_internal; keys and signatures of another length are refused. -/
def verify (pk msg sig : List Byte) : Bool :=
  let z := (unpackVec 18 4 32 sig).map (fun p => p.map (fun x => gamma1 - x))
  match unpackHint (sig.drop 2336) with
  | none => false
  | some h =>
    let mu := messageRep (hash pk 64) msg
    let c := ntt (ball (sig.take 32))
    let t1 := (unpackVec 10 4 32 pk).map (fun p => p.map (fun x => x * two13))
    let w := List.zipWith psub ((apply (expandA (pk.take 32)) (z.map ntt)).map unNtt) (timesEach c t1)
    let w1 := List.zipWith (fun (a : List Bool) (b : List Int) => List.zipWith applyHint a b) h w
    pk.length == 1312 && sig.length == 2420 && decide (norm z < gamma1 - beta) && hash (mu ++ packW1 w1) 32 == sig.take 32

/-- The identity key pair (R486): its seed is the digest of ID_SEED and the two bytes 0x49, 0x44. -/
def identityKey (idSeed : BitVec 256) : List Byte × Key :=
  keyGen (leBytes 32 (sha3 (leBytes 32 idSeed.toNat ++ [0x49#8, 0x44#8])).toNat)

end Sys2Proof.Machine.MlDsa
end

