-- ==== Sys2Proof/Machine/Firmware.lean ====
section
/-! DEFINITION. Firmware packages, update and boot (17_firmware.md R413 to R417; 21_security.md R478 to R487). -/

namespace Sys2Proof.Machine

def Dev.bank (d : Dev) (b : Bool) : Option BankPkg := Tab.get none d.fw.banks (b2n b)
def Dev.setBank (d : Dev) (b : Bool) (p : Option BankPkg) : Dev :=
  { d with fw := { d.fw with banks := Tab.set none d.fw.banks (b2n b) p } }

/-- The key slot that a package's public key matches (R481 check 2). -/
def keySlotOf (d : Dev) (i : BankImage) : Option Nat :=
  (List.range 4).find? (fun k =>
    decide (Tab.get 0 d.sec.keyHash k = sha3 i.publicKey) && !d.sec.revoked.getLsbD k)

/-- The checks of R481 but for the last, in order: the status of the first that fails. -/
def packageCheck (d : Dev) (i : BankImage) : Option Status :=
  if !i.formOk || d.sec.svn + 4 < i.svn then some .badParam
  else if (keySlotOf d i).isNone then some .authFail
  else if !MlDsa.verify i.publicKey (leBytes 32 i.headerDigest.toNat) i.signature then some .authFail
  else if !i.componentsOk then some .authFail
  else none

/-- Check 5 of R481. -/
def rollbackOk (d : Dev) (i : BankImage) : Bool := max d.sec.svn d.ledger.arSvn ≤ i.svn

/-- FW_STAGE (R413, R481): the first failing check decides; the active bank is never touched. -/
def fwStage (i : BankImage) (bytes : BitVec 64) (digest actual : BitVec 256) (writeOk : Bool) (kib : Nat)
    (holdup : BitVec 10) (d : Dev) : Dev :=
  if !executing d mgmtTill 0x0030 then d
  else
    let spare := !d.fw.activeBank
    if bytes.toNat = 0 ∨ 25165824 < bytes.toNat ∨ (digest ≠ 0 ∧ digest ≠ actual) then finish mgmtTill .badParam none none d
    else match packageCheck d i with
      | some st => finish mgmtTill st none none d
      | none =>
        if !rollbackOk d i then finish mgmtTill .imageRollback none none d
        else
          let d := { d.setBank spare none with fw := { (d.setBank spare none).fw with staged := false, stagedVersion := 0 } }
          if !writeOk then finish mgmtTill .internal none none d
          else
            let slot := (keySlotOf d i).getD 0
            let (ok, d) := holdupCheck kib holdup d
            if !ok then finish mgmtTill .holdupLow none none (d.setBank spare (some { image := i, slot := slot }))
            else
              let d := d.setBank spare (some { image := i, marked := true, slot := slot })
              finish mgmtTill .ok none (some i.version.toNat)
                { d with fw := { d.fw with staged := true, stagedVersion := i.version }
                         ledger := { d.ledger with commits := d.ledger.commits + 1 } }

def execFwStage (i : BankImage) (bytes : BitVec 64) (digest actual : BitVec 256) (writeOk : Bool) (kib : Nat)
    (holdup : BitVec 10) (s : State) : Res := s.upd (fwStage i bytes digest actual writeOk kib holdup)

/-- Fabric cycles in 100 ms. -/
def emergencySpan : Nat := 100 * msCycles

/-- The package is in an emergency (R416). -/
def emergency (d : Dev) : Bool :=
  let recent := fun (o : Option Nat) => match o with | some w => decide (d.wall ≤ w + emergencySpan) | none => false
  (List.range 4).any (fun x => (d.causeOf x).getLsbD 0 && decide (divFloor d < divOf d x)) ||
    recent d.pwr.lastWarning || recent d.pwr.lastLimit || d.awning.tripped

/-- Standby boot (R414): the standby complex is reset and boots the staged image. -/
def startStandbyBoot (d : Dev) : Dev :=
  let b := !d.lease.holderB
  let d := (complexCriers b).foldl (fun d c =>
    clearCrierEn (BitVec.ofNat 8 (2 ^ c.val)) (d.modCrier c (fun x => { x with state := 1, lastBeat := none }))) d
  let d := setReq b false d
  setFwPhase 3 { d with fw := { d.fw with fromB := d.lease.holderB } }

/-- FW_ACTIVATE (R414, R416): BAD_PARAM without the staged version expected; deferred in an emergency; otherwise the
standby boots. -/
def fwActivate (version : BitVec 32) (d : Dev) : Dev :=
  if !executing d mgmtTill 0x0031 ∨ d.fw.phase ≠ 0 then d
  else if !d.fw.staged ∨ (version ≠ 0 ∧ version ≠ d.fw.stagedVersion) then finish mgmtTill .badParam none none d
  else
    let d := setFwPhase 2 { d with fw := { d.fw with acceptedAt := d.wall } }
    if emergency d then setFwPhase 1 (interimDeferred mgmtTill d) else startStandbyBoot d

def execFwActivate (version : BitVec 32) (s : State) : Res := s.upd (fwActivate version)

/-- FW_STANDBY_BOOTED (R414): the standby runs the staged image and has applied the mirror, and the leader quiesces; a
standby that crashed ends the command with RETRY (R417). -/
def fwStandbyBooted (ok : Bool) (d : Dev) : Dev :=
  if d.fw.phase ≠ 3 then d
  else if !ok then finish mgmtTill .retry none none (setFwPhase 0 d)
  else
    let b := !d.fw.fromB
    let d := (complexCriers b).foldl (fun d c =>
      d.modCrier c (fun x => { x with state := 2, version := d.fw.stagedVersion })) d
    let d := { d with lease := { d.lease with mirrorApplied := d.lease.mirrorWritten } }
    setFwPhase 4 (setReq b true d)

def execFwStandbyBooted (ok : Bool) (s : State) : Res := s.upd (fwStandbyBooted ok)

/-- FW_ADOPT (R415): the new leader adopts, or yields back: INTERNAL, detail 1, the package stays staged and the
standby reboots on the old image. -/
def fwAdopt (ok : Bool) (d : Dev) : Dev :=
  if d.fw.phase ≠ 7 then d
  else if ok then setFwPhase 8 d
  else
    let b := !d.fw.fromB
    let d := grant d.fw.fromB d
    let d := (complexCriers b).foldl (fun d c =>
      clearCrierEn (BitVec.ofNat 8 (2 ^ c.val)) (d.modCrier c (fun x => { x with state := 1, lastBeat := none }))) d
    finish mgmtTill .internal (some 1) none (setFwPhase 0 d)

def execFwAdopt (ok : Bool) (s : State) : Res := s.upd (fwAdopt ok)

/-- The staged bank becomes active and the old complex reboots on the new image (R414). -/
def bankCommitted (d : Dev) : Dev :=
  let d := { d with fw := { d.fw with activeBank := !d.fw.activeBank, staged := false, stagedVersion := 0 } }
  let d := { d with ledger := { d.ledger with arBank := d.fw.activeBank }
                    sec := { d.sec with signSlot := match d.bank d.fw.activeBank with
                      | some p => p.slot | none => d.sec.signSlot } }
  let d := (complexCriers d.fw.fromB).foldl (fun d c =>
    clearCrierEn (BitVec.ofNat 8 (2 ^ c.val)) (d.modCrier c (fun x => { x with state := 1, lastBeat := none }))) d
  setFwPhase 9 (setReq d.fw.fromB false d)

/-- FW_BANK_COMMIT (R414, R422): the active-bank mark is a commit firmware needs for itself. -/
def fwBankCommit (kib : Nat) (holdup : BitVec 10) (d : Dev) : Dev :=
  if d.fw.phase ≠ 8 then d
  else
    let (ok, d) := holdupCheck kib holdup d
    if ok then commitRegion .antiRollback kib bankCommitted d
    else { d with ledger := { d.ledger with pending := d.ledger.pending ++ [(.antiRollback, kib)] } }

def execFwBankCommit (kib : Nat) (holdup : BitVec 10) (s : State) : Res := s.upd (fwBankCommit kib holdup)

/-- Version of the package in the active bank. -/
def activeVersion (d : Dev) : BitVec 32 :=
  match d.bank d.fw.activeBank with | some p => p.image.version | none => 0

/-- EMERGENCY_CLEAR (R416): 100 ms have passed without an emergency; a deferred FW_ACTIVATE proceeds. -/
def emergencyClear (d : Dev) : Dev :=
  let d := { d with pwr := { d.pwr with lastWarning := none, lastLimit := none } }
  if d.fw.phase = 1 ∧ !emergency d then
    startStandbyBoot (d.modTill mgmtTill (fun x => { x with deferred := false }))
  else d

def execEmergencyClear (s : State) : Res := s.upd emergencyClear

/-- FW_DEFER_EXPIRY (R416): BUSY, detail 5. -/
def fwDeferExpiry (d : Dev) : Dev :=
  if d.fw.phase = 1 then finish mgmtTill .busy (some 5) none (setFwPhase 0 d) else d

def execFwDeferExpiry (s : State) : Res := s.upd fwDeferExpiry

/-- The revoke bits below a signing slot (R480 FLAGS.REVOKE, R484). -/
def revokeBelow (slot : Nat) (r : BitVec 4) : BitVec 4 := r ||| BitVec.ofNat 4 (2 ^ slot - 1)

/-- Extend measurement slot `i` of complex `b` (R487). -/
def extendSlot (b : Bool) (i : Nat) (value : List Byte) (d : Dev) : Dev :=
  { d with sec := { d.sec with
      slots := Tab.mod 0 d.sec.slots (8 * b2n b + i) (fun old => sha3 (leBytes 32 old.toNat ++ value)) } }

/-- Slot 5: the fused SVN, signing slot and revoke bits as 8 bytes, whose layout the spec does not give: an open
value (R487, log entry 8). -/
def extendFuses (b : Bool) (d : Dev) : Dev :=
  let (g, d) := useFree 64 d
  extendSlot b 5 (leBytes 8 g) d

/-- The package of the active bank is due to raise the counter (R484). -/
def raiseDue (d : Dev) : Option BankPkg :=
  match d.bank d.fw.activeBank with
  | some p => if p.image.raise && decide (d.sec.svn < p.image.svn) then some p else none
  | none => none

/-- The counter is raised (R484): the ledger's copy is committed first, then the fuses are blown, then the revoke bits. -/
def raiseCounter (p : BankPkg) (kib : Nat) (d : Dev) : Dev :=
  let d := commitRegion .antiRollback kib
    (fun d => { d with ledger := { d.ledger with arSvn := p.image.svn, arBank := d.fw.activeBank } }) d
  let d := { d with sec := { d.sec with
    svn := p.image.svn
    revoked := if p.image.revoke then revokeBelow p.slot d.sec.revoked else d.sec.revoked } }
  extendFuses true (extendFuses false d)

/-- PENDING_COMMIT_RETRY (R422): the oldest pending commit is tried again. The bank mark of an update goes on to
Rejoin, and a raise of the counter goes on to the fuses (R484). -/
def pendingCommitRetry (holdup : BitVec 10) (d : Dev) : Dev :=
  match d.ledger.pending with
  | [] => d
  | (r, kib) :: rest =>
    let (ok, d) := holdupCheck kib holdup d
    if !ok then d
    else
      let d := { d with ledger := { d.ledger with pending := rest } }
      if r = .antiRollback ∧ d.fw.phase = 8 then commitRegion r kib bankCommitted d
      else match if r = .antiRollback then raiseDue d else none with
        | some p => raiseCounter p kib d
        | none => commitRegion r kib (saveRegion r) d

def execPendingCommitRetry (holdup : BitVec 10) (s : State) : Res := s.upd (pendingCommitRetry holdup)

/-- FIRMWARE_COMMIT (R421, R422). -/
def execFirmwareCommit (r : Region) (kib : Nat) (holdup : BitVec 10) (s : State) : Res :=
  s.upd (firmwareCommit r kib holdup)

/-- LEDGER_COMPACTION (R421): a half three-quarters full is compacted into the other; how much of it is live is the
records', an open value no larger than what was there (log entry 9). -/
def ledgerCompaction (r : Region) (d : Dev) : Dev :=
  let x := Tab.get ({} : LedgerRegion) d.ledger.regions (regionKey r)
  if halfKib r = 0 ∨ 4 * x.usedKib < 3 * halfKib r then d
  else
    let (n, d) := useFree 32 d
    { d with ledger := { d.ledger with
        regions := Tab.set {} d.ledger.regions (regionKey r)
          { x with valid := true, half := !x.half, usedKib := n % (x.usedKib + 1) }
        commits := d.ledger.commits + 1 } }

def execLedgerCompaction (r : Region) (s : State) : Res := s.upd (ledgerCompaction r)

/-- The service crier of the leading complex runs (R404). -/
def serviceCrierUp (d : Dev) : Bool :=
  d.lease.valid && (d.crier (if d.lease.holderB then 3 else 1)).state == 2

/-- ERROR_RECORD_MOVE (R454): records go to the hub ring in INDEX order, each raising source 71 with its index. -/
def errorRecordMove (d : Dev) : Dev :=
  if !serviceCrierUp d then d
  else
    let q := d.err.queue
    let ring := d.err.ring ++ q
    let d := { d with err := { d.err with
      queue := [], ring := ring.drop (ring.length - 4096), waiting := min 4096 (d.err.waiting + q.length) } }
    q.foldl (fun d e => raiseEvent 71 e.index d) d

def execErrorRecordMove (s : State) : Res := s.upd errorRecordMove

/-- ERROR_LOG_APPEND (R454): when 1,024 records wait. -/
def errorLogAppend (kib : Nat) (holdup : BitVec 10) (d : Dev) : Dev :=
  if d.err.waiting < 1024 then d else firmwareCommit .errorLog kib holdup d

def execErrorLogAppend (kib : Nat) (holdup : BitVec 10) (s : State) : Res := s.upd (errorLogAppend kib holdup)

/-- COUNTER_COMMIT (R424, R454): the counters, and with them the ring's new records. -/
def counterCommit (kib : Nat) (holdup : BitVec 10) (d : Dev) : Dev :=
  let d := firmwareCommit .counters kib holdup d
  if d.err.waiting = 0 then d else firmwareCommit .errorLog kib holdup d

def execCounterCommit (kib : Nat) (holdup : BitVec 10) (s : State) : Res := s.upd (counterCommit kib holdup)

/-! ### Boot -/

/-- A raise cut short is completed from the ledger copy, and a cut-short REVOKE from the active header (R485). -/
def finishRaise (i : BankImage) (slot : Nat) (d : Dev) : Dev :=
  if d.sec.svn < d.ledger.arSvn then
    { d with sec := { d.sec with svn := d.ledger.arSvn
                                 revoked := if i.revoke then revokeBelow slot d.sec.revoked else d.sec.revoked } }
  else d

/-- Whether a bank's package boots (R482): checks 1 to 4 of R481, then the rollback phase. -/
def bankBoots (d : Dev) (i : BankImage) : Bool :=
  (packageCheck d i).isNone && rollbackOk (finishRaise i 0 d) i

/-- Hand over to a verified package (R482, R485, R487): the complex's slots are extended and its criers restore their
state. -/
def handOver (b : Bool) (i : BankImage) (d : Dev) : Dev :=
  let slot := (keySlotOf d i).getD 0
  let d := finishRaise i slot d
  let d := extendSlot b 1 (leBytes 32 i.headerDigest.toNat) d
  let d := extendSlot b 1 (leBytes 32 i.loaderDigest.toNat) d
  let d := extendSlot b 2 (leBytes 32 i.hubDigest.toNat) d
  let d := extendFuses b d
  let d := { d with sec := { d.sec with recovery := false } }
  (complexCriers b).foldl (fun d c => d.modCrier c (fun x => { x with state := 3, version := i.version })) d

/-- HUB_BOOT (R482, R483): complex `b` boots the bank of boot select. A bank nothing has written since manufacture
reads as the operand. A digest other than ROM_DIGEST leaves the complex in the ROM. -/
def hubBoot (b : Bool) (romDigest : BitVec 256) (bank0 bank1 : BankImage) (d : Dev) : Dev :=
  if romDigest ≠ d.sec.romDigest then d
  else
    let d := extendSlot b 0 (leBytes 32 romDigest.toNat) d
    let read := fun (x : Bool) => match d.bank x with | some p => p.image | none => if x then bank1 else bank0
    let keep := fun (x : Bool) (d : Dev) => match d.bank x with
      | some _ => d
      | none => d.setBank x (some { image := read x, marked := true, slot := (keySlotOf d (read x)).getD 0 })
    let d := keep true (keep false d)
    let standby := d.fw.phase == 3 && b != d.fw.fromB
    let sel := if standby then !d.fw.activeBank else d.fw.activeBank
    let signer := fun (x : Bool) (d : Dev) => { d with sec := { d.sec with signSlot := (keySlotOf d (read x)).getD 0 } }
    if bankBoots d (read sel) then handOver b (read sel) (if standby then d else signer sel d)
    else if bankBoots d (read (!sel)) then
      let d := handOver b (read (!sel)) (signer (!sel) d)
      raiseEvent 65 (b2n d.ledger.configValid + put 1 1 (b2n d.ledger.factory))
        { d with fw := { d.fw with activeBank := !sel }, sec := { d.sec with fallback := true } }
    else { d with sec := { d.sec with recovery := true } }

def execHubBoot (b : Bool) (romDigest : BitVec 256) (bank0 bank1 : BankImage) (s : State) : Res :=
  s.upd (hubBoot b romDigest bank0 bank1)

/-- DIE_CRIER_BOOT (R482, R487): the die image is verified in the order of R481 and slot 3 is extended with its
digest. -/
def dieCrierBoot (x : Nat) (img : BankImage) (digest : BitVec 256) (d : Dev) : Dev :=
  let i := match d.bank d.fw.activeBank with | some p => p.image | none => img
  if (packageCheck d i).isSome ∨ digest ≠ i.dieDigest ∨ !rollbackOk d i then d
  else
    let d := extendSlot true 3 (leBytes 32 digest.toNat) (extendSlot false 3 (leBytes 32 digest.toNat) d)
    if h : x < 4 then d.modCrier ⟨4 + x, by omega⟩ (fun c => { c with state := 3, version := i.version }) else d

def execDieCrierBoot (x : DieId) (img : BankImage) (digest : BitVec 256) (s : State) : Res :=
  s.upd (dieCrierBoot x.val img digest)

/-- RECOVERY_PACKAGE_LOAD (R483): only in recovery; a package that verifies is written to bank 0. -/
def recoveryPackageLoad (img : BankImage) (d : Dev) : Dev :=
  if !d.sec.recovery ∨ (packageCheck d img).isSome ∨ !rollbackOk d img then d
  else d.setBank false (some { image := img, marked := true, slot := (keySlotOf d img).getD 0 })

def execRecoveryPackageLoad (img : BankImage) (s : State) : Res := s.upd (recoveryPackageLoad img)

/-- SVN_RAISE (R484): RAISE = 1 and the active bank's SVN above the fused count; the copy is committed first, then the
fuses are blown, then the revoke bits. -/
def svnRaise (kib : Nat) (holdup : BitVec 10) (d : Dev) : Dev :=
  match raiseDue d with
  | none => d
  | some p =>
    let (ok, d) := holdupCheck kib holdup d
    if ok then raiseCounter p kib d
    else { d with ledger := { d.ledger with pending := d.ledger.pending ++ [(.antiRollback, kib)] } }

def execSvnRaise (kib : Nat) (holdup : BitVec 10) (s : State) : Res := s.upd (svnRaise kib holdup)

/-- SEC_STATUS (R491): returned, and AUTH_FAILS cleared. -/
def secStatusRead (d : Dev) : Dev :=
  let (n, d) := shown 32 d.sec.authFails d
  answer (b2n d.sec.recovery + put 1 1 (b2n d.sec.idBad) + put 2 1 (b2n d.sec.raising) +
      put 3 1 (b2n d.sec.fallback) + put 32 32 n)
    { d with sec := { d.sec with authFails := 0 } }

def execSecStatusRead (s : State) : Res := s.upd secStatusRead

end Sys2Proof.Machine
end

