-- ==== Sys2Proof/Machine/Task.lean ====
section
/-! DEFINITION. What every engine shares with the stream: which context issues and which slots act, token arrivals,
checkpoint snapshots, aborting and ending a task, faults of a core and slot replay (02_bundle_stream.md; 19 R441 to
R446). -/

namespace Sys2Proof.Machine

def Dev.core (d : Dev) (c : Nat) : Core := Tab.get {} d.cores c
def Dev.modCore (d : Dev) (c : Nat) (f : Core → Core) : Dev := { d with cores := Tab.mod {} d.cores c f }
def Ctx.slot (c : Ctx) (k : Nat) : CtxSlot := Tab.get {} c.slots k
def Ctx.modSlot (c : Ctx) (k : Nat) (f : CtxSlot → CtxSlot) : Ctx := { c with slots := Tab.mod {} c.slots k f }
def Dev.modCtxSlot (d : Dev) (t : CtxId) (k : Nat) (f : CtxSlot → CtxSlot) : Dev :=
  d.modCtx t (fun c => c.modSlot k f)

/-- The task's program; an empty one where none is loaded. -/
def Ctx.theProg (c : Ctx) : Prog := c.prog.getD {}

/-- Scalar register S[n]; S0 reads zero (R41). -/
def Ctx.scalar (c : Ctx) (n : Nat) : BitVec 32 := if n = 0 then 0 else Tab.get 0 c.scal n

/-- Write S[n]; a write to S0 is discarded, since it always reads zero (R41). -/
def Ctx.setScalar (c : Ctx) (n : Nat) (v : BitVec 32) : Ctx :=
  if n = 0 then c else { c with scal := Tab.set 0 c.scal n v }

/-- Core-mask register; MASK0 reads as all ones (R44). -/
def Ctx.mask (c : Ctx) (n : Nat) : BitVec 128 := if n = 0 then BitVec.allOnes 128 else Tab.get 0 c.masks n

/-- Base register r of slot k (R45). -/
def Ctx.base (c : Ctx) (k r : Nat) : BitVec 48 := Tab.get 0 c.bases (64 * k + r)

/-- A task of the context has started and not ended. -/
def Ctx.started (c : Ctx) : Bool := c.phase != .idle

/-- Context `t` issues (R36, R47, R64): it runs, no bell, hold, pre-emption or rebind stops it, and it has met neither END
nor an abort. An abort that the bundle being dispatched itself causes stops issue from the next fabric cycle, so the bundle's
other slots still issue. -/
def issuing (d : Dev) (t : CtxId) : Bool :=
  let c := d.ctx t
  (d.seq.running == some t) && (d.seq.mode == .issuing || (runningReplay d).isSome) && (c.abort.isNone || c.stopDue) &&
    !c.ended && c.bellWait.isNone

/-- The slots named by mask register `m` of the context, ascending (R44). -/
def maskSlots (c : Ctx) (m : Nat) : List Nat := which 128 (fun k => (c.mask m).getLsbD k)

/-- The slots that act for mask register `m`: all of them, or in a solo replay those replayed (R57, R58, R446). -/
def actingSlots (d : Dev) (t : CtxId) (m : Nat) : List Nat :=
  let l := maskSlots (d.ctx t) m
  match runningReplay d with
  | some r => l.filter (fun k => r.slots.any (fun p => p.1 == k && decide (r.stage ≤ p.2)))
  | none => l

/-- A solo replay is executing: token counters are not touched (R58). -/
def replaying (d : Dev) : Bool := (runningReplay d).isSome

/-! ### Aborting and ending -/

/-- The numbers of a context's PT operations. -/
def opsOf (d : Dev) (t : CtxId) : List Nat :=
  (d.ptOps.filter (fun (p : Nat × Option PtRec) => match p.2 with | some r => r.ctx == t | none => false)).map Prod.fst

/-- Free an entry; its generation rises (R271). -/
def Entry.freed (e : Entry) : Entry := { gen := e.gen + 1 }

/-- The Sweep of R287 on one porter: WAITING entries of the task are freed, ISSUED ones become CANCELLED, each with its
generation raised; transfers without an entry are dropped. -/
def sweepCore (t : CtxId) (ops : List Nat) (c : Core) : Core :=
  let mine := c.entries.filter (fun (p : Nat × Entry) => p.2.ctx == t.val && (p.2.state == 1 || p.2.state == 2))
  { c with
    entries := Tab.modMany {} c.entries (mine.map Prod.fst) (fun _ e =>
      if e.state = 1 then e.freed else { e with state := 3, gen := e.gen + 1 })
    backlog := c.backlog.filter (fun (b : Nat × Nat × Nat) => !ops.contains b.1)
    cancelling := if mine.isEmpty then c.cancelling else some t }

/-- The reductions of a context close (R342): partials, armed operations and unacknowledged packets are dropped. -/
def closeReductions (t : CtxId) (d : Dev) : Dev :=
  { d with
    red := Tab.mod {} d.red t.val (fun r => { r with runs := [], armed := [] })
    frames := Tab.mapAll {} d.frames (fun (f : Frame) => if f.owner = some t then {} else f)
    banks := Tab.modMany {} d.banks (List.range 24) (fun _ (b : Bank2) => { b with
      full := b.full && !b.chunks.any (fun (x : Chunk) => x.ctx == t)
      chunks := b.chunks.filter (fun (x : Chunk) => x.ctx ≠ t), freed := b.freed.filter (fun (x : CtxId × Nat × Nat × Nat × Bool) => x.1 ≠ t) })
    fabric := { d.fabric with outbox := d.fabric.outbox.filter (fun k => k.link.ctx ≠ t || k.kind ≠ 3) } }

/-- The ISSUED transfers of a task, whose writes the Sweep leaves to the write drain (R287). -/
def issuedOf (t : CtxId) (d : Dev) : List Drain :=
  (d.cores : List (Nat × Core)).flatMap (fun p =>
    (p.2.entries.filter (fun (q : Nat × Entry) => q.2.state == 2 && q.2.ctx == t.val)).map (fun (q : Nat × Entry) =>
      { core := p.1, entry := q.1, was := q.2, op := if q.2.own = 0 then Tab.get none d.ptOps q.2.op else none }))

/-- Cancel a task's transfers (R287, R288): the Sweep on every porter; unsent sends, barrow transfers and waiting barrow
operations are dropped; the reductions close. -/
def cancelSweep (t : CtxId) (d : Dev) : Dev :=
  let ops := opsOf d t
  let d := { d with
    drains := d.drains ++ issuedOf t d
    cores := Tab.mapAll {} d.cores (sweepCore t ops)
    ptOps := Tab.modMany none d.ptOps ops (fun _ _ => none)
    ptHeld := if d.seq.running = some t then none else d.ptHeld
    fabric := { d.fabric with outbox := d.fabric.outbox.filter (fun k => k.link.ctx ≠ t) } }
  let d := d.modCtx t (fun c => { c with slots := Tab.mapAll {} c.slots (fun s =>
    { s with bar := { s.bar with queue := [], spilling := [], refilling := [], pushWait := false, protectWait := false } }) })
  closeReductions t d

/-- Stop issue of a task (R64): its transfers are cancelled (R287), its waiting bell is dropped. -/
def stopIssue (t : CtxId) (d : Dev) : Dev :=
  let d := cancelSweep t (d.modCtx t (fun c => { c with phase := .aborting, bellWait := none, stopDue := false }))
  if d.seq.running = some t then { d with seq := { d.seq with mode := .aborting, ptHold := false, ckptHold := false } }
  else d

/-- The task's END bundle has issued: the task ends as R36 says, and an abort has no effect (R64). A solo replay that began
after END returns to a held point at which it has issued. -/
def endIssued (d : Dev) (t : CtxId) : Bool :=
  (d.ctx t).ended || (match d.seq.replay with
    | some r => r.ctx == t && (match r.held with | some h => h.ended | none => false)
    | none => false)

/-- The cause to keep of two that meet a task: the first one; of causes of one fabric cycle, the one with the lowest status code
(R127). -/
def lowerCause (st : Status) (c : Ctx) : Bool :=
  match c.abort with
  | none => true
  | some p => c.stopDue && decide (st.code < p.1.code)

/-- An abort a task raises itself or the device raises on it (R64, R127). Where the bundle being dispatched raises it, issue stops
at the next fabric cycle. -/
def abortTask (t : CtxId) (st : Status) (detail : Nat) (d : Dev) : Dev :=
  let c := d.ctx t
  if !c.started || endIssued d t || !lowerCause st c then d
  else
    let d := d.modCtx t (fun c => { c with abort := some (st, detail) })
    if d.seq.dispatch = some t then d.modCtx t (fun c => { c with stopDue := true }) else stopIssue t d

/-- The fabric cycle of a dispatched bundle is over: an abort that it raised stops issue (R36, R64). -/
def endDispatch (d : Dev) : Dev :=
  match d.seq.dispatch with
  | none => d
  | some t =>
    let d := { d with seq := { d.seq with dispatch := none } }
    if (d.ctx t).stopDue then stopIssue t d else d

/-- Every task that has started and not ended aborts. -/
def abortAll (st : Status) (detail : Nat) (d : Dev) : Dev := allCtx.foldl (fun d t => abortTask t st detail d) d

/-! ### Tokens -/

/-- One arrival on a token (R49): none is counted after an abort (R64); an arrival past 65,535 aborts with resource code
7. The slot that the detail word of R126 would name has no meaning here: an open value (log entry 12). -/
def arrive (t : CtxId) (tok : Nat) (d : Dev) : Dev :=
  let c := d.ctx t
  if !c.started || c.phase == .aborting then d
  else if 65535 ≤ Tab.get 0 c.tokens tok then
    let (g, d) := useFree 7 d
    abortTask t .resourceOverflow (c.issuePc % 65536 + put 16 7 g + put 23 3 7) d
  else d.modCtx t (fun c => { c with tokens := Tab.mod 0 c.tokens tok (· + 1) })

/-- The tokens a bell waits on with their counts; a count of 0 is not waited on (R50). -/
def bellWaits (b : BellOp) : List (Nat × Nat) :=
  [(b.tok0.toNat, b.cnt0.toNat), (b.tok1.toNat, b.cnt1.toNat), (b.tok2.toNat, b.cnt2.toNat)].filter (fun p => p.2 ≠ 0)

/-- Under a STEP_REPLAY of LOCAL scope, bells on codec tokens are satisfied at once (R50, R196): the tokens that no PT operation,
reduction or link send of the program names, for a job's descriptor alone names them (DEDUCED, log entry 47). -/
def codecToken (c : Ctx) (tok : Nat) : Bool :=
  match c.srep with
  | some r => !r.fabric && !(ptTokens c.theProg ++ redTokens c.theProg ++ sendTokens c.theProg).contains tok
  | none => false

/-- The tokens that a bell waits on and that have not reached their counts (R50). -/
def bellMissing (c : Ctx) (b : BellOp) : List Nat :=
  ((bellWaits b).filter (fun p => decide (Tab.get 0 c.tokens p.1 < p.2) && !codecToken c p.1)).map (·.1)

/-- Every named token has reached its count (R50). -/
def bellSatisfied (c : Ctx) (b : BellOp) : Bool := (bellMissing c b).isEmpty

/-! ### Checkpoints -/

/-- The snapshot of a context (R54, R165, R173). -/
def takeSnapshot (c : Ctx) : Snapshot :=
  { pc := c.issuePc, scal := c.scal, loops := c.loops, masks := c.masks, bases := c.bases, issues := c.issues
    slots := c.slots.map (fun p => (p.1, ({
      top := p.2.bar.top, entries := p.2.bar.entries, armed := p.2.bar.armed, openUnits := p.2.openUnits } : SlotSnap))) }

/-- Add one tag's interval counts to the committed counts. -/
def ScaleRec.merge (a b : ScaleRec) : ScaleRec :=
  if b.values = 0 ∧ b.nanCount = 0 ∧ b.infCount = 0 then a
  else
    { values := a.values + b.values, amax := max a.amax b.amax
      aminNz := if a.aminNz = 0 then b.aminNz else if b.aminNz = 0 then a.aminNz else min a.aminNz b.aminNz
      ovf := List.zipWith (· + ·) a.ovf b.ovf, flush := List.zipWith (· + ·) a.flush b.flush
      nanCount := satAdd 32 a.nanCount b.nanCount, infCount := satAdd 32 a.infCount b.infCount
      zeroCount := satAdd 32 a.zeroCount b.zeroCount, saturated := a.saturated || b.saturated, fmt := b.fmt }

/-- Commit the interval tables of a slot that start at or before bell `j`, and open the table of bell `n` (R103). -/
def rollIntervals (n : Nat) (s : CtxSlot) : CtxSlot :=
  let old := s.intervals.filter (fun p => decide (p.1 + 2 ≤ n))
  let keep := s.intervals.filter (fun p => !decide (p.1 + 2 ≤ n))
  let com := old.foldl (fun (acc : Tab ScaleRec) p =>
    p.2.foldl (fun acc q => Tab.mod {} acc q.1 (fun a => a.merge q.2)) acc) s.committed
  { s with committed := com, intervals := keep }

/-- A range meets bytes that a BPOP freed after the older kept snapshot was taken (R164). -/
def Barrow.isProtected (b : Barrow) (bellNo lo hi : Nat) : Bool :=
  b.freed.any (fun (f : Nat × Nat × Nat) => decide (bellNo ≤ f.2.2 + 1) && decide (f.1 < hi) && decide (lo < f.2.1))

/-- Positions of units wholly at or above TOP without protected bytes become EMPTY (R163). -/
def Barrow.empty (bellNo : Nat) (b : Barrow) : Barrow :=
  { b with
    win := b.win.filter (fun (p : Nat × Option WinPos) => match p.2 with
      | some w => !(decide (b.top ≤ w.unit * unit64) && !b.isProtected bellNo (w.unit * unit64) ((w.unit + 1) * unit64))
      | none => false)
    freed := b.freed.filter (fun (f : Nat × Nat × Nat) => decide (bellNo ≤ f.2.2 + 1)) }

/-- A barrow without its task (R155, R165): what the image placed and the traffic counts stay. -/
def Barrow.discarded (b : Barrow) : Barrow :=
  { winBase := b.winBase, winUnits := b.winUnits, spillBase := b.spillBase, capUnits := b.capUnits, spillMark := b.spillMark
    refillMark := b.refillMark, accSave := b.accSave, spilled := b.spilled, refilled := b.refilled }

/-- What every checkpoint bell does, the start of a task and a resumption included (R53, R54, R56, R103): a snapshot,
the two latest kept; the interval tables roll; window positions above TOP whose protection has lapsed become EMPTY (R163). -/
def checkpoint (t : CtxId) (d : Dev) : Dev :=
  d.modCtx t (fun c =>
    let n := c.bellNo + 1
    let c := { c with bellNo := n, sinceCkpt := 0, ckptAt := d.wall, snaps := (takeSnapshot c :: c.snaps).take 2 }
    { c with slots := Tab.mapAll {} c.slots (fun s => let s := rollIntervals n s; { s with bar := s.bar.empty n }) })

/-! ### Faults of a core and slot replay -/

/-- The window of MX_FAIL_WINDOW in fabric cycles (R82, R86). -/
def failWindow (d : Dev) : Nat := d.cfg.mxFailWindow.toNat * 1000 * msCycles

/-- Note a mismatch or logic fault on a core; answers whether one already lay within the window (R82, R441). -/
def noteFault (core : Nat) (d : Dev) : Bool × Dev :=
  let again := match Tab.get none d.err.coreFaultAt core with
    | some w => decide (d.wall ≤ w + failWindow d)
    | none => false
  (again, { d with err := { d.err with coreFaultAt := Tab.set none d.err.coreFaultAt core (some d.wall) } })

/-- MX_FAULT [31:0] of a core (R84). -/
def mxFault (d : Dev) (core : Nat) : Nat :=
  let c := d.core core
  c.tileReplays % 256 + put 8 8 c.accMismatches + put 16 1 (b2n c.failed)

/-- A core test in a cluster that loses a core stops, and the core under test returns untested (R378). -/
def stopCoreTest (c : Nat) (d : Dev) : Dev :=
  match d.host.test with
  | some j =>
    if j.running ∧ j.scope = 0 ∧ j.index / 9 = c then finish mgmtTill .retry none none { d with host := { d.host with test := none } }
    else d
  | none => d

/-! ### Accumulator buffers and the cores that own them -/

/-- Take the bytes of an address range out of memory: those bytes, keyed from the range's first address, and the rest. -/
def takeRange (lo n : Nat) (m : Tab Byte) : Tab Byte × Tab Byte :=
  let in_ := fun (p : Nat × Byte) => decide (lo ≤ p.1) && decide (p.1 < lo + n)
  ((m.filter in_).map (fun p => (p.1 - lo, p.2)), m.filter (fun p => !in_ p))

/-- Put bytes back at an address range that holds none. -/
def putRange (lo : Nat) (l : Tab Byte) (m : Tab Byte) : Tab Byte := l.foldl (fun m p => Tab.set 0 m (lo + p.1) p.2) m

/-- A slot's accumulator address names the buffer of the core bound to it (R27): a core that gives up slot `k` keeps its bytes
under its own number while it stays in service, and a lost core's bytes are gone (R16). -/
def stashAcc (k core : Nat) (kept : Bool) (d : Dev) : Dev :=
  let (out, rest) := takeRange (accBase k) accSize d.mem
  { d with mem := rest, accHeld := if kept then putRange (accSize * core) out d.accHeld else d.accHeld
           badSram := d.badSram.filter (fun w => !(decide (accBase k ≤ w) && decide (w < accBase k + accSize))) }

/-- The bytes of the core that takes slot `k` stand at the slot's address. -/
def loadAcc (k core : Nat) (d : Dev) : Dev :=
  let (own, rest) := takeRange (accSize * core) accSize d.accHeld
  { d with mem := putRange (accBase k) own d.mem, accHeld := rest }

/-- Cluster `c` has been bound anew from the positions `old`: the accumulator buffers follow their cores. Where a slot keeps no
core of its own, or had none, its bytes stay at its address, those of a lost core apart (log entry 63). -/
def carryAcc (c : Nat) (old : List Nat) (d : Dev) : Dev :=
  let x := d.cluster c
  let moved := (List.range 8).filter (fun s => old.getD s 0xF ≠ x.bound.getD s 0xF && decide (old.getD s 0xF < 9))
  let d := moved.foldl (fun d s =>
    let p := old.getD s 0xF
    if decide (x.bound.getD s 0xF < 9) || !x.coreOk.getLsbD p then stashAcc (8 * c + s) (9 * c + p) (x.coreOk.getLsbD p) d else d) d
  (moved.filter (fun s => decide (x.bound.getD s 0xF < 9))).foldl (fun d s => loadAcc (8 * c + s) (9 * c + x.bound.getD s 0xF) d) d

/-- Settle cluster `c` after a core left or came, with the accumulator buffers of its die following their cores (R16 to R18). -/
def resettle (c : Nat) (d : Dev) : Dev :=
  let before := (dieClusters c).map (fun x => (x, (d.cluster x).bound))
  before.foldl (fun d p => carryAcc p.1 p.2 d) (settleCluster c d)

/-- The clusters that no cluster serves. -/
def orphans (d : Dev) : List Nat := (List.range 16).filter (fun c => (d.cluster c).orphan)

/-- A core leaves service: its cluster rebinds (R16 to R18), its accumulator buffer is lost with it, and where a cluster finds no
lender, every task of the package aborts with CORE_LOST. -/
def loseCore (core : Nat) (d : Dev) : Dev :=
  let c := core / 9
  let before := orphans d
  let d := d.modCluster c (fun x => { x with coreOk := x.coreOk &&& ~~~(BitVec.ofNat 9 (2 ^ (core % 9))) })
  let d := resettle c d
  let d := d.modCore core (fun x => { x with mxQ := [], vxQ := [], txQ := [] })
  let d := { d with seq := { d.seq with late := d.seq.late.filter (fun p => p.1 ≠ core) } }
  let d := stopCoreTest c { d with accHeld := (takeRange (accSize * core) accSize d.accHeld).2 }
  if (orphans d).any (fun x => !before.contains x) then
    let (g, d) := useFree 32 d
    abortAll .coreLost g d
  else d

/-- Publish what a change of cores changes: the cluster event and the shape table (R23, R428). -/
def coresChanged (c : Nat) (d : Dev) : Dev :=
  raiseEvent (272 + c) (clusterStatus d c) (publishShape id d)

/-- Time-sliced service occurs under a running task (R17, R190). -/
def noteSliced (d : Dev) : Dev :=
  match d.seq.running with
  | some t =>
    if (List.range 16).any (fun c => decide (factorOf d c < 16)) then d.modCtx t (fun c => { c with sliced := true }) else d
  | none => d

/-- The slots replayed for a fault on a core (R446): the named slot, or every slot the cluster serves in time-sliced or
lending service. -/
def replaySlots (d : Dev) (k : Nat) (core : Nat) : List Nat :=
  if (servingCores d k).length = 1 then [k] else (slotsOfCore d core)

/-- Begin a slot replay (R57, R443, R446): the schedule clock stops; a report during Hold or Rebind joins the replay, one
during Solo replay waits for Resume. -/
def beginReplay (t : CtxId) (ks : List Nat) (snap : Nat) (kind : FaultKind) (core : Nat) (adopted : Bool) (d : Dev) : Dev :=
  let ps := ks.map (fun k => (k, snap))
  let d := d.modCtx t (fun c => { c with recovered := true })
  match d.seq.replay with
  | none =>
    { d with seq := { d.seq with mode := .hold, replay := some {
        ctx := t, slots := ps, kind := kind, core := core, adopted := adopted } } }
  | some r =>
    if r.running then
      { d with seq := { d.seq with replay := some { r with next := r.next ++ ps.map (fun p => (p.1, p.2, kind, core)) } } }
    else
      { d with seq := { d.seq with replay := some { r with
          slots := r.slots ++ ps.filter (fun p => !r.slots.any (fun q => q.1 == p.1)), adopted := r.adopted || adopted
          joined := r.joined ++ [(core, kind, ks.headD 0)] } } }

/-- Take a core out of service by the spare path (R14, R16, R82): marked failed where it is, entered into the spare map as retired
where it is (R21); its mismatch count starts afresh. -/
def takeOut (core : Nat) (failed retire : Bool) (d : Dev) : Dev :=
  let d := d.modCore core (fun x => { x with failed := x.failed || failed })
  let d := if retire then
      mirror (d.modCluster (core / 9) (fun x => { x with retired := x.retired ||| BitVec.ofNat 9 (2 ^ (core % 9)) })) else d
  let d := noteSliced (loseCore core d)
  { d with err := { d.err with coreFaultAt := Tab.set none d.err.coreFaultAt core none } }

/-- The class of a fault that a replay recovers (R439): 0 for the accumulator adders, 2 for the accumulator buffer, 7 for core
logic. -/
def classOf : FaultKind → Nat
  | .accAdder => 0
  | .accSram => 2
  | .coreLogic | .coreLost => 7

/-- The recovery of a fault on a core (R16, R81, R82, R446): a lost core is marked failed and retired, and leaves service; the
slot's replay begins, restarts at Rebind where the core was running one, and is left out when the task does not run, or no longer
does because its die has lost its last core. -/
def recover (t : CtxId) (k snap : Nat) (kind : FaultKind) (lost : Bool) (core : Nat) (d : Dev) : Dev :=
  let ks := replaySlots d k core
  let inReplay := match runningReplay d with | some r => r.slots.any (fun p => p.1 == k) | none => false
  let lost := lost || inReplay
  let ran := (d.ctx t).phase == .running
  let d := if lost then takeOut core true true d else d
  if (d.ctx t).phase ≠ .running then
    let d := if ran then errReport { cls := classOf kind, level := 1, action := 13, status := Status.code .coreLost, loc := errLoc core 0 (some k)
                                     detail := mxFault d core, ctx := some t, die := some (dieOfCore core) } d
      else d
    if lost then coresChanged (core / 9) d else d
  else if inReplay then
    { d with seq := { d.seq with replay := d.seq.replay.map (fun r =>
        { r with running := false, stage := 0, adopted := true }) } }
  else beginReplay t ks snap kind core lost d

/-- A core ordered out of service leaves it (R14): a retired one for good; a reset one with nothing kept, its check beginning
(R470). -/
def orderedOut (core : Nat) (retire : Bool) (d : Dev) : Dev :=
  let d := takeOut core false retire d
  if retire then raiseEvent (128 + core) (mxFault d core) d
  else { (d.modCore core (fun _ => {})) with pwr := { d.pwr with coreCheck := Tab.set false d.pwr.coreCheck core true } }

/-- At a checkpoint bell of the running task, the cores ordered out of service while they hold slots of it leave: the spare adopts
each slot, which replays from that bell (R14). -/
def adoptDue (t : CtxId) (d : Dev) : Dev :=
  d.seq.adopt.foldl (fun (d : Dev) (p : Nat × Bool) =>
    let ks := match (slotsOfCore d p.1).head? with | some k => replaySlots d k p.1 | none => []
    let d := orderedOut p.1 p.2 d
    if ks = [] then coresChanged (p.1 / 9) d else beginReplay t ks 0 .coreLost p.1 true d)
    { d with seq := { d.seq with adopt := [] } }

/-- With no task running, cores ordered out leave at once. -/
def adoptIdle (d : Dev) : Dev :=
  d.seq.adopt.foldl (fun (d : Dev) (p : Nat × Bool) => coresChanged (p.1 / 9) (orderedOut p.1 p.2 d)) { d with seq := { d.seq with adopt := [] } }

/-- A fault of a core that a replay recovers (R81, R82, R441): counted; a second within the window, or a core physically
lost (R16), is lost to its cluster. -/
def coreFault (t : CtxId) (k : Nat) (snap : Nat) (kind : FaultKind) (d : Dev) : Dev :=
  match coreOfSlot d k with
  | none => d
  | some core =>
    let d := match kind with
      | .accAdder | .accSram => d.modCore core (fun x => { x with accMismatches := satAdd 8 x.accMismatches 1 })
      | _ => d
    let (again, d) := noteFault core d
    recover t k snap kind (again || kind == .coreLost) core d

end Sys2Proof.Machine
end

