-- ==== Sys2Proof/Machine/Stream.lean ====
section
/-! DEFINITION. The bundle stream's commands (02_bundle_stream.md): the LP and SY slots, bells, holds, replay,
pre-emption. A command that falls due only in a certain situation changes nothing outside it (log entry 5). -/

namespace Sys2Proof.Machine

/-- Bell stall of every die (R52, R66). -/
def addStall (n : Nat) (d : Dev) : Dev :=
  { d with seq := { d.seq with stall := Tab.modMany 0 d.seq.stall [0, 1, 2, 3] (fun _ x => x + n) } }

/-- Issue-hold cycles of every die (R47, R66). -/
def addHold (n : Nat) (d : Dev) : Dev :=
  { d with seq := { d.seq with hold := Tab.modMany 0 d.seq.hold [0, 1, 2, 3] (fun _ x => x + n) } }

/-- Fabric cycles of wall-clock time that `n` scheduled cycles last, and sixteenths left over, at the package factor F of the
shape table: 16/F each (R19). What is added counts as a hold (DEDUCED, log entry 82). -/
def stretched (d : Dev) (n : Nat) : Nat × Nat :=
  let f := if d.shape.packageFactor = 0 then 16 else d.shape.packageFactor
  ((16 * n + d.seq.stretch) / f, (16 * n + d.seq.stretch) % f)

/-- `n` fabric cycles pass with the schedule clock advancing (R19, R47, R53); what the stretched timebase adds is a planned hold.
In a solo replay the schedule clock itself stands still (R57). -/
def scheduleCycles (t : CtxId) (n : Nat) (d : Dev) : Dev :=
  let (w, rem) := stretched d n
  let d := addHold (w - n) { d with wall := d.wall + w, seq := { d.seq with stretch := rem } }
  if replaying d then d else d.modCtx t (fun c => { c with sinceCkpt := c.sinceCkpt + n })

/-- IDLE bundle (R36): dispatches nothing and occupies n + 1 fabric cycles. -/
def execIdleBundle (t : CtxId) (n : BitVec 16) (s : State) : Res :=
  s.upd (fun d => if issuing d t then scheduleCycles t (n.toNat + 1) d else d)

/-- END bundle (R36): issue stops; the task ends at TASK_END. -/
def execEndBundle (t : CtxId) (s : State) : Res :=
  s.upd (fun d => if issuing d t && !replaying d then d.modCtx t (fun c => { c with ended := true }) else d)

/-! ### LP slot -/

/-- SMOVI (R41). -/
def execSmovi (t : CtxId) (dst : BitVec 5) (imm : BitVec 42) (s : State) : Res :=
  s.upd (fun d => if issuing d t then d.modCtx t (fun c => c.setScalar dst.toNat (imm.setWidth 32)) else d)

/-- SADD (R41), modulo 2^32. -/
def execSadd (t : CtxId) (dst src : BitVec 5) (imm : BitVec 42) (s : State) : Res :=
  s.upd (fun d => if issuing d t then
    d.modCtx t (fun c => c.setScalar dst.toNat (c.scalar dst.toNat + c.scalar src.toNat + imm.setWidth 32)) else d)

/-- Take a branch: the next bundle is `target`, and a fabric cycle passes in which nothing issues (R42). -/
def takeBranch (t : CtxId) (target : Nat) (d : Dev) : Dev :=
  scheduleCycles t 1 (d.modCtx t (fun c => { c with pc := target, taken := true }))

/-- LOOP (R41, R42): a count of 0 skips the body as a taken branch; starting an active level restarts it. The count is
not reduced modulo 2^32 (log entry 13). -/
def loopStart (t : CtxId) (level src imm : Nat) (d : Dev) : Dev :=
  let c := d.ctx t
  let n := (c.scalar src).toNat + field imm 15 0
  let last := field imm 31 16
  let rest := c.loops.filter (fun l => l.level ≠ level)
  if n = 0 then takeBranch t (last + 1) (d.modCtx t (fun c => { c with loops := rest }))
  else d.modCtx t (fun c => { c with
    loops := { level := level, left := n, first := c.issuePc + 1, last := last } :: rest })

def execLoop (t : CtxId) (level : BitVec 3) (src : BitVec 5) (imm : BitVec 42) (s : State) : Res :=
  s.upd (fun d => if issuing d t then loopStart t level.toNat src.toNat imm.toNat d else d)

/-- BR (R41). -/
def execBr (t : CtxId) (imm : BitVec 42) (s : State) : Res :=
  s.upd (fun d => if issuing d t then takeBranch t (field imm.toNat 15 0) d else d)

/-- BRZ (R41). -/
def execBrz (t : CtxId) (src : BitVec 5) (imm : BitVec 42) (s : State) : Res :=
  s.upd (fun d => if issuing d t && (d.ctx t).scalar src.toNat == 0 then takeBranch t (field imm.toNat 15 0) d else d)

/-- BRNZ (R41). -/
def execBrnz (t : CtxId) (src : BitVec 5) (imm : BitVec 42) (s : State) : Res :=
  s.upd (fun d => if issuing d t && (d.ctx t).scalar src.toNat != 0 then takeBranch t (field imm.toNat 15 0) d else d)

/-- Change BASE[r] of the given slots (R45). -/
def setBases (t : CtxId) (r : Nat) (ks : List Nat) (f : Nat → BitVec 48 → BitVec 48) (d : Dev) : Dev :=
  d.modCtx t (fun c => { c with bases := ks.foldl (fun b k => Tab.mod 0 b (64 * k + r) (f k)) c.bases })

/-- BSET (R41): IMM sign-extended, or EXT. -/
def execBset (t : CtxId) (dst : BitVec 5) (mask : BitVec 4) (imm : BitVec 42) (ext : Option (BitVec 48)) (s : State) :
    Res :=
  s.upd (fun d => if issuing d t then
    setBases t dst.toNat (actingSlots d t mask.toNat) (fun _ _ => ext.getD (imm.signExtend 48)) d else d)

/-- BADD (R41): S[SRC] is unsigned, IMM signed, the sum modulo 2^48. -/
def execBadd (t : CtxId) (dst src : BitVec 5) (mask : BitVec 4) (imm : BitVec 42) (s : State) : Res :=
  s.upd (fun d => if issuing d t then
    setBases t dst.toNat (actingSlots d t mask.toNat)
      (fun _ b => b + ((d.ctx t).scalar src.toNat).setWidth 48 + imm.signExtend 48) d else d)

/-- BROW (R41): the rank is that of the core's slot among all set bits of the mask. -/
def execBrow (t : CtxId) (dst src : BitVec 5) (mask : BitVec 4) (imm : BitVec 42) (s : State) : Res :=
  s.upd (fun d => if issuing d t then
    let all := maskSlots (d.ctx t) mask.toNat
    let rows := ((d.ctx t).scalar src.toNat).toNat
    setBases t dst.toNat (actingSlots d t mask.toNat)
      (fun k b => b + BitVec.ofNat 48 (ceilDiv ((all.filter (· < k)).length * rows) all.length) * imm.signExtend 48) d
    else d)

/-- MLOAD (R41, R42): MASK0 is a reserved encoding. -/
def execMload (t : CtxId) (dst : BitVec 4) (imm : BitVec 42) (s : State) : Res :=
  if dst = 0 then .fault .reservedEncoding
  else s.upd (fun d => if issuing d t then
    d.modCtx t (fun c => { c with
      masks := Tab.set 0 c.masks dst.toNat (c.theProg.pool.getD (field imm.toNat 11 0) 0) }) else d)

/-! ### SY slot and bells -/

/-- Copies outvoted since the last checkpoint bell are reloaded (R441). -/
def reloadCopies (d : Dev) : Dev := { d with err := { d.err with copyReload := [] } }

/-- The first die whose sequencer's hash of the addresses it has issued differs from that of die 0 (R48). Equal runs of addresses
have equal hashes; which runs that differ have the same hash is open. -/
def hashDiffers (d : Dev) : Option Nat :=
  let run := fun (x : Nat) => Tab.get [] d.seq.issued x
  [1, 2, 3].find? (fun x => !(run x == run 0 || Config.seqHash (run x) == Config.seqHash (run 0)))

/-- A sequencer fault (R48, R442): an escape of class 15; every task aborts with INTERNAL. -/
def sequencerFault (x : Nat) (d : Dev) : Dev :=
  let (g, d) := useFree 32 d
  let d := errReport { cls := 15, level := 3, action := 13, status := Status.internal.code, loc := errLoc x 5 none, detail := g
                       die := some x } d
  let (g, d) := useFree 32 d
  abortAll .internal g d

/-- What a checkpoint bell does when it issues (R48, R54, R66, R441; R14): the snapshot, the count, the reload of outvoted copies,
the comparison of the sequencers' hashes, and the cores that were ordered out of service. -/
def checkpointBell (t : CtxId) (d : Dev) : Dev :=
  let d := reloadCopies (checkpoint t (d.modCtx t (fun c => { c with
    ckptCount := (c.ckptCount + 1) % 2 ^ 32, lastCkpt := c.issuePc })))
  let bad := hashDiffers d
  let d := { d with seq := { d.seq with issued := [] } }
  match bad with
  | some x => sequencerFault x d
  | none => adoptDue t d

/-- The bell bundle issues (R50, R51, R54): counters are reduced by their counts, outside a replay; a checkpoint bell
takes its snapshot. A token that the bell names twice, or a codec token that a LOCAL replay satisfies at once, may stand below its
count: it is reduced to 0 (DESIGN CHOICE, log entry 47). -/
def bellIssue (t : CtxId) (b : BellOp) (d : Dev) : Dev :=
  let d := d.modCtx t (fun c => { c with bellWait := none, bellDone := true, bellWaited := 0 })
  let d := { d with seq := { d.seq with ckptHold := false, mode := if replaying d then .replay else .issuing } }
  if replaying d then
    if b.ckpt then { d with seq := { d.seq with replay := d.seq.replay.map (fun r => { r with stage := 0 }) } } else d
  else
    let d := d.modCtx t (fun c => { c with
      tokens := (bellWaits b).foldl (fun tk p => Tab.mod 0 tk p.1 (· - p.2)) c.tokens })
    if b.ckpt then checkpointBell t d else d

/-- A checkpoint bell that falls due less than 3,300 fabric cycles after the previous one is held (R56). -/
def tooSoon (d : Dev) (t : CtxId) (b : BellOp) : Bool := b.ckpt && decide (d.wall < (d.ctx t).ckptAt + 3300)

/-- TCLEAR (R43); a solo replay leaves token counters alone (R58). -/
def execTclear (t : CtxId) (token : BitVec 12) (s : State) : Res :=
  s.upd (fun d => if issuing d t && !replaying d then
    d.modCtx t (fun c => { c with tokens := Tab.set 0 c.tokens token.toNat 0 }) else d)

/-- SIGNAL (R43, R428): source 32 + context with ARG; not raised again by a solo replay, in which only the replayed slot
acts (R57). -/
def execSignal (t : CtxId) (arg : BitVec 8) (s : State) : Res :=
  s.upd (fun d => if issuing d t && !replaying d then raiseEvent (32 + t.val) arg.toNat d else d)

/-- TOKEN_ARRIVAL (R49). -/
def execTokenArrival (t : CtxId) (token : BitVec 12) (s : State) : Res := s.upd (arrive t token.toNat)

/-- `n` fabric cycles pass while a bell waits (R52, R66); the watchdog does not count those in which a tap dump has not landed
(R200). -/
def waitCycles (t : CtxId) (n : Nat) (d : Dev) : Dev :=
  let d := addStall n { d with wall := d.wall + n }
  if d.seq.tapHold then d else d.modCtx t (fun c => { c with bellWaited := c.bellWaited + n })

/-- The bell watchdog's limit for a context in fabric cycles: the RUN_TASK's own, or STREAM_WDOG, in units of 100 µs (R52, R65,
R367). -/
def wdogLimit (d : Dev) (t : CtxId) : Nat :=
  165000 * (if (d.ctx t).wdog = 0 then d.cfg.streamWdog.toNat else (d.ctx t).wdog)

/-- BELL_WATCHDOG_EXPIRY (R52): the wait reaches its limit: PREFETCH_LATE with the lowest-numbered token not satisfied. -/
def bellWatchdogExpiry (t : CtxId) (d : Dev) : Dev :=
  match (d.ctx t).bellWait with
  | some b =>
    if d.seq.running = some t ∧ d.seq.mode = .bellWait then
      match bellMissing (d.ctx t) b with
      | [] => d
      | x :: r => abortTask t .prefetchLate (r.foldl min x) (waitCycles t (wdogLimit d t - (d.ctx t).bellWaited) d)
    else d
  | none => d

def execBellWatchdogExpiry (t : CtxId) (s : State) : Res := s.upd (bellWatchdogExpiry t)

/-! ### Holds -/

/-- The operations in flight on an engine of a core: 0 matrix, 1 vector, 2 transpose. -/
def Core.queue (c : Core) (engine : Nat) : List Flight := match engine with | 0 => c.mxQ | 1 => c.vxQ | _ => c.txQ

/-- ENGINE_LATE (R47): an operation in flight has not completed by its scheduled cycle. The sequencers begin an issue hold; while a
bell waits the stop stays a bell wait. -/
def engineLate (core engine : Nat) (d : Dev) : Dev :=
  if d.seq.running.isSome ∧ (d.seq.mode = .issuing ∨ d.seq.mode = .hold ∨ d.seq.mode = .bellWait) ∧ d.seq.replay.isNone ∧
      (d.core core).queue engine ≠ [] then
    { d with seq := { d.seq with
        mode := if d.seq.mode = .bellWait then .bellWait else .hold
        late := if d.seq.late.contains (core, engine) then d.seq.late else d.seq.late ++ [(core, engine)] } }
  else d

def execEngineLate (x : EngineRef) (s : State) : Res := s.upd (engineLate x.core.val x.engine.val)

/-- An operation of an engine completes: the engine is late no longer (R47). -/
def notLate (core engine : Nat) (d : Dev) : Dev :=
  { d with seq := { d.seq with late := d.seq.late.filter (fun p => p ≠ (core, engine)) } }

/-- The first slot a core serves, which names it in a fault report. -/
def slotOfCore (d : Dev) (core : Nat) : Option Nat := (slotsOfCore d core).head?

/-- A core logic fault (R441, R442): an error record of the given class, and the recovery of R81 and R82. -/
def coreLogicFault (cls core : Nat) (d : Dev) : Dev :=
  let k := slotOfCore d core
  let alone := fun (d : Dev) =>
    errReport { cls := cls, level := 1, action := 2, loc := errLoc core 5 k, detail := mxFault d core, die := some (dieOfCore core) } d
  match k, d.seq.running with
  | some k, some t =>
    let first := d.seq.replay.isNone
    let d := coreFault t k 0 .coreLogic d
    match d.seq.replay with
    | none => alone d
    | some r =>
      if first ∧ cls = 15 then { d with seq := { d.seq with replay := some { r with escape := true } } } else d
  | _, _ => alone (noteFault core d).2

/-- ISSUE_HOLD_TIMEOUT (R48, R442): an escape of class 15, recovered as a core logic fault; the hold of a core whose
array the awning has paused is the pause's. -/
def issueHoldTimeout (core : Nat) (d : Dev) : Dev :=
  if d.seq.late.any (fun p => p.1 == core) && !(Tab.get false d.awning.paused (dieOfCore core)) then
    coreLogicFault 15 core { d with seq := { d.seq with late := d.seq.late.filter (fun p => p.1 ≠ core) } }
  else d

def execIssueHoldTimeout (c : CoreId) (s : State) : Res := s.upd (issueHoldTimeout c.val)

/-- CKPT_LIMIT_EXCEEDED (R53): BAD_PARAM with the bundle address at which the limit was crossed. -/
def ckptLimitExceeded (t : CtxId) (d : Dev) : Dev :=
  if d.seq.running = some t ∧ 19800 < (d.ctx t).sinceCkpt then abortTask t .badParam (d.ctx t).issuePc d else d

def execCkptLimitExceeded (t : CtxId) (s : State) : Res := s.upd (ckptLimitExceeded t)

/-! ### Slot replay -/

/-- FAULT_REPORT (R57, R81, R82, R443): the report names the slot and whether the older kept snapshot precedes the
fault's first effect. -/
def faultReport (t : CtxId) (k : Nat) (older : Bool) (kind : FaultKind) (d : Dev) : Dev :=
  if (d.ctx t).phase ≠ .running ∨ d.seq.running ≠ some t then d
  else coreFault t k (if older ∧ 2 ≤ (d.ctx t).snaps.length then 1 else 0) kind d

def execFaultReport (t : CtxId) (k : SlotId) (older : Bool) (kind : FaultKind) (s : State) : Res :=
  s.upd (faultReport t k.val older kind)

/-- Every accumulator unit that was open at the named bell is reloaded from the slot's checkpoint area (R173). -/
def reloadUnits (t : CtxId) (k : Nat) (units : List Nat) (d : Dev) : Dev :=
  let area := ((d.ctx t).slot k).bar.accSave
  units.foldl (fun d u => wrBytes (accBase k + 1024 * u) (rdBytes d (area + 1024 * u) 1024) d) d

/-- The armed set of a snapshot, each entry as it stands now; one that has left the set since then has been sent, fetched and popped
(R165). -/
def armedAgain (then_ now : List Armed) : List Armed :=
  then_.map (fun a => match now.find? (fun b => b.num == a.num) with
    | some b => b
    | none => { a with acked := true, back := 3, pushOp := none, popOp := none })

/-- Bring a slot to a snapshot (R54, R57, R103, R165, R173, R506): its base registers and open units; its banks cleared; its barrow
position and armed set, the window as it stands; its interval tables from the snapshot's bell on zeroed. -/
def restoreSlot (n : Nat) (bell : Nat) (sn : Snapshot) (k : Nat) (c : Ctx) : Ctx :=
  let c := { c with bases := (List.range 64).foldl (fun b r => Tab.set 0 b (64 * k + r) (Tab.get 0 sn.bases (64 * k + r))) c.bases }
  let ss := Tab.get {} sn.slots k
  c.modSlot k (fun x => { x with
    bank0 := {}, bank1 := {}, active := false, sloadOut := 0, mxWait := [], openUnits := ss.openUnits
    bar := { x.bar with top := ss.top, entries := ss.entries, queue := [], pushWait := false, protectWait := false
                        armed := armedAgain ss.armed x.bar.armed, before := x.bar.armed }
    intervals := x.intervals.filter (fun p => decide (p.1 + n < bell)) })

/-- SOLO_REPLAY_START (R57, R58): rebinding is done; the context goes back to the oldest named bell, and each replayed
slot to its own. -/
def soloReplayStart (d : Dev) : Dev :=
  match d.seq.replay with
  | none => d
  | some r =>
    if r.running then d
    else
      let c := d.ctx r.ctx
      let start := (r.slots.map (·.2)).foldl max 0
      match c.snaps[start]? with
      | none => d
      | some sn =>
        let held : HeldPoint := r.held.getD {
          pc := c.pc, issuePc := c.issuePc, scal := c.scal, loops := c.loops, masks := c.masks, bases := c.bases
          ended := c.ended, bellWait := c.bellWait, bellDone := c.bellDone, issues := c.issues }
        let d := d.modCtx r.ctx (fun c =>
          let c := { c with pc := sn.pc, issuePc := sn.pc, scal := sn.scal, loops := sn.loops, masks := sn.masks
                            ended := false, bellWait := none, bellDone := true, issues := sn.issues }
          r.slots.foldl (fun c p => restoreSlot p.2 c.bellNo ((c.snaps[p.2]?).getD sn) p.1 c) c)
        let d := r.slots.foldl (fun d p => reloadUnits r.ctx p.1 ((d.ctx r.ctx).slot p.1).openUnits d) d
        { d with seq := { d.seq with mode := .replay, replay := some { r with
            running := true, stage := start, held := some held } } }

def execSoloReplayStart (s : State) : Res := s.upd soloReplayStart

/-- The error record of a replay (R439, R452, R453): on the same core, on a spare, or on the cores of a cluster that has none left;
INTERRUPT_NS is an open value, since the Rebind phase is only bounded (log entry 7). -/
def replayRecord (r : Replay) (waits : Nat) (d : Dev) : Dev :=
  let cls := if r.escape then 15 else classOf r.kind
  let (ns, d) := useFree 32 d
  let one := fun (cls core slot flags : Nat) (d : Dev) =>
    let spare := r.adopted && (servingCores d slot).length == 1
    errReport { cls := cls, level := 1, action := if spare then 3 else if r.adopted then 4 else 2, loc := errLoc core 0 (some slot)
                detail := mxFault d core, spare := b2n spare, ctx := some r.ctx, flags := flags
                interruptNs := ns, waitNs := waits, die := some (dieOfCore core) } d
  r.joined.foldl (fun d p => one (classOf p.2.1) p.1 p.2.2 4 d) (one cls r.core ((r.slots.head?.map (·.1)).getD 0) 0 d)

/-- A solo replay has reached the held point (R57): as many bundles have issued as when the schedule clock stopped, and the bell of
the next one has been passed where it had been. -/
def atHeldPoint (d : Dev) (c : Ctx) : Bool :=
  match runningReplay d with
  | some r => (match r.held with
    | some h => c.issues == h.issues && c.bellDone == h.bellDone
    | none => false)
  | none => false

/-- SOLO_REPLAY_END (R57, R443, R446): the held point has been reached, after `replayed` further fabric cycles, the schedule clock
restarts, and the deferred work follows: the record, the core and cluster events, the shape table. `waits` is WAIT_NS.
Reports that arrived during the replay start their own Hold. An abort that waited for the replay is carried out. -/
def soloReplayEnd (replayed waits : Nat) (d : Dev) : Dev :=
  match d.seq.replay with
  | none => d
  | some r =>
    match r.running, r.held with
    | true, some h =>
      if !atHeldPoint d (d.ctx r.ctx) then d
      else
      let d := d.modCtx r.ctx (fun c => { c with
        pc := h.pc, issuePc := h.issuePc, scal := h.scal, loops := h.loops, masks := h.masks, bases := h.bases
        ended := h.ended, bellWait := h.bellWait, bellDone := h.bellDone, issues := h.issues })
      let mode : SeqMode := if h.bellWait.isSome then .bellWait
        else if d.seq.late ≠ [] ∨ d.seq.tapHold then .hold else .issuing
      let d := { d with wall := d.wall + 16 + replayed, seq := { d.seq with replay := none, mode := mode } }
      let d := replayRecord r waits d
      let d := raiseEvent (128 + r.core) (mxFault d r.core) d
      let d := if r.adopted then coresChanged (r.core / 9) d else d
      let d := if (d.ctx r.ctx).hostAbort then stopIssue r.ctx d else d
      r.next.foldl (fun d p => faultReport r.ctx p.1 (p.2.1 == 1) p.2.2.1 d) d
    | _, _ => d

def execSoloReplayEnd (replayed waits : Nat) (s : State) : Res := s.upd (soloReplayEnd replayed waits)

/-! ### Pre-emption and task switching -/

/-- Contexts that are ready (R60). -/
def readyCtx (d : Dev) : List CtxId := allCtx.filter (fun t => (d.ctx t).phase == .ready)

/-- The ready context that follows `from_` in ascending order, wrapping (R60). -/
def nextReady (d : Dev) (from_ : Nat) : Option CtxId :=
  ((List.range 16).map (fun i => (from_ + 1 + i) % 16)).findSome? (fun i =>
    if h : i < 16 then (if (d.ctx ⟨i, h⟩).phase == .ready then some (⟨i, h⟩ : CtxId) else none) else none)

/-- QUANTUM_EXPIRY (R59). -/
def quantumExpiry (d : Dev) : Dev :=
  if d.seq.running.isSome ∧ d.cfg.streamQuantum ≠ 0 ∧ !(readyCtx d).isEmpty then
    { d with seq := { d.seq with preemptPending := true } }
  else d

def execQuantumExpiry (s : State) : Res := s.upd quantumExpiry

/-- The next bundle of a context is a yield point (R59). -/
def atYieldPoint (c : Ctx) : Bool :=
  match c.bellWait with
  | some b => b.yielding
  | none => !c.bellDone && (c.theProg.bundle c.pc).yielding

/-- PREEMPTION (R59, R62, R63): the yield bundle is withheld and the outgoing task drains; a replay completes first; a
waiting bell bundle is evaluated again on resumption. -/
def preemption (t : CtxId) (d : Dev) : Dev :=
  if d.seq.running = some t ∧ d.seq.preemptPending ∧ atYieldPoint (d.ctx t) ∧ d.seq.replay.isNone ∧ (d.ctx t).abort.isNone ∧
      (d.seq.mode = .issuing ∨ d.seq.mode = .bellWait) then
    let d := d.modCtx t (fun c => if c.bellWait.isSome then { c with bellWait := none, bellDone := false, pc := c.issuePc } else c)
    { d with seq := { d.seq with mode := .saving, preempt := .draining t } }
  else d

def execPreemption (t : CtxId) (s : State) : Res := s.upd (preemption t)

/-- No engine operation of the context is in flight or waits. -/
def enginesIdle (d : Dev) (t : CtxId) : Bool :=
  d.cores.all (fun p => (p.2.mxQ ++ p.2.vxQ ++ p.2.txQ).all (fun f => f.ctx ≠ t)) &&
    (d.ctx t).slots.all (fun p => p.2.mxWait.isEmpty)

/-- The slots in which a task has a local-store share: those a pre-emption saves (R508). -/
def savedSlots (c : Ctx) : List Nat := which 128 (fun k => (c.theProg.slotShare.getD k (0, 0)).2 ≠ 0)

/-- First byte of a slot's save area: the top 2,240 KiB of its local-store share (R62). The accumulator buffer takes its first
2 MiB; the banks and the core state that follow it stand in State alone, and no task's window reaches the area (DESIGN CHOICE, log
entry 51). -/
def saveAreaOf (c : Ctx) (k : Nat) : Nat :=
  let (b, n) := c.theProg.slotShare.getD k (0, 0)
  b + n - saveAreaBytes

/-- Copy 2 MiB between two ranges that do not meet. -/
def copyBuffer (src dst : Nat) (d : Dev) : Dev :=
  { d with mem := putRange dst (takeRange src accSize d.mem).1 (takeRange dst accSize d.mem).2
           badSram := d.badSram.filter (fun w => !(decide (dst ≤ w) && decide (w < dst + accSize))) }

/-- Save the accumulator buffers of a task's slots into its save areas (R62). -/
def saveAcc (t : CtxId) (d : Dev) : Dev :=
  let c := d.ctx t
  ((savedSlots c).foldl (fun d k => copyBuffer (accBase k) (saveAreaOf c k) d) d).modCtx t (fun c => { c with saved := true })

/-- Read them back (R62). -/
def restoreAcc (t : CtxId) (d : Dev) : Dev :=
  let c := d.ctx t
  if !c.saved then d
  else ((savedSlots c).foldl (fun d k => copyBuffer (saveAreaOf c k) (accBase k) d) d).modCtx t (fun c => { c with saved := false })

/-- PREEMPT_DRAIN_DONE (R62, R63): the save areas are written; an abort that arrived meanwhile is carried out and the
save discarded. -/
def preemptDrainDone (d : Dev) : Dev :=
  match d.seq.preempt with
  | .draining t =>
    if !enginesIdle d t then d
    else if (d.ctx t).abort.isSome ∨ (d.ctx t).hostAbort then
      stopIssue t ((saveAcc t { d with seq := { d.seq with preempt := .saved t } }).modCtx t (fun c => { c with saved := false }))
    else saveAcc t { d with seq := { d.seq with preempt := .saved t } }
  | _ => d

def execPreemptDrainDone (s : State) : Res := s.upd preemptDrainDone

/-- Select the incoming context (R60) and restore its save areas (R62). -/
def switchTo (from_ : Nat) (d : Dev) : Dev :=
  match nextReady d from_ with
  | some t =>
    restoreAcc t ({ d with seq := { d.seq with
      running := some t, mode := .saving, preempt := .restored t, preemptPending := false, lastRun := t.val } }.modCtx t
        (fun c => { c with phase := .running }))
  | none => { d with seq := { d.seq with running := none, mode := .idle, preempt := .none, preemptPending := false } }

/-- TASK_SWITCH (R60, R62): after a save, or when the running task has ended. -/
def taskSwitch (d : Dev) : Dev :=
  match d.seq.preempt with
  | .saved t =>
    let d := if (d.ctx t).phase = .running then d.modCtx t (fun c => { c with phase := .ready }) else d
    switchTo t.val d
  | .none => if d.seq.running.isNone then switchTo d.seq.lastRun d else d
  | _ => d

def execTaskSwitch (s : State) : Res := s.upd taskSwitch

/-- Every array that has no operation is idle, so that the first MMA that follows pays its ramp (R79). -/
def idleArrays (d : Dev) : Dev :=
  { d with cores := Tab.mapAll {} d.cores (fun (c : Core) =>
      if c.mxQ ≠ [] then c else if c.mxState = 5 then { c with mxResume := 0 } else { c with mxState := 0 }) }

/-! ### Sequencer registers -/

/-- STREAM_STALL of a die (R66): returned and cleared. -/
def streamStallRead (x : Nat) (d : Dev) : Dev :=
  let (n, d) := shown 64 (Tab.get 0 d.seq.stall x) d
  answer n { d with seq := { d.seq with stall := Tab.set 0 d.seq.stall x 0 } }

def execStreamStallRead (x : DieId) (s : State) : Res := s.upd (streamStallRead x.val)

/-- STREAM_HOLD of a die (R66): returned and cleared. -/
def streamHoldRead (x : Nat) (d : Dev) : Dev :=
  let (n, d) := shown 64 (Tab.get 0 d.seq.hold x) d
  answer n { d with seq := { d.seq with hold := Tab.set 0 d.seq.hold x 0 } }

def execStreamHoldRead (x : DieId) (s : State) : Res := s.upd (streamHoldRead x.val)

end Sys2Proof.Machine
end

