-- ==== Sys2Proof/Machine/Homes.lean ====
section
/-! DEFINITION. Tiers and homes (12_porter_tiers.md R277 to R285): names, population, allocation, moves. -/

namespace Sys2Proof.Machine

/-- Bytes of one data channel: 384 MiB. -/
def chanBytes : Nat := 0x18000000

/-- First address of a die's near region (R27). -/
def dieBase (die : Nat) : Nat := stackBase + die * 0x4000000000

/-- Bands lost on a die whose phase is at least `ph` (R248, R257). -/
def bandsLost (d : Dev) (die ph : Nat) : Nat := (d.losses.filter (fun l => decide (l.stack / 3 = die) && decide (ph ≤ l.phase))).length

/-- Bytes of a die's near region that are populated now (R29, R248): bands go at Cut (R257). -/
def populatedBytes (d : Dev) (die : Nat) : Nat := (384 - bandsLost d die 1) * chanBytes

/-- Bytes in which new homes may lie: no home is placed in a band from Announce on (R257). -/
def allocBytes (d : Dev) (die : Nat) : Nat := (384 - bandsLost d die 0) * chanBytes

/-- A translated address is populated (R28, R351): stack memory, or the host tier's range. -/
def populated (d : Dev) (a : Nat) : Bool :=
  if stackBase ≤ a ∧ a < 0x11000000000 then
    let die := (a - stackBase) / 0x4000000000
    decide (die < 4) && decide (a - dieBase die < populatedBytes d die)
  else decide (hostBase ≤ a) && decide (a < hostBase + d.host.tierSize)

/-! ### Allocation -/

/-- Two ranges overlap. -/
def meets (a n b m : Nat) : Bool := decide (a < b + m) && decide (b < a + n)

/-- Live place ranges, those that moves are filling included. -/
def placesInUse (d : Dev) : List (Nat × Nat) :=
  (liveHomes d).flatMap (fun p => (p.2.place, p.2.size) :: (if p.2.moving then [(p.2.toPlace, p.2.size)] else []))

/-- Live name ranges (R279). -/
def namesInUse (d : Dev) : List (Nat × Nat) := (liveHomes d).map (fun p => (p.2.name, p.2.size))

/-- The lowest 64 KiB-aligned address in [lo, hi) from which `n` bytes meet no range in use (log entry 21). -/
def lowestFree (used : List (Nat × Nat)) (lo hi n : Nat) : Option Nat :=
  let starts := (lo :: used.map (fun u => roundUp (u.1 + u.2) unit64)).filter (fun a =>
    decide (lo ≤ a) && decide (a + n ≤ hi) && !used.any (fun u => meets a n u.1 u.2))
  match starts with
  | [] => none
  | a :: r => some (r.foldl min a)

/-- The first 4 MiB of the host tier hold the codec units' queue areas and no home (R387). -/
def queueBytes : Nat := 0x400000

/-- A free place in a die's stack memory, or in the host tier where no die is given. -/
def freePlace (d : Dev) (die : Option Nat) (n : Nat) : Option Nat :=
  match die with
  | some x => lowestFree (placesInUse d) (dieBase x) (dieBase x + allocBytes d x) n
  | none => lowestFree (placesInUse d) (hostBase + queueBytes) (hostBase + d.host.tierSize) n

/-- A name for an object placed at `place` (R279): the place where that range is free, otherwise one from the unpopulated
part of the die's region, or from the host-tier region. -/
def chooseName (d : Dev) (die : Option Nat) (place n : Nat) : Option Nat :=
  if !(namesInUse d).any (fun u => meets place n u.1 u.2) then some place
  else match die with
    | some x => (lowestFree (namesInUse d) (dieBase x + 384 * chanBytes) (dieBase x + 0x4000000000) n).orElse (fun _ =>
        lowestFree (namesInUse d) hostBase 0x1000000000000 n)
    | none => lowestFree (namesInUse d) hostBase 0x1000000000000 n

/-- The lowest free descriptor index. -/
def freeIndex (d : Dev) : Option Nat :=
  (List.range (d.homes.length + 1)).find? (fun i => decide (i < 65536) && !(d.home i).valid)

/-- Write a new descriptor. -/
def addHome (h : Home) (d : Dev) : Option Dev :=
  (freeIndex d).map (fun i => { d with homes := Tab.set {} d.homes i { h with valid := true, gen := (d.home i).gen } })

/-- Free a descriptor; its generation stays, so that old handles are stale once it is used again. -/
def freeHome (i : Nat) (d : Dev) : Dev :=
  { (d.modHome i (fun h => { gen := h.gen + 1 })) with
      cores := Tab.modMany {} d.cores ((d.cores : List (Nat × Core)).map Prod.fst) (fun _ (c : Core) =>
        { c with tcache := c.tcache.filter (· ≠ i) })
      moves := d.moves.filter (fun (m : Move) => m.index ≠ i) }

/-- The size of an object, rounded up by the loader (R280). -/
def roundSize (n : Nat) : Nat := roundUp n unit64

/-- The die and size of each home of an object under a hint (R281); none for the host tier. -/
def hintHomes (hint n : Nat) : List (Option Nat × Nat) :=
  if hint = 0 then [0, 1, 2, 3].map (fun x => (some x, roundSize (ceilDiv n 4)))
  else if hint = 5 then [(none, roundSize n)]
  else [(some (hint - 1), roundSize n)]

/-- Allocate one home. -/
def allocOne (base : Home) (die : Option Nat) (n : Nat) (d : Dev) : Option Dev :=
  match freePlace d die n with
  | none => none
  | some place =>
    match chooseName d die place n with
    | none => none
    | some name => addHome { base with
        name := name, place := place, size := n, tier := if die.isSome then 1 else 2, die := die.getD 0 } d

/-- Allocate a user object by its hint (R280, R281). -/
def allocUser (t : CtxId) (number hint n : Nat) (d : Dev) : Option Dev :=
  let base : Home := { hint := hint, number := number, contexts := BitVec.ofNat 16 (2 ^ t.val) }
  (hintHomes hint n).foldl (fun (acc : Option Dev) p => acc.bind (allocOne base p.1 p.2)) (some d)

/-- Allocate a compiler-placed object at its name (R280): an SRAM object has PLACE equal to NAME; a stack or host-tier one
is placed at its name where that is populated and free, and otherwise at a free place of its tier. -/
def allocCompiler (t : CtxId) (number name die n : Nat) (d : Dev) : Option Dev :=
  let n := roundSize n
  let base : Home := { number := number, compiler := true, name := name, size := n, contexts := BitVec.ofNat 16 (2 ^ t.val)
                       die := die }
  if !isName name then addHome { base with tier := 0, place := name } d
  else if (namesInUse d).any (fun u => meets name n u.1 u.2) then none
  else
    let host := decide (hostBase ≤ name)
    let fits := if host then decide (hostBase + queueBytes ≤ name) && decide (name + n ≤ hostBase + d.host.tierSize)
      else decide (dieBase die ≤ name) && decide (name + n ≤ dieBase die + allocBytes d die)
    let place := if fits && !(placesInUse d).any (fun u => meets name n u.1 u.2) then some name
      else freePlace d (if host then none else some die) n
    place.bind (fun p => addHome { base with tier := if host then 2 else 1, place := p } d)

/-- Free every object whose CONTEXTS names only context `t`, and take `t` out of the others (R366). -/
def releaseHomes (t : CtxId) (d : Dev) : Dev :=
  let b : BitVec 16 := BitVec.ofNat 16 (2 ^ t.val)
  (liveHomes d).foldl (fun d p =>
    if p.2.contexts = b then freeHome p.1 d
    else if p.2.contexts &&& b ≠ 0 then d.modHome p.1 (fun h => { h with contexts := h.contexts &&& ~~~b })
    else d) d

/-- A home handle names a live descriptor of its generation (R278). -/
def handleOk (d : Dev) (h : Nat) : Option Nat :=
  let i := field h 15 0
  if (d.home i).valid ∧ (d.home i).gen.toNat = field h 47 16 ∧ field h 63 48 = 0 then some i else none

/-- An object meets the CXL.mem window (R283, R352). -/
def meetsWindow (d : Dev) (h : Home) : Bool :=
  decide (d.host.winSize ≠ 0) && meets h.name h.size d.host.winName.toNat d.host.winSize

/-! ### Moves -/

/-- Copy `n` bytes between package addresses, with the failing blocks among them (R282: block CRCs move). -/
def copyRange (src dst n : Nat) (d : Dev) : Dev :=
  let from_ := memKey d src
  let into := memKey d dst
  let kept := d.mem.filter (fun (p : Nat × Byte) => !(decide (into ≤ p.1) && decide (p.1 < into + n)))
  let moved := d.mem.filter (fun (p : Nat × Byte) => decide (from_ ≤ p.1) && decide (p.1 < from_ + n))
  let bad := d.badBlocks.filter (fun a => decide (src ≤ a) && decide (a < src + n))
  { d with
    mem := moved.foldl (fun m p => Tab.set 0 m (p.1 - from_ + into) p.2) kept
    badBlocks := d.badBlocks.filter (fun a => !(decide (dst ≤ a) && decide (a < dst + n))) ++ bad.map (fun a => a - src + dst) }

/-- Start a move of a descriptor to a new place (R282). -/
def startMove (i toPlace toTier toDie : Nat) (evac posted : Bool) (d : Dev) : Dev :=
  { (d.modHome i (fun h => { h with moving := true, moved := 0, toPlace := toPlace, toTier := toTier, toDie := toDie })) with
      moves := d.moves ++ [{ index := i, evac := evac, posted := posted }] }

/-- The home meets the band of a loss that is being evacuated (R257). -/
def inBand (l : Loss) (h : Home) : Bool :=
  let die := l.stack / 3
  meets h.place h.size (dieBase die + (384 - l.band) * chanBytes) chanBytes

/-- The next home that Evacuate moves (R257, R284): it stays on its die. -/
def nextEvac (d : Dev) : Option (Nat × Nat × Nat) :=
  (d.losses.filter (fun l => l.phase == 0)).findSome? (fun l =>
    (liveHomes d).findSome? (fun p =>
      if p.2.tier = 1 ∧ !p.2.moving ∧ inBand l p.2 then
        (freePlace d (some (l.stack / 3)) p.2.size).map (fun a => (p.1, a, l.stack / 3))
      else none))

/-- Queue the evacuation of every home that a free place can take, one after the other; `fuel` bounds their number. -/
def evacuate : Nat → Dev → Dev
  | 0, d => d
  | n + 1, d =>
    match nextEvac d with
    | some (i, a, die) => evacuate n (startMove i a 1 die true false d)
    | none => d

/-- Close a finished move in one update of the descriptor (R282), and answer the packet that posted it. -/
def endMove (m : Move) (d : Dev) : Dev :=
  let d := { d.modHome m.index (fun h => { h with
    place := h.toPlace, tier := h.toTier, die := h.toDie, gen := h.gen + 1, moving := false, moved := 0, toPlace := 0
    toTier := 0, toDie := 0 }) with moves := d.moves.drop 1 }
  if m.posted then finish mgmtTill .ok none (some (d.home m.index).gen.toNat) d else d

/-- The mover holds accesses to the unit it copies (R282): on a porter with a transfer under way the cycles held are open, at most
`most` fabric cycles (2 us between stacks, 4 us to or from the host tier). -/
def holdAccesses (most : Nat) (d : Dev) : Dev :=
  let busy := ((d.cores : List (Nat × Core)).filter (fun p => p.2.entries.any (fun (q : Nat × Entry) => q.2.state == 1 || q.2.state == 2))).map Prod.fst
  busy.foldl (fun d core =>
    let (g, d) := useFree 13 d
    d.modCore core (fun c => { c with heldCycles := c.heldCycles + g % (most + 1) })) d

/-- MOVE_UNIT (R282): the next 64 KiB unit of the move in progress is copied; after the last the descriptor is updated.
With none in progress, Evacuate starts its next one (R284). -/
def moveUnit (d : Dev) : Dev :=
  let d := if d.moves.isEmpty then evacuate 1 d else d
  match d.moves with
  | [] => d
  | m :: _ =>
    let h := d.home m.index
    let d := copyRange (h.place + unit64 * h.moved) (h.toPlace + unit64 * h.moved) unit64 d
    let d := holdAccesses (if h.tier = 2 ∨ h.toTier = 2 then 6600 else 3300) d
    let d := d.modHome m.index (fun h => { h with moved := h.moved + 1 })
    if h.size ≤ unit64 * (h.moved + 1) then endMove m d else d

def execMoveUnit (s : State) : Res := s.upd moveUnit

/-- A spread quarter: an object of hint 0 that is not compiler-placed (R281). -/
def Home.spread (h : Home) : Bool := !h.compiler && h.hint == 0

/-- Begin a posted move (R283): refused with BUSY where the object moves or its target has no place. -/
def postMove (i : Nat) (die : Option Nat) (d : Dev) : Dev :=
  let h := d.home i
  if h.moving then finish mgmtTill .busy none none d
  else match freePlace d die h.size with
    | none => finish mgmtTill .busy none none d
    | some a => startMove i a (if die.isSome then 1 else 2) (die.getD 0) false true d

/-- MOVE_OBJECT (R283). -/
def moveObject (handle tier die : Nat) (d : Dev) : Dev :=
  if !executing d mgmtTill 0x0010 then d
  else match handleOk d handle with
    | none => finish mgmtTill .badParam none none d
    | some i =>
      let h := d.home i
      let target : Option Nat :=
        if tier = 2 then (if die = 0xFF ∨ die < 4 then some 4 else none)
        else if tier ≠ 1 then none
        else if die < 4 then some die
        else if die = 0xFF then (if h.spread then some h.die else if 1 ≤ h.hint ∧ h.hint ≤ 4 then some (h.hint - 1) else none)
        else none
      match target with
      | none => finish mgmtTill .badParam none none d
      | some x =>
        if h.tier = 0 ∨ h.compiler ∨ (h.spread ∧ x ≠ h.die) ∨ (x = 4 ∧ meetsWindow d h) then finish mgmtTill .badParam none none d
        else postMove i (if x = 4 then none else some x) d

def execMoveObject (handle : BitVec 64) (tier die : BitVec 8) (s : State) : Res :=
  s.upd (moveObject handle.toNat tier.toNat die.toNat)

/-- The homes of object `number` of a context. -/
def objectHomes (d : Dev) (t number : Nat) : List (Nat × Home) :=
  (liveHomes d).filter (fun p => p.2.contexts.getLsbD t && p.2.number == number)

/-- HINT_PLACEMENT (R281, R283): the hint is held for the context; with APPLY the object is moved as MOVE_OBJECT would. -/
def hintPlacement (context hint number apply : Nat) (d : Dev) : Dev :=
  if !executing d mgmtTill 0x0011 then d
  else if h : context < 16 then
    let hs := objectHomes d context number
    if hint = 5 ∧ !agreedBit d 2 then finish mgmtTill .notNegotiated none none d
    else if 6 ≤ hint ∨ 1024 ≤ number ∨ 2 ≤ apply ∨ hs.any (fun p => p.2.compiler) ∨
        hs.any (fun p => p.2.spread != (hint == 0)) ∨
        (apply = 1 ∧ hint = 5 ∧ hs.any (fun p => meetsWindow d p.2)) then finish mgmtTill .badParam none none d
    else
      let held := fun (d : Dev) =>
        hs.foldl (fun d p => d.modHome p.1 (fun h => { h with hint := hint }))
          (d.modCtx ⟨context, h⟩ (fun c => { c with hints := Tab.set none c.hints number (some hint) }))
      match hs with
      | (i, _) :: _ =>
        if apply = 0 ∨ hint = 0 then finish mgmtTill .ok none none (held d)
        else
          let die := if hint = 5 then none else some (hint - 1)
          if (d.home i).moving ∨ (freePlace d die (d.home i).size).isNone then finish mgmtTill .busy none none d
          else postMove i die (held d)
      | [] => finish mgmtTill .ok none none (held d)
  else finish mgmtTill .badParam none none d

def execHintPlacement (context hint : BitVec 8) (number : BitVec 16) (apply : BitVec 8) (s : State) : Res :=
  s.upd (hintPlacement context.toNat hint.toNat number.toNat apply.toNat)

/-! ### Registers of R291 -/

/-- HOME_STATUS (R291). -/
def homeStatus (d : Dev) : Nat :=
  (liveHomes d).length % 2 ^ 17 + match d.moves with
    | m :: _ => put 17 1 1 + put 18 16 m.index + put 34 1 (b2n m.evac)
    | [] => 0

end Sys2Proof.Machine
end

