-- ==== Sys2Proof/Machine/Chans.lean ====
section
/-! DEFINITION. Where a stack address lies (11_rinmuca_memory.md R247, R248, R258) and what state its channels and groups are
in (R257 to R262). -/

namespace Sys2Proof.Machine

/-! ### Channels and groups -/

/-- A channel as manufactured (R247): group, and the parity role of the last one. -/
def factoryChan (x : Nat) : Chan := { group := x / 17, role := b2n (x % 17 == 16) }

def Stack.chan (z : Stack) (x : Nat) : Chan := (Tab.get none z.chans x).getD (factoryChan x)
def Dev.stk (d : Dev) (s : Nat) : Stack := Tab.get {} d.stks s
def Dev.modStk (d : Dev) (s : Nat) (f : Stack → Stack) : Dev := { d with stks := Tab.mod {} d.stks s f }
def Dev.chan (d : Dev) (s x : Nat) : Chan := (d.stk s).chan x
def Dev.modChan (d : Dev) (s x : Nat) (f : Chan → Chan) : Dev :=
  d.modStk s (fun z =>
    let c := f (z.chan x)
    { z with chans := Tab.set none z.chans x (if c = factoryChan x then none else some c) })

/-- The loss whose failed channel is `x`: a data channel itself, or the parity channel whose group gave up a pair (R257,
R260). -/
def lossOf (d : Dev) (s x : Nat) : Option Loss :=
  d.losses.find? (fun l => l.stack == s && ((l.parity.isNone && l.chan == x) || l.parity == some x))

/-- Channel `x` has left its groups: its loss is complete (R259). -/
def isOut (d : Dev) (s x : Nat) : Bool := match lossOf d s x with | some l => l.phase == 3 | none => false

/-- Members of a group that serve no access, or only in part (R262). -/
def troubled (d : Dev) (s g : Nat) : List Nat :=
  which 136 (fun x => (d.chan s x).group == g && (d.chan s x).state != 0 && !isOut d s x)

/-- A group has no redundancy now (R257, R262). -/
def exposed (d : Dev) (s g : Nat) : Bool := !(troubled d s g).isEmpty

/-- The pair partner of a data channel (R247). -/
def partnerOf (x : Nat) : Option Nat :=
  let m := x % 17
  if m = 16 then none else some (if m % 2 = 0 then x + 1 else x - 1)

/-! ### Blocks -/

/-- An address of the stack region (R27). -/
def isStack (a : Nat) : Bool := decide (stackBase ≤ a) && decide (a < 0x11000000000)
def dieOfAddr (a : Nat) : Nat := (a - stackBase) / 0x4000000000

/-- The block number of R248 on its die. -/
def blockNo (a : Nat) : Nat := (a - dieBase (dieOfAddr a)) / 4096

/-- The stack and physical channel of position `i` of a die (R247, R248). -/
def posChan (die i : Nat) : Nat × Nat := (3 * die + i / 128, 17 * (i % 128 / 16) + i % 16)

/-- The position of a data channel on its die. -/
def chanPos (s x : Nat) : Option Nat := if x % 17 = 16 then none else some (128 * (s % 3) + 16 * (x / 17) + x % 17)

/-- Where a block is held: its own place, or its slot in the relocation map (R258). -/
def heldAt (d : Dev) (die b : Nat) : Nat := match Tab.get 0 d.reloc (2 ^ 26 * die + b) with | 0 => b | v => v - 1

/-- The stack and physical channel that hold the block of an address. -/
def chanOfAddr (d : Dev) (a : Nat) : Nat × Nat := posChan (dieOfAddr a) (heldAt d (dieOfAddr a) (blockNo a) % 384)

/-- A block on a channel can be rebuilt: no other member of the channel's group is in trouble (R251, R261). -/
def rebuildable (d : Dev) (s x : Nat) : Bool := (troubled d s (d.chan s x).group).all (· == x)

/-- A read of the block of an address, or a write of a part of it, fails under step 2 of R251: it has failed before, or its channel
serves no access and cannot be rebuilt (R251, R261, R262). -/
def blockBad (d : Dev) (a : Nat) : Bool :=
  d.badBlocks.contains (a / 4096 * 4096) ||
    (!d.stks.isEmpty && isStack a && (let (s, x) := chanOfAddr d a; (d.chan s x).state != 0 && !rebuildable d s x))

/-- The blocks of 4 KiB that a set of package addresses covers whole. -/
def wholeBlocks (as_ : List Nat) : List Nat :=
  ((as_.map (fun a => a / 4096 * 4096)).dedup).filter (fun b => (List.range 4096).all (fun i => as_.contains (b + i)))

end Sys2Proof.Machine
end

