-- ==== Sys2Proof/Machine/Intent.lean ====
section
/-! DEFINITION. The write-intent tables of the stack controllers (11_rinmuca_memory.md R252, R253, R255): the partial writes that
porter transfers have under way, and what a reset that keeps stack contents leaves of them. -/

namespace Sys2Proof.Machine

/-- The table key and line of the stripe line that holds a block, by the place the block is held at (R248, R258). -/
def lineOfBlock (d : Dev) (blk : Nat) : Nat × Nat :=
  let die := dieOfAddr blk
  let h := heldAt d die (blockNo blk)
  (8 * (3 * die + h % 384 / 128) + h % 128 / 16, h / 384)

/-- A group is whole: 16 + 1 members, no widow and no member drained (R253). -/
def groupWhole (d : Dev) (s g : Nat) : Bool :=
  let l := which 136 (fun x => (d.chan s x).group == g && !isOut d s x)
  l.length == 17 && l.all (fun x => (d.chan s x).state == 0 && (d.chan s x).role != 2)

/-- One transfer that writes exactly the 64 KiB of one stripe whose group is whole is a full-stripe write (R253). -/
def fullStripe (d : Dev) (as_ : List Nat) : Bool :=
  if as_.length < 65536 then false
  else match wholeBlocks as_ with
  | [] => false
  | b :: bs =>
    let key := (lineOfBlock d b).1
    bs.length == 15 && (b :: bs).all (fun x => x / unit64 == b / unit64 && (lineOfBlock d x) == (lineOfBlock d b)) &&
      as_.all (fun a => a / unit64 == b / unit64) && groupWhole d (key / 8) (key % 8)

/-- Before its first write a partial update of blocks enters its stripe lines in the tables of their groups (R255). -/
def enterBlocks (core e : Nat) (bs : List Nat) (d : Dev) : Dev :=
  ((bs.map (lineOfBlock d)).dedup).foldl (fun d' p =>
    { d' with intent := Tab.mod [] d'.intent p.1 (· ++ [{
        core := core, entry := e, line := p.2, blocks := bs.filter (fun b => lineOfBlock d b == p) }]) }) d

/-- A transfer that writes these package addresses enters its partial writes (R253, R255). -/
def enterIntent (core e : Nat) (as_ : List Nat) (d : Dev) : Dev :=
  let stack := as_.filter (fun a => isStack a && populated d a)
  if stack = [] ∨ fullStripe d stack then d else enterBlocks core e ((stack.map (fun a => a / 4096 * 4096)).dedup) d

/-- A barrow's spill of a unit to `a` is a full-stripe write where the stripe's group is whole (R253, R255). -/
def enterSpill (core e a : Nat) (d : Dev) : Dev :=
  let key := (lineOfBlock d a).1
  if !isStack a || groupWhole d (key / 8) (key % 8) then d else enterBlocks core e ((List.range 16).map (fun i => a + 4096 * i)) d

/-- A partial write of the transfer found its table full and waits for one of its 64 entries (R255). -/
def waitsIntent (d : Dev) (core e : Nat) : Bool :=
  d.intent.any (fun (p : Nat × List Intent) => (p.2.drop 64).any (fun i => i.core == core && i.entry == e))

/-- A transfer's entries are cleared (R255): its parity is written, or it writes nothing more. -/
def clearIntent (core e : Nat) (d : Dev) : Dev :=
  if d.intent = [] then d
  else { d with intent := Tab.mapAll [] d.intent (fun (l : List Intent) => l.filter (fun i => !(i.core == core && i.entry == e))) }

/-- A reset cuts the writes of a stack's listed lines short (R255): any block being written may hold undefined bytes, and fails
from then on until it is written whole (R251); which ones is open (DESIGN CHOICE, log entry 79). The listed lines' parity is
recomputed from their data before the stack serves again. -/
def cutWrites (s : Nat) (d : Dev) : Dev :=
  (List.range 8).foldl (fun d g =>
    let bs := (((Tab.get [] d.intent (8 * s + g)).take 64).flatMap (·.blocks)).dedup
    bs.foldl (fun d b =>
      let (cut, d) := useFree 1 d
      if cut = 1 ∧ !d.badBlocks.contains b then { d with badBlocks := d.badBlocks ++ [b] } else d) d) d

/-- Entries of transfers that hold no porter entry any more are cleared (R255, R287). -/
def pruneIntent (d : Dev) : Dev :=
  if d.intent = [] then d
  else { d with intent := Tab.mapAll [] d.intent (fun (l : List Intent) =>
    l.filter (fun i => (Tab.get ({} : Entry) (Tab.get ({} : Core) d.cores i.core).entries i.entry).state != 0)) }

/-- A stack's listed lines are repaired: their entries are cleared (R255, R469). -/
def repairLines (s : Nat) (d : Dev) : Dev :=
  if d.intent = [] then d else { d with intent := d.intent.filter (fun (p : Nat × List Intent) => decide (p.1 / 8 ≠ s)) }

end Sys2Proof.Machine
end

