-- ==== Sys2Proof/Machine/Spill.lean ====
section
/-! DEFINITION. The barrow's own moves between window and spill region (07_backward_pass.md R155, R163, R165): which units are
asked for, and the porter entries they take. -/

namespace Sys2Proof.Machine

def Dev.bar (d : Dev) (t : CtxId) (k : Nat) : Barrow := ((d.ctx t).slot k).bar
def Dev.modBar (d : Dev) (t : CtxId) (k : Nat) (f : Barrow → Barrow) : Dev :=
  d.modCtxSlot t k (fun s => { s with bar := f s.bar })

/-- The unit that a window position holds. -/
def Barrow.at_ (b : Barrow) (u : Nat) : Option WinPos := Tab.get none b.win (u % b.winUnits)

/-- The unit is held in the window. -/
def Barrow.holds (b : Barrow) (u : Nat) : Bool := match b.at_ u with | some w => w.unit == u | none => false

/-- Units in DIRTY, ascending. -/
def Barrow.dirty (b : Barrow) : List Nat :=
  let l := b.win.filterMap (fun (p : Nat × Option WinPos) => match p.2 with | some w => if w.dirty then some w.unit else none | none => none)
  l.mergeSort (fun x y => decide (x ≤ y))

/-- The lowest free entry of a porter (the choice is the model's). -/
def Core.freeEntry (c : Core) : Option Nat := (List.range 512).find? (fun e => (Tab.get {} c.entries e).state == 0)

/-- Units of a barrow that are being moved: at most 8 transfer entries of a slot (R163). -/
def Barrow.moving (b : Barrow) : Nat := b.spilling.length + b.refilling.length

/-- Start the move of a unit, a spill (`own` 1) or a refill (2): it takes an entry of the porter of the slot's lowest-positioned
serving core (R163, R271). Without a free entry, or with 8 under way, it does not start. -/
def unitMove (own : Nat) (t : CtxId) (k u : Nat) (d : Dev) : Dev :=
  match coreOfSlot d k with
  | none => d
  | some core =>
    match (d.core core).freeEntry with
    | none => d
    | some e =>
      if 8 ≤ (d.bar t k).moving then d
      else
        let d := if own = 1 then enterSpill core e (physical d ((d.bar t k).spillBase + u * unit64)) d else d
        (d.modCore core (fun c => { c with entries := Tab.mod {} c.entries e (fun x => { x with
          state := 2, ctx := t.val, op := 0, slot := k, step := u, packets := 0, tokenSent := false, own := own }) })).modBar t k (fun b =>
            if own = 1 then { b with spilling := b.spilling ++ [u] } else { b with refilling := b.refilling ++ [u] })

/-- A barrow starts moves only while its task runs (R165). -/
def movesUnits (d : Dev) (t : CtxId) : Bool := d.seq.running == some t && (d.ctx t).phase == .running && d.seq.preempt == .none

/-- Start spills while more than SPILL_MARK positions are DIRTY, lowest unit first (R163). -/
def spillKick (t : CtxId) (k : Nat) (d : Dev) : Dev :=
  if !movesUnits d t then d
  else
    let b := d.bar t k
    let cand := b.dirty.filter (fun u => !b.spilling.contains u)
    (cand.take (b.dirty.length - b.spillMark - b.spilling.length)).foldl (fun d u => unitMove 1 t k u d) d

/-- Ask for the spill of one unit (R163). -/
def spillUnit (t : CtxId) (k u : Nat) (d : Dev) : Dev :=
  if (d.bar t k).spilling.contains u ∨ !movesUnits d t then d else unitMove 1 t k u d

/-- Fetch every unit that meets the refill range and is not held, highest first; a DIRTY unit in its position is spilled first
(R163). -/
def refillKick (t : CtxId) (k : Nat) (d : Dev) : Dev :=
  if !movesUnits d t then d
  else
    let b := d.bar t k
    let lo := (b.top - b.refillMark * unit64) / unit64
    let hi := ceilDiv b.top unit64
    let want := ((List.range (hi - lo)).map (fun i => hi - 1 - i)).filter (fun u =>
      !b.holds u && !b.refilling.contains u && decide (b.refillMark ≠ 0))
    want.foldl (fun d u => match b.at_ u with
      | some w => if w.dirty then spillUnit t k w.unit d else unitMove 2 t k u d
      | none => unitMove 2 t k u d) d

/-- The moves that a slot's barrow still wants start as far as its porter has entries. -/
def kickSlot (t : CtxId) (k : Nat) (d : Dev) : Dev :=
  if (d.bar t k).winUnits = 0 then d else refillKick t k (spillKick t k d)

/-- The same for every barrow of a task, as it resumes (R165). -/
def kickAll (t : CtxId) (d : Dev) : Dev := ((d.ctx t).slots.map Prod.fst).foldl (fun d k => kickSlot t k d) d

/-- The same for the barrows of the running task whose moves go through a core's porter, as one of its entries is freed. -/
def kickCore (core : Nat) (d : Dev) : Dev :=
  match d.seq.running with
  | none => d
  | some t => (((d.ctx t).slots.map Prod.fst).filter (fun k => coreOfSlot d k == some core)).foldl (fun d k => kickSlot t k d) d

/-- The porter entry that moves a unit, where its core still holds it. -/
def moveEntry (d : Dev) (own : Nat) (t : CtxId) (k u : Nat) : Option (Nat × Nat) :=
  d.cores.findSome? (fun (p : Nat × Core) => (p.2.entries.find? (fun (q : Nat × Entry) =>
    q.2.own == own && q.2.state == 2 && q.2.ctx == t.val && q.2.slot == k && q.2.step == u)).map (fun q => (p.1, q.1)))

end Sys2Proof.Machine
end

