-- ==== Sys2Proof/Machine/Scales.lean ====
section
/-! DEFINITION. The scales unit (04_formats_accumulation.md, R101 to R103): what each value that an engine writes adds to
the counts of its tag. -/

namespace Sys2Proof.Machine

/-- The candidate formats by index (R102). -/
def candidates : List Fmt := [.e5m2, .e4m3, .e3m2, .e2m3, .e2m1, .bf16]

/-- Magnitude bits of a finite value in a format, before the overflow rule. -/
def magIn (f : Fmt) (shift : Int) : Num → Nat
  | .fin _ m e => f.roundMag m (e - shift)
  | _ => 0

/-- Overflow and flush of a finite value under one candidate, with the scale byte of its block (R102). A block of scale
0xFF rounds no element. -/
def candidateHits (f : Fmt) (scale : Nat) (x : Num) : Bool × Bool :=
  if f = .bf16 then (decide (f.maxBits < magIn f 0 x), !x.isZero && magIn f 0 x == 0)
  else if scale = 0xFF then (false, false)
  else
    let g := magIn f ((scale : Int) - 127) x
    (decide (f.maxBits < g), !x.isZero && g == 0)

/-- Add the hits of one value under the candidates to its tag's counts. -/
def ScaleRec.addHits (hits : List (Bool × Bool)) (r : ScaleRec) : ScaleRec :=
  { r with ovf := List.zipWith (fun n h => n + b2n h.1) r.ovf hits
           flush := List.zipWith (fun n h => n + b2n h.2) r.flush hits }

/-- What one value adds to the counts without regard to its block (R102, R104). -/
def countValue (fmt : Nat) (x : Num) (r : ScaleRec) : ScaleRec :=
  let r := { r with values := r.values + 1, fmt := fmt }
  match x with
  | .nan => { r with nanCount := satAdd 32 r.nanCount 1 }
  | .inf _ => { r with infCount := satAdd 32 r.infCount 1 }
  | .fin _ _ _ =>
    let mag := fp32Bits x.abs
    { r with
      amax := max r.amax mag
      aminNz := if mag = 0 then r.aminNz else if r.aminNz = 0 then mag else min r.aminNz mag
      zeroCount := if mag = 0 then satAdd 32 r.zeroCount 1 else r.zeroCount }

/-- The hits of a value under the six candidates, given its block of 32 (R102); open bits stand for those of the blocked
candidates where the block is not known whole. -/
def candidateRow (sat : Bool) (lanes : Option (List Num)) (g : Nat) (x : Num) : List (Bool × Bool) :=
  candidates.mapIdx (fun i f =>
    if i = 5 then candidateHits f 0 x
    else match lanes with
      | some l => candidateHits f (blockScale f sat l) x
      | none => (bit g (2 * i), bit g (2 * i + 1)))

/-- A value that its conversion to the stored format saturates (R104 FLAGS bit 2). A block of scale 0xFF stores zero bits and
saturates nothing; an infinity that has another scale byte stands for FP32 max and is clamped (R93). -/
def clippedIn (v : View) (sat : Bool) (scale : Nat) (x : Num) : Bool :=
  match x with
  | .nan => false
  | .inf _ => if v.blocked then scale != 0xFF else sat || v.fmt.isInt
  | .fin s m e =>
    if v.blocked then
      scale ≠ 0xFF && (if v.fmt.isInt then decide ((v.fmt.maxBits : Int) < (roundInt s m (e - ((scale : Int) - 127) + v.fmt.intShift)).natAbs)
        else decide (v.fmt.maxBits < v.fmt.roundMag m (e - ((scale : Int) - 127))))
    else if v.fmt.isInt then
      decide ((v.fmt.maxBits : Int) < roundInt s m e) || decide (roundInt s m e < -(v.fmt.maxBits : Int) - 1)
    else sat && decide (v.fmt.maxBits < v.fmt.roundMag m e)

/-- Change the counts of a tag in the interval that the checkpoint bell `bell` opened (R103). -/
def addCounts (bell tag : Nat) (f : ScaleRec → ScaleRec) (s : CtxSlot) : CtxSlot :=
  let cur := match s.intervals.find? (fun p => p.1 == bell) with | some p => p.2 | none => []
  { s with intervals := s.intervals.filter (fun p => p.1 ≠ bell) ++ [(bell, Tab.mod {} cur tag f)] }

/-- Change the counts of a tag in the slot's present interval. -/
def countOn (env : Env) (tag : Nat) (f : ScaleRec → ScaleRec) (d : Dev) : Dev :=
  { d with ctxs := Tab.mod {} d.ctxs env.t.val (fun c => { c with
      slots := Tab.mod {} c.slots env.k (addCounts (interval d env.t) tag f) }) }

/-- The lanes of a value's block of 32 that earlier tile steps have written. -/
def Ex.heldCounts (x : Ex) (v : View) (no : Int) : List (Int × Num) :=
  match x.counts.find? (fun h => h.base == v.base && h.no == no) with
  | some h => h.lanes
  | none => []

/-- The hits of a block of 32 whose lanes are all known (R102), and the values of it that their stored blocks saturate. -/
def countBlock (env : Env) (v : View) (sat : Bool) (tag : Nat) (lanes : List (Int × Num)) (d : Dev) : Dev :=
  let vals := lanes.map (·.2)
  lanes.foldl (fun d l =>
    let own := (lanes.filter (fun q => (q.1 + v.shift) / (v.blk : Int) == (l.1 + v.shift) / (v.blk : Int))).map (·.2)
    let clip := clippedIn v sat (if v.blocked then blockScale v.fmt sat own else 0) l.2
    countOn env tag (fun r =>
      let r := { r with saturated := r.saturated || clip }
      match l.2 with
      | .fin _ _ _ => r.addHits (candidateRow sat (some vals) 0 l.2)
      | _ => r) d) d

/-- Count the values of a tile step's output under a tag (R101): tag 0 records nothing. The hits of a block of 32 are counted with
its last lane. -/
def countOuts (env : Env) (v : View) (sat : Bool) (tag : Nat) (outs : List (List Nat × Num)) (x : Ex) : Ex :=
  if tag = 0 then x
  else
    let v32 := { v with blk := 32 }
    let code := v.fmt.code + put 4 1 (b2n (v.blocked && v.blk == 16)) + put 5 1 (b2n v.blocked)
    let at_ := outs.map (fun o => (offsetOf env.runs v.sel o.1, o.1, o.2))
    let x := { x with d := at_.foldl (fun d o => countOn env tag (countValue code o.2.2) d) x.d }
    (at_.map (fun o => (o.1 + v.shift) / 32)).dedup.foldl (fun (x : Ex) no =>
      let mine := at_.filter (fun o => (o.1 + v.shift) / 32 == no)
      let lanes := x.heldCounts v no ++ mine.map (fun o => (o.1, o.2.2))
      let rest := x.counts.filter (fun h => !(h.base == v.base && h.no == no))
      let sh : Nat × Nat := match mine with | o :: _ => blockShare env v32 o.2.1 | [] => (0, 1)
      if lanes.length = sh.1 ∧ sh.1 = sh.2 then { x with d := countBlock env v sat tag lanes x.d, counts := rest }
      else { x with counts := { base := v.base, no := no, tag := tag, sat := sat, lanes := lanes } :: rest }) x

/-- Values whose block of 32 the operation has not written whole, or shares with another core: their hits under the blocked
candidates, and whether their conversion saturated them, are open (log entry 35). -/
def flushCounts (env : Env) (x : Ex) : Ex :=
  let d := x.counts.foldl (fun d h => h.lanes.foldl (fun d l =>
    let (g, d) := useFree 11 d
    countOn env h.tag (fun r =>
      let r := { r with saturated := r.saturated || bit g 10 }
      match l.2 with
      | .fin _ _ _ => r.addHits (candidateRow h.sat none g l.2)
      | _ => r) d) d) x.d
  { x with d := d, counts := [] }

/-- Of a tile step's outputs, those that its write stored: the first `done` elements in ascending offset (R117). -/
def written (env : Env) (v : View) (outs : List (List Nat × Num)) (x : Ex) : List (List Nat × Num) :=
  let offs := ((sortedElems env v (outs.map (·.1))).take x.done).map (·.1)
  outs.filter (fun o => offs.contains (offsetOf env.runs v.sel o.1))

end Sys2Proof.Machine
end

