-- ==== Sys2Proof/Machine/Matrix.lean ====
section
/-! DEFINITION. The matrix engine on one slot (03_matrix_engine.md; 04 R96 to R98; 05; 07 R166 to R169): MMA, SLOAD,
ACCWRITE and ACCZERO, with what convolution and attention share with them. -/

namespace Sys2Proof.Machine

/-! ### An operation on a slot -/

def Issue.scalar (i : Issue) (n : Nat) : Nat := if n = 0 then 0 else (Tab.get 0 i.scal n).toNat
def Issue.base (i : Issue) (r : Nat) : Nat := (Tab.get 0 i.bases (64 * i.k + r)).toNat

/-- What a slot takes with it when context `t` issues now: its rank among the set bits of the mask (R119). -/
def issueOf (d : Dev) (t : CtxId) (mask k : Nat) : Issue :=
  let c := d.ctx t
  let all := maskSlots c mask
  { t := t, k := k, rank := (all.filter (· < k)).length, n := all.length, pc := c.issuePc, scal := c.scal, bases := c.bases }

/-- The level of a role (R111). -/
def roleLevel (x : Desc) (r : Nat) : Nat := (x.levels.findIdx? (fun l => l.role == r)).getD 0

/-- The pointer-list level, if there is one (R118). -/
def plistLevel (x : Desc) : Option Nat := x.levels.findIdx? (fun l => l.plist)

/-- A descriptor with a slot's share of it. -/
structure Shape2 where
  env : Env
  i : Issue
  x : Desc

/-- The descriptor `n` of the issuing task, with the slot's runs. -/
def shapeOf (d : Dev) (i : Issue) (n : Nat) : Shape2 :=
  let p := (d.ctx i.t).theProg
  let x := p.descs.getD n {}
  { env := { t := i.t, k := i.k, prog := p, runs := x.runs i.scalar i.rank i.n, n := i.n }, i := i, x := x }

/-- The physical core that works unit `u` of an operation on a slot (R17, R18, R120). -/
def unitCore (d : Dev) (i : Issue) (u : Nat) : Option Nat := dealtCore (servingCores d i.k) (i.deal + u)

/-- Stop at a check that is no element access. -/
def Ex.halt (s : Stop) (x : Ex) : Ex := if x.live then { x with stop := some s } else x

/-- A view with no element of its own, for an access that is checked by its bytes alone. -/
def plainView (tagNo : Nat) : View :=
  { sel := .a, tagNo := tagNo, base := 0, fmt := .int8, blocked := false, blk := 32, scaleBase := 0 }

/-- A byte of a pointer-list entry lies in a window of the task (R125, check 5). -/
def listReach (p : Prog) (a : Nat) : Bool :=
  match placeOf a with
  | .localStore _ => inLocalWindow p a
  | .shared _ => inSharedWindow p a
  | _ => false

/-- Read entry `e` of a pointer list (R118): its four handles, none where USE = 0. A failing entry stops the operation
with resource code 4; ADDR is the entry's first byte out of reach, or the handle with a nonzero bit in [62:48] (DESIGN CHOICE, log
entry 65). -/
def readEntry (s : Shape2) (base e : Nat) (idx : List Nat) (x : Ex) : List (Option Nat) × Ex :=
  if !x.live then ([], x)
  else
    let a := base + 32 * e
    let prev := (x.last.find? (fun p => p.1 == 6)).map (·.2)
    let lev := faultLevel s.env.runs prev idx
    let as_ := (List.range 32).map (a + ·)
    let words := (List.range 4).map (fun j => rdNat x.d (a + 8 * j) 8)
    if s.x.plistLen ≤ e ∨ 2 ^ 48 ≤ a + 31 then ([], x.halt (.overflow 4 (a % 2 ^ 48) lev))
    else match as_.find? (fun b => !listReach s.env.prog b) with
      | some b => ([], x.halt (.overflow 4 b lev))
      | none =>
        match as_.find? (fun b => x.d.badSram.contains (wordOf b)) with
        | some b => ([], x.halt (.ecc b))
        | none =>
          match (List.range 4).find? (fun j => field (words.getD j 0) 62 48 ≠ 0) with
          | some j => ([], x.halt (.overflow 4 (a + 8 * j) lev))
          | none => (words.map (fun w => if bit w 63 then some (field w 47 0) else none),
              { x with last := (6, idx) :: x.last.filter (fun p => p.1 ≠ 6) })

/-- Move an operand to another base. -/
def View.rebase (v : View) (o : Option (Option Nat)) : View :=
  match o with
  | some (some b) => { v with base := b, scaleBase := b + (v.scaleBase - v.base) }
  | _ => v

/-- The result of an operation on a slot. -/
abbrev SlotRun := Option Nat → Dev → Dev × Option Stop

/-- Run a slot's work on a device under the accesses it may still make. -/
def runEx (env : Env) (fuel : Option Nat) (d : Dev) (f : Ex → Ex) : Dev × Option Stop :=
  let x := flushCounts env (f { d := d, fuel := fuel })
  (x.d, x.stop)

/-! ### Accumulator buffers -/

/-- Clear the bytes of a range to zero. -/
def zeroRange (lo hi : Nat) (d : Dev) : Dev :=
  { d with mem := d.mem.filter (fun p => decide (p.1 < lo) || decide (hi ≤ p.1))
           badSram := d.badSram.filter (fun w => decide (w < lo) || decide (hi ≤ w)) }

/-- Read the FP32 lane at an offset of the slot's buffer (R125 check 4, R440). -/
def accRead (s : Shape2) (off : Int) (idx : List Nat) (x : Ex) : Num × Ex :=
  if !x.live then (.zero, x)
  else if off < 0 ∨ (accSize : Int) < off + 4 then
    (.zero, x.halt (.overflow 3 (wrapInt 48 off) (faultLevel s.env.runs ((x.last.find? (fun p => p.1 == 4)).map (·.2)) idx)))
  else
    let a := accBase s.i.k + off.toNat
    if x.d.badSram.contains (wordOf a) then (.zero, x.halt .accBad)
    else (Fmt.fp32.decode (rdNat x.d a 4), { x with last := (4, idx) :: x.last.filter (fun p => p.1 ≠ 4) })

/-- Write the FP32 lane at an offset (R125 check 4); a whole word clears a failed one (R440). -/
def accWrite (s : Shape2) (off : Int) (idx : List Nat) (v : Num) (x : Ex) : Ex :=
  if !x.live then x
  else if off < 0 ∨ (accSize : Int) < off + 4 then
    x.halt (.overflow 3 (wrapInt 48 off) (faultLevel s.env.runs ((x.last.find? (fun p => p.1 == 4)).map (·.2)) idx))
  else
    let a := accBase s.i.k + off.toNat
    { x with d := { wrBytes a (leBytes 4 (fp32Bits v)) x.d with badSram := x.d.badSram.filter (· ≠ a) }
             last := (4, idx) :: x.last.filter (fun p => p.1 ≠ 4) }

/-- An operand value in FP32 (R90, R97, R129): exact, but for a blocked value beyond FP32's range, which is converted under R95. -/
def Num.toFp32 (sat : Bool) : Num → Num
  | .fin s m e => Fmt.fp32.decode (Fmt.fp32.encode sat (.fin s m e))
  | x => x

def openUnits (d : Dev) (i : Issue) : List Nat := ((d.ctx i.t).slot i.k).openUnits
def setUnits (i : Issue) (f : List Nat → List Nat) (d : Dev) : Dev :=
  d.modCtxSlot i.t i.k (fun c => { c with openUnits := f c.openUnits })

/-- The 1 KiB units that a region meets. -/
def unitsOf (start bytes : Nat) : List Nat := (List.range (ceilDiv (start + bytes) 1024 - start / 1024)).map (start / 1024 + ·)

/-- Open the units of a region, ascending and once each (R97). -/
def openRegion (us : List Nat) (l : List Nat) : List Nat := which 2048 (fun u => l.contains u || us.contains u)
def closeRegion (us : List Nat) (l : List Nat) : List Nat := l.filter (fun u => !us.contains u)

/-- Check 4 of R125 for a region: the address reported is the first byte past the buffer. -/
def regionCheck (s : Shape2) (start bytes : Nat) (idx : List Nat) (x : Ex) : Ex :=
  if start + bytes ≤ accSize then x
  else x.halt (.overflow 3 (max start accSize) (faultLevel s.env.runs ((x.last.find? (fun p => p.1 == 4)).map (·.2)) idx))

/-! ### MMA -/

/-- A matrix operation on a slot: its roles and its operands before any pointer list. -/
structure MxRun where
  s : Shape2
  o : MxOp
  lm : Nat
  ln : Nat
  lk : Nat
  va : View
  vb : View
  vc : View
  vp : View

def mxRun (d : Dev) (i : Issue) (o : MxOp) : MxRun :=
  let s := shapeOf d i o.ldesc.toNat
  let c := d.ctx i.t
  let v := fun sel tag (r : BitVec 6) w => viewOf c s.x i.n sel tag (i.base r.toNat) w
  { s := s, o := o, lm := roleLevel s.x 0, ln := roleLevel s.x 1, lk := roleLevel s.x 2
    va := v .a 0 o.baseA s.x.fa, vb := v .b 1 o.baseB s.x.fb, vc := v .c 2 o.baseC s.x.fc
    vp := v (if o.preload = 1 then .bias else .c) 3 o.baseP s.x.fp }

def MxRun.runs (r : MxRun) : List Run := r.s.env.runs
def MxRun.tile (r : MxRun) (l : Nat) : Nat := match r.runs[l]? with | some x => x.lv.tile | none => 0
def MxRun.valid (r : MxRun) (steps : List Nat) (l : Nat) : List Nat :=
  match r.runs[l]? with | some x => x.valid (steps.getD l 0) | none => []
/-- BLOCK of R114. -/
def MxRun.blockBytes (r : MxRun) : Nat := 4 * r.tile r.lm * r.tile r.ln
/-- The region's start for block index `b` (R114). -/
def MxRun.start (r : MxRun) (b : Nat) : Nat := r.o.accOff.toNat * 1024 + b * r.blockBytes

/-- The accumulator offset of a lane, `m` and `n` counted within the tile (R114). -/
def MxRun.lane (r : MxRun) (b m n : Nat) : Int :=
  let st := fun l => match r.runs[l]? with | some x => x.lv.strideAcc | none => 0
  (r.start b : Int) + 4 * ((m : Int) * st r.lm + (n : Int) * st r.ln)

/-- The index vector of element (m, n, k) in a tile step. -/
def MxRun.idx (r : MxRun) (steps : List Nat) (m n k : Nat) : List Nat :=
  (List.range r.runs.length).map (fun l =>
    if l = r.lm then m else if l = r.ln then n else if l = r.lk then k
    else match r.runs[l]? with | some x => steps.getD l 0 * x.lv.tile | none => 0)

/-- The operand widens where the effective formats break R68 (R105): BF16 against a narrower format. -/
def widen (sat : Bool) (me other : Fmt) (x : Num) : Num :=
  if other = .bf16 ∧ me ≠ .bf16 then Fmt.bf16.decode (Fmt.bf16.encode sat x) else x

/-- One K-ascending sum of exact products, rounded to FP32 after each addition (R96). -/
def dot (start : Num) (l : List (Num × Num)) : Num := l.foldl (fun acc p => fp32 (Num.add acc (Num.mul p.1 p.2))) start

/-- Tile steps over every level but K, in visit order. -/
def MxRun.blocks (r : MxRun) : List (List Nat) := visit r.s.x.curve r.runs (fun l => l == r.lk)

/-- The K indices of each pass of a block: one tile step each, or the whole K in OS mode (R70). -/
def MxRun.passes (r : MxRun) : List (List Nat) :=
  match r.runs[r.lk]? with
  | none => []
  | some x =>
    if x.n = 0 then []
    else if r.o.stat = 1 then [List.range x.n]
    else (List.range x.steps).map x.valid

/-- K index tiles of the K level. -/
def MxRun.kTiles (r : MxRun) : List (List Nat) :=
  match r.runs[r.lk]? with
  | some x => (List.range x.steps).map x.valid
  | none => []

/-- The operand positions of a stationary tile, by row and column (R70, R71). -/
def MxRun.tilePos (r : MxRun) (va vb vp : View) (steps : List Nat) (ks : List Nat) : Nat × List Int :=
  let ms := r.valid steps r.lm
  let ns := r.valid steps r.ln
  let at_ := fun (v : View) (m n k : Nat) => v.bitPos (offsetOf r.runs v.sel (r.idx steps m n k))
  match r.o.stat.toNat with
  | 1 => if r.o.preload = 0 then (0, ms.flatMap (fun _ => ns.map (fun _ => -1)))
         else (vp.fmt.code + 16 * b2n vp.blocked, ms.flatMap (fun m => ns.map (fun n => at_ vp m n 0)))
  | 2 => (va.fmt.code + 16 * b2n va.blocked, ms.flatMap (fun m => ks.map (fun k => at_ va m (ns.headD 0) k)))
  | _ => (vb.fmt.code + 16 * b2n vb.blocked, ks.flatMap (fun k => ns.map (fun n => at_ vb (ms.headD 0) n k)))

/-- The slot's bank that is active. -/
def CtxSlot.activeBank (c : CtxSlot) : Bank := if c.active then c.bank1 else c.bank0
def CtxSlot.shadowBank (c : CtxSlot) : Bank := if c.active then c.bank0 else c.bank1
def CtxSlot.setActive (c : CtxSlot) (b : Bank) : CtxSlot := if c.active then { c with bank1 := b } else { c with bank0 := b }
def CtxSlot.setShadow (c : CtxSlot) (b : Bank) : CtxSlot := if c.active then { c with bank0 := b } else { c with bank1 := b }

/-- A swap (R71): the shadow becomes active and is no longer a tile not yet swapped in; the new shadow is not valid. -/
def CtxSlot.swapBanks (bell : Nat) (c : CtxSlot) : CtxSlot :=
  let s := c.shadowBank
  let c := { c with active := !c.active }
  (c.setActive { s with valid := false, since := bell }).setShadow {}

/-- A slot is in time-sliced or lent service: no bank content passes to it (R506). -/
def dealt (d : Dev) (k : Nat) : Bool := match (d.cluster (clusterOfSlot k)).bound.getD (k % 8) 0xF with | 0xE => true | 0xF => true | _ => false

/-- The bank's tile serves the first pass: it is the operation's own, swapped in after the older of the two kept
checkpoint bells (R72). -/
def bankServes (bell : Nat) (b : Bank) (stat code : Nat) (pos : List Int) : Option (List (Int × Num)) :=
  match b.tile with
  | some tl => if tl.stat = stat ∧ tl.code = code ∧ tl.elems.map (·.1) = pos ∧ bell ≤ b.since + 1 then some tl.elems else none
  | none => none

/-- Where the stationary operand of a pass comes from: its own operand, a bank tile, or open values (R72). -/
inductive Stationary where
  | operand
  | tile (elems : List (Int × Num))
  | unknown

/-- Whether row `m` of a tile step is masked (R169). -/
structure MaskTable where
  base : Nat
  grain : Nat

/-- The operation is masked (R166). -/
def MxRun.masked (r : MxRun) : Bool := (plistLevel r.s.x).isNone && r.s.i.base r.o.baseM.toNat != 0

/-- Check bytes of the mask table, an engine read (R166, R125). -/
def maskRead (r : MxRun) (as_ : List Nat) (idx : List Nat) (x : Ex) : Ex :=
  access r.s.env (plainView 5) idx (as_.map (fun (a : Nat) => (a : Int))) [] x

/-- Read and check the header of the mask table (R167, R168). -/
def maskHeader (r : MxRun) (x : Ex) : Option MaskTable × Ex :=
  if !r.masked then (none, x)
  else
    let b := r.s.i.base r.o.baseM.toNat
    let y := maskRead r ((List.range 16).map (b + ·)) [] x
    if !y.live then (none, y)
    else
      let grain := rdNat y.d (b + 4) 1
      let m := match r.s.x.levels[r.lm]? with | some l => l.runBound r.s.i.scalar | none => 0
      let need := if grain = 0 then ceilDiv m 128 else m
      if rdNat y.d b 4 ≠ 0x4B534D44 ∨ 1 < grain ∨ rdNat y.d (b + 8) 4 < need then (none, y.halt .badParam)
      else (some { base := b, grain := grain }, y)

/-- Row of the whole operation (R113, R169). -/
def MxRun.row (r : MxRun) (m : Nat) : Nat := match r.runs[r.lm]? with | some x => m + x.lo | none => m

/-- Read the bits of a tile step's rows: the rows that are computed. -/
def maskRows (r : MxRun) (mt : Option MaskTable) (steps : List Nat) (x : Ex) : List Nat × Ex :=
  let ms := r.valid steps r.lm
  match mt with
  | none => (ms, x)
  | some t =>
    let bitOf := fun m => if t.grain = 0 then r.row m / 128 else r.row m
    let y := maskRead r ((ms.map (fun m => t.base + 16 + bitOf m / 8)).dedup) (r.idx steps 0 0 0) x
    (ms.filter (fun m => bit (rdByte y.d (t.base + 16 + bitOf m / 8)).toNat (bitOf m % 8)), y)

/-- FULL in force (R169, R170). -/
def MxRun.full (r : MxRun) (m : MxModes) : Bool := r.o.full || m.full

/-- Every tile step of a masked MMA is skipped: it is empty (R123, R169). -/
def allSkipped (r : MxRun) (m : MxModes) (x : Ex) : Bool :=
  r.masked && !r.full m &&
    (match maskHeader r x with
     | (some t, y) => y.live && r.blocks.all (fun steps => let (rows, z) := maskRows r (some t) steps y; z.live && rows.isEmpty)
     | _ => false)

/-- Load the closed units of a block's region (R97): the preload, or +0. In OS mode the preload goes to the stationary
tile, unless K is zero (R98). Answers the preload value of each lane. -/
def loadRegion (r : MxRun) (vp : View) (b : Nat) (steps : List Nat) (x : Ex) : List ((Nat × Nat) × Num) × Ex :=
  let st := r.start b
  let us := unitsOf st r.blockBytes
  let x := regionCheck r.s st r.blockBytes (r.idx steps 0 0 0) x
  if !x.live then ([], x)
  else
    let closed := us.filter (fun u => !(openUnits x.d r.s.i).contains u)
    let base := accBase r.s.i.k
    let d := closed.foldl (fun d u => zeroRange (base + max st (u * 1024)) (base + min (st + r.blockBytes) ((u + 1) * 1024)) d) x.d
    let x := { x with d := d }
    if r.o.preload = 0 ∨ closed.length ≠ us.length then ([], x)
    else
      let ms := r.valid steps r.lm
      let ns := r.valid steps r.ln
      let idxs := ms.flatMap (fun m => ns.map (fun n => r.idx steps m n 0))
      let (vals, x) := readTile r.s.env vp idxs x
      let pre := ms.flatMap (fun m => ns.map (fun n =>
        ((m, n), (valueAt vals (offsetOf r.runs vp.sel (r.idx steps m n 0))).toFp32 r.o.sat)))
      if r.o.stat = 1 ∧ r.passes ≠ [] then (pre, x)
      else
        let m0 := steps.getD r.lm 0 * r.tile r.lm
        let n0 := steps.getD r.ln 0 * r.tile r.ln
        ([], pre.foldl (fun x p => accWrite r.s (r.lane b (p.1.1 - m0) (p.1.2 - n0)) (r.idx steps p.1.1 p.1.2 0) p.2 x) x)

/-- One pass (R70, R96): the partial of each computed lane, then region plus partial. R117 orders the accesses of each operand; that
A's stand before B's, and those of a preload before both, is a DESIGN CHOICE (log entry 66). -/
def mmaPass (r : MxRun) (va vb : View) (b : Nat) (steps : List Nat) (rows ks : List Nat) (pre : List ((Nat × Nat) × Num))
    (st : Stationary) (x : Ex) : Ex :=
  let ms := r.valid steps r.lm
  let ns := r.valid steps r.ln
  let stat := r.o.stat.toNat
  let idxA := ms.flatMap (fun m => ks.map (fun k => r.idx steps m (ns.headD 0) k))
  let idxB := ns.flatMap (fun n => ks.map (fun k => r.idx steps (ms.headD 0) n k))
  let skip := fun (s : Nat) => match st with | .operand => false | _ => stat == s
  let (as_, x) := if skip 2 then ([], x) else readTile r.s.env va idxA x
  let (bs, x) := if skip 0 then ([], x) else readTile r.s.env vb idxB x
  if !x.live then x
  else
    let elems := match st with | .tile e => e | _ => []
    let posAt := fun (p : Nat) => (elems.getD p (0, .zero)).2
    let am := fun (m k : Nat) => widen r.o.sat va.fmt vb.fmt (match st, stat with
      | .tile _, 2 => posAt (ms.idxOf m * ks.length + ks.idxOf k)
      | _, _ => valueAt as_ (offsetOf r.runs .a (r.idx steps m (ns.headD 0) k)))
    let bn := fun (k n : Nat) => widen r.o.sat vb.fmt va.fmt (match st, stat with
      | .tile _, 0 => posAt (ks.idxOf k * ns.length + ns.idxOf n)
      | _, _ => valueAt bs (offsetOf r.runs .b (r.idx steps (ms.headD 0) n k)))
    let c0 := fun (m n : Nat) => match st, stat with
      | .tile _, 1 => posAt (ms.idxOf m * ns.length + ns.idxOf n)
      | _, 1 => match pre.find? (fun p => p.1 == (m, n)) with | some p => p.2 | none => .zero
      | _, _ => .zero
    let m0 := steps.getD r.lm 0 * r.tile r.lm
    let n0 := steps.getD r.ln 0 * r.tile r.ln
    rows.foldl (fun x m => ns.foldl (fun x n =>
      let (old, x) := accRead r.s (r.lane b (m - m0) (n - n0)) (r.idx steps m n (ks.headD 0)) x
      match st with
      | .unknown =>
        let (g, d) := useFree 32 x.d
        accWrite r.s (r.lane b (m - m0) (n - n0)) (r.idx steps m n (ks.headD 0)) (Fmt.fp32.decode g) { x with d := d }
      | _ =>
        accWrite r.s (r.lane b (m - m0) (n - n0)) (r.idx steps m n (ks.headD 0)) (fp32 (Num.add old (dot (c0 m n) (ks.map (fun k => (am m k, bn k n)))))) x) x) x

/-- Write the valid elements of a block's region to C and count them (R97, R101, R121). -/
def writeRegion (r : MxRun) (vc : View) (b : Nat) (steps rows : List Nat) (x : Ex) : Ex :=
  let ns := r.valid steps r.ln
  let m0 := steps.getD r.lm 0 * r.tile r.lm
  let n0 := steps.getD r.ln 0 * r.tile r.ln
  let (outs, x) := rows.foldl (fun (acc : List (List Nat × Num) × Ex) m => ns.foldl (fun acc n =>
    let (v, x) := accRead r.s (r.lane b (m - m0) (n - n0)) (r.idx steps m n 0) acc.2
    (acc.1 ++ [(r.idx steps m n 0, v)], x)) acc) ([], x)
  if !x.live then x
  else
    let y := writeTile r.s.env vc r.o.sat (outs.map (fun o => (o.1, some o.2))) x
    countOuts r.s.env vc r.o.sat r.s.x.fc.tag (written r.s.env vc outs y) y

/-- The pointer-list handles of a tile step, none without a list. -/
def stepHandles (s : Shape2) (listBase : Nat) (steps idx : List Nat) (x : Ex) : List (Option Nat) × Ex :=
  match plistLevel s.x with
  | none => ([], x)
  | some l => readEntry s listBase (steps.getD l 0 * (match s.env.runs[l]? with | some q => q.lv.tile | none => 1)) idx x

/-- One output tile block with all of its passes (R70, R97, R169). `first` says where the stationary tile of the first
pass comes from. -/
def mmaBlock (r : MxRun) (b : Nat) (steps rows : List Nat) (first : Stationary) (x : Ex) : Ex :=
  let (hs, x) := stepHandles r.s (r.s.i.base r.o.baseM.toNat) steps (r.idx steps 0 0 0) x
  let va := r.va.rebase hs[0]?
  let vb := r.vb.rebase hs[1]?
  let vc := r.vc.rebase hs[2]?
  let vp := r.vp.rebase hs[3]?
  let (pre, x) := if rows = [] then ([], x) else loadRegion r vp b steps x
  let x := (r.passes.zipIdx).foldl (fun x p =>
    mmaPass r va vb b steps rows p.1 pre (if p.2 = 0 then first else .operand) x) x
  let us := unitsOf (r.start b) r.blockBytes
  if !x.live ∨ rows = [] then x
  else if r.o.accInto then { x with d := setUnits r.s.i (openRegion us) x.d }
  else
    let x := writeRegion r vc b steps rows x
    { x with d := setUnits r.s.i (closeRegion us) x.d }

/-- The tile of the last pass as a bank holds it after the operation; a C tile has been summed into (R72). -/
def lastTile (r : MxRun) (steps : List Nat) (d : Dev) : Option Tile :=
  if r.o.stat = 1 then none
  else
    let ks := r.passes.getLastD []
    let (code, pos) := r.tilePos r.va r.vb r.vp steps ks
    let v := if r.o.stat = 2 then r.va else r.vb
    some { stat := r.o.stat.toNat, code := code, ldesc := r.o.ldesc.toNat, base := v.base, elems := pos.map (fun p =>
      (p, v.value d ((p - 8 * (v.base : Int)) / (v.fmt.bits : Int)))) }

/-- The banks after an MMA of `n` passes (R72): its own swaps between passes, the last pass's tile active. -/
def banksAfter (r : MxRun) (n : Nat) (steps : List Nat) (d : Dev) : Dev :=
  let bell := interval d r.s.i.t
  d.modCtxSlot r.s.i.t r.s.i.k (fun c =>
    if n = 0 then c
    else if n = 1 then (if r.o.stat = 1 then c.setActive { c.activeBank with tile := none } else c)
    else
      let c := { c with active := c.active != decide (n % 2 = 0) }
      (c.setActive { valid := false, tile := if (plistLevel r.s.x).isSome then none else lastTile r steps d, since := bell }).setShadow {})

/-- Regions of an operation: both block indices when it has more than one block (R114). -/
def MxRun.regionUnits (r : MxRun) : List Nat :=
  unitsOf (r.start 0) r.blockBytes ++ (if 1 < r.blocks.length then unitsOf (r.start 1) r.blockBytes else [])

/-- The first stationary tile of an MMA's first computed block (R72). -/
def firstTile (r : MxRun) (bell : Nat) (bank : Bank) (steps : List Nat) (x : Ex) : Stationary :=
  let (hs, y) := stepHandles r.s (r.s.i.base r.o.baseM.toNat) steps (r.idx steps 0 0 0) x
  let (code, pos) := r.tilePos (r.va.rebase hs[0]?) (r.vb.rebase hs[1]?) (r.vp.rebase hs[3]?) steps (r.passes.headD [])
  if !y.live then .operand
  else match bankServes bell bank r.o.stat.toNat code pos with | some e => .tile e | none => .unknown

/-- How far an MMA has come: output tile blocks met, blocks computed, M tile steps skipped, the last block computed. -/
structure MmaAt where
  met : Nat := 0
  done : Nat := 0
  skipped : List (List Nat) := []
  last : List Nat := []
  x : Ex

/-- One output tile block of an MMA (R114, R169). A block that the mask skips counts for the block index, since the accumulator
region ends in the same state with and without FULL (DEDUCED from R169, log entry 67). -/
def mmaStep (r : MxRun) (m : MxModes) (bell : Nat) (bank : Bank) (mt : Option MaskTable) (a : MmaAt) (steps : List Nat) : MmaAt :=
  if !a.x.live then a
  else
    let (rows, x) := maskRows r mt steps a.x
    if !x.live then { a with x := x }
    else if mt.isSome && rows.isEmpty && !r.full m then
      { a with met := a.met + 1, skipped := steps.set r.ln 0 :: a.skipped, x := x }
    else
      let first := if a.done ≠ 0 ∨ dealt x.d r.s.i.k then .operand else firstTile r bell bank steps x
      { a with met := a.met + 1, done := a.done + 1, last := steps, x := mmaBlock r (a.met % 2) steps rows first x }

/-- Skipped M tile steps are counted on the first core that serves the slot: no core is dealt them (R120, R169, R175; log entry
63). -/
def countBwdSkip (i : Issue) (n : Nat) (d : Dev) : Dev :=
  match coreOfSlot d i.k with
  | some core => if n = 0 then d else d.modCore core (fun c => { c with bwdSkip := c.bwdSkip + n })
  | none => d

/-- MMA on one slot (R69, R72, R74, R96 to R98, R123, R169). -/
def mmaSlot (m : MxModes) (o : MxOp) (i : Issue) : SlotRun := fun fuel d =>
  let r := mxRun d i o
  if emptyShape r.runs then (d, none)
  else if allSkipped r m { d := d } then
    runEx r.s.env fuel d (fun x =>
      let (mt, x) := maskHeader r x
      let a := r.blocks.foldl (mmaStep r m 0 {} mt) { x := x }
      { a.x with d := countBwdSkip i a.skipped.dedup.length a.x.d })
  else
    let cs := (d.ctx i.t).slot i.k
    let cells := r.passes ≠ []
    if (cells && o.swap && !cs.shadowBank.valid && cs.sloadOut == 0) then (d, some .badParam)
    else if o.preload ≠ 0 ∧ r.regionUnits.any (fun u => cs.openUnits.contains u) then (d, some .badParam)
    else
      let bell := interval d i.t
      let d := if cells && o.swap then d.modCtxSlot i.t i.k (fun c => c.swapBanks bell) else d
      let bank := ((d.ctx i.t).slot i.k).activeBank
      runEx r.s.env fuel d (fun x =>
        let (mt, x) := maskHeader r x
        let a := r.blocks.foldl (mmaStep r m bell bank mt) { x := x }
        let d := countBwdSkip i a.skipped.dedup.length a.x.d
        { a.x with d := if dealt d i.k then d else banksAfter r (a.done * r.passes.length) a.last d })

/-- SLOAD on one slot (R71): the first stationary tile of its descriptor goes to the shadow bank, whose VALID bit waits
for the last byte. A second SLOAD overwrites the first (R74); that it clears the VALID bit of the tile that it overwrites when it
issues is a DESIGN CHOICE (log entry 68). -/
def sloadSlot (o : MxOp) (i : Issue) : SlotRun := fun fuel d =>
  let r := mxRun d i o
  if emptyShape r.runs then (d, none)
  else
    runEx r.s.env fuel d (fun x =>
      let steps := r.blocks.headD []
      let ks := r.passes.headD []
      let (hs, x) := stepHandles r.s (i.base o.baseM.toNat) steps (r.idx steps 0 0 0) x
      let va := r.va.rebase hs[0]?
      let vb := r.vb.rebase hs[1]?
      let vp := r.vp.rebase hs[3]?
      let ms := r.valid steps r.lm
      let ns := r.valid steps r.ln
      let (code, pos) := r.tilePos va vb vp steps ks
      let (v, idxs) : View × List (List Nat) := match o.stat.toNat with
        | 1 => (vp, if o.preload = 0 then [] else ms.flatMap (fun m => ns.map (fun n => r.idx steps m n 0)))
        | 2 => (va, ms.flatMap (fun m => ks.map (fun k => r.idx steps m (ns.headD 0) k)))
        | _ => (vb, ks.flatMap (fun k => ns.map (fun n => r.idx steps (ms.headD 0) n k)))
      let (vals, x) := readTile r.s.env v idxs x
      if !x.live then x
      else
        let conv := fun (u : Num) => if o.stat = 1 then u.toFp32 o.sat else u
        let elems := if idxs = [] then pos.map (fun p => (p, Num.zero))
          else List.zipWith (fun p ix => (p, conv (valueAt vals (offsetOf r.runs v.sel ix)))) pos idxs
        { x with d := x.d.modCtxSlot i.t i.k (fun c =>
          { c.setShadow { valid := false, tile := some {
            stat := o.stat.toNat, code := code, ldesc := o.ldesc.toNat, base := v.base, elems := elems } } with
            sloadOut := c.sloadOut + 1 }) })

/-- ACCWRITE on one slot (R69, R97, R114). -/
def accwriteSlot (o : MxOp) (i : Issue) : SlotRun := fun fuel d =>
  let r := mxRun d i o
  if emptyShape r.runs then (d, none)
  else
    runEx r.s.env fuel d (fun x =>
      let steps := r.blocks.headD []
      let (hs, x) := stepHandles r.s (i.base o.baseM.toNat) steps (r.idx steps 0 0 0) x
      let x := regionCheck r.s (r.start 0) r.blockBytes (r.idx steps 0 0 0) x
      let x := writeRegion r (r.vc.rebase hs[2]?) 0 steps (r.valid steps r.lm) x
      { x with d := setUnits i (closeRegion (unitsOf (r.start 0) r.blockBytes)) x.d })

/-- ACCZERO on one slot (R97, R114): the valid lanes of the block become +0, and its region opens. -/
def acczeroSlot (o : MxOp) (i : Issue) : SlotRun := fun fuel d =>
  let r := mxRun d i o
  if emptyShape r.runs then (d, none)
  else
    runEx r.s.env fuel d (fun x =>
      let steps := r.blocks.headD []
      let m0 := steps.getD r.lm 0 * r.tile r.lm
      let n0 := steps.getD r.ln 0 * r.tile r.ln
      let x := regionCheck r.s (r.start 0) r.blockBytes [] x
      let x := (r.valid steps r.lm).foldl (fun x m => (r.valid steps r.ln).foldl (fun x n =>
        accWrite r.s (r.lane 0 (m - m0) (n - n0)) (r.idx steps m n 0) .zero x) x) x
      if !x.live then x else { x with d := setUnits i (openRegion (unitsOf (r.start 0) r.blockBytes)) x.d })

end Sys2Proof.Machine
end

