-- ==== Sys2Proof/Machine/Conv.lean ====
section
/-! DEFINITION. Convolution on one slot (09_convolution.md): CONV, CONVT, CONVDW and the Winograd operations. -/

namespace Sys2Proof.Machine

/-- A convolution record (R204). -/
structure ConvRec where
  ft : Nat
  fh : Nat
  fw : Nat
  st : Nat
  sh : Nat
  sw : Nat
  dt : Nat
  dh : Nat
  dw : Nat
  pt : Nat
  ph : Nat
  pw : Nat
  tin : Nat
  hin : Nat
  win : Nat
  hs : Nat
  ts : Nat
  cs : Nat
  wtap : Int
  oh : Nat
  ow : Nat

def ConvRec.ofBytes (l : List Byte) : ConvRec :=
  let b := fun o => leAt l o 1
  { ft := b 0, fh := b 1, fw := b 2, st := b 4, sh := b 5, sw := b 6, dt := b 8, dh := b 9, dw := b 10
    pt := b 12, ph := b 13, pw := b 14, tin := leAt l 20 4, hin := leAt l 24 2, win := leAt l 26 2
    hs := leAt l 28 4, ts := leAt l 32 8, cs := leAt l 40 8, wtap := sext 32 (leAt l 48 4)
    oh := leAt l 52 2, ow := leAt l 54 2 }

/-- Taps of a filter, in ascending τ, as (ft, fh, fw). -/
def ConvRec.taps (c : ConvRec) : List (Nat × Nat × Nat) :=
  (List.range c.ft).flatMap (fun a => (List.range c.fh).flatMap (fun b => (List.range c.fw).map (fun w => (a, b, w))))

/-- τ of a tap. -/
def ConvRec.tau (c : ConvRec) (t : Nat × Nat × Nat) : Nat := (t.1 * c.fh + t.2.1) * c.fw + t.2.2

/-- A convolution on a slot: the matrix operation, its record and its X levels: row, frame, and the batch levels (R205). -/
structure ConvRun where
  r : MxRun
  c : ConvRec
  row : Option Nat
  frame : Option Nat

def convRun (d : Dev) (i : Issue) (o : MxOp) : ConvRun :=
  let r := mxRun d i o
  let xs := (byOrder r.runs).reverse.filter (fun l => match r.runs[l]? with | some q => q.lv.role == 3 | none => false)
  { r := r, c := ConvRec.ofBytes ((r.s.env.prog.conv).getD o.baseM.toNat []), row := xs[0]?, frame := xs[1]? }

/-- An output index as the tap generator sees it: the row index of the whole operation where operand A's SPLIT_OFF bit
is 1 (R113). -/
def ConvRun.pos (q : ConvRun) (l : Option Nat) (idx : List Nat) : Nat :=
  match l with
  | none => 0
  | some l =>
    let lo := match q.r.runs[l]? with | some x => if x.lv.split && x.lv.offBit .a then x.lo else 0 | none => 0
    idx.getD l 0 + lo

/-- An input position: in range it has an element offset, in the border none (R203, R204). -/
def ConvRec.input (c : ConvRec) (t h w : Int) : Option Int :=
  if 0 ≤ t ∧ t < c.tin ∧ 0 ≤ h ∧ h < c.hin ∧ 0 ≤ w ∧ w < c.win then some (t * c.ts + h * c.hs + w) else none

/-- Input position of CONV's tap for an output position (R207). -/
def ConvRec.fwd (c : ConvRec) (tap : Nat × Nat × Nat) (t h w : Nat) : Option Int :=
  c.input ((t * c.st + tap.1 * c.dt : Nat) - (c.pt : Int)) ((h * c.sh + tap.2.1 * c.dh : Nat) - (c.ph : Int))
    ((w * c.sw + tap.2.2 * c.dw : Nat) - (c.pw : Int))

/-- A quotient that must be whole (R208). -/
def wholeQ (a : Int) (b : Nat) : Option Int := if a % (b : Int) = 0 then some (a / (b : Int)) else none

/-- Input position of CONVT's tap (R208). -/
def ConvRec.adj (c : ConvRec) (tap : Nat × Nat × Nat) (t h w : Nat) : Option Int :=
  match wholeQ ((t + c.pt : Nat) - (tap.1 * c.dt : Nat) : Int) c.st, wholeQ ((h + c.ph : Nat) - (tap.2.1 * c.dh : Nat) : Int) c.sh,
      wholeQ ((w + c.pw : Nat) - (tap.2.2 * c.dw : Nat) : Int) c.sw with
  | some a, some b, some e => c.input a b e
  | _, _, _ => none

/-- The bank tile stands for the gathered first tile of an operation in IS mode when an SLOAD of the same descriptor, mode and base
loaded it (R71, R72; log entry 14). -/
def bankHolds (bell : Nat) (b : Bank) (stat ldesc base : Nat) : Bool :=
  match b.tile with
  | some tl => tl.stat == stat && tl.ldesc == ldesc && tl.base == base && decide (bell ≤ b.since + 1)
  | none => false

/-- Operands of one convolution pass: the rows, the columns, the K indices, and the offsets; a product whose input lies
in the border has none. -/
structure ConvPass where
  unit : Nat
  b : Nat
  steps : List Nat
  ms : List Nat
  ns : List Nat
  ks : List Nat
  aOff : Nat → Nat → Option Int
  bOff : Nat → Nat → Int
  idx : Nat → Nat → Nat → List Nat

/-- Some product of the pass is added (R211). -/
def ConvPass.adds (p : ConvPass) : Bool := p.ms.any (fun m => p.ks.any (fun k => (p.aOff m k).isSome))

/-- One pass (R207, R96, R211): the operands of the added products are read, each lane's partial sums them in ascending
k, and the region takes region plus partial. `st` says where B's tile comes from; `discard` runs a pass that adds nothing (NO_SKIP). -/
def convPass (r : MxRun) (p : ConvPass) (st : Stationary) (discard : Bool) (x : Ex) : Ex :=
  let as_ := p.ms.flatMap (fun m => p.ks.filterMap (fun k => (p.aOff m k).map (fun o => (o, p.idx m (p.ns.headD 0) k))))
  let bs := match st with
    | .operand => p.ks.flatMap (fun k => p.ns.map (fun n => (p.bOff k n, p.idx (p.ms.headD 0) n k)))
    | _ => if r.o.stat = 2 then p.ks.flatMap (fun k => p.ns.map (fun n => (p.bOff k n, p.idx (p.ms.headD 0) n k))) else []
  let (av, x) := readOffs r.s.env r.va as_ x
  let (bv, x) := readOffs r.s.env r.vb bs x
  if !x.live ∨ discard then x
  else
    let m0 := p.steps.getD r.lm 0 * r.tile r.lm
    let n0 := p.steps.getD r.ln 0 * r.tile r.ln
    let bOf := fun (k n : Nat) => match st with
      | .tile e => (e.getD (p.ks.idxOf k * p.ns.length + p.ns.idxOf n) (0, .zero)).2
      | _ => valueAt bv (p.bOff k n)
    p.ms.foldl (fun x m => p.ns.foldl (fun x n =>
      let lane := r.lane p.b (m - m0) (n - n0)
      let ix := p.idx m n (p.ks.headD 0)
      let (old, x) := accRead r.s lane ix x
      match st with
      | .unknown =>
        let (g, d) := useFree 32 x.d
        accWrite r.s lane ix (Fmt.fp32.decode g) { x with d := d }
      | _ =>
        let prods := p.ks.filterMap (fun k => (p.aOff m k).map (fun o =>
          (widen r.o.sat r.va.fmt r.vb.fmt (valueAt av o), widen r.o.sat r.vb.fmt r.va.fmt (bOf k n))))
        accWrite r.s lane ix (fp32 (Num.add old (dot .zero prods))) x) x) x

/-- Count skipped passes on the core that works the unit (R210, R218). -/
def countSkip (i : Issue) (unit n : Nat) (d : Dev) : Dev :=
  match unitCore d i unit with
  | some core => d.modCore core (fun c => { c with convSkip := c.convSkip + n })
  | none => d

/-- Run the passes of a block: a pass that adds nothing is skipped, or run and discarded under NO_SKIP (R211). `first` is where the
tile of the operation's first computed pass comes from; answers how many passes have been computed. -/
def convPasses (r : MxRun) (m : MxModes) (first : Stationary) (ps : List ConvPass) (done : Nat) (x : Ex) : Nat × Ex :=
  ps.foldl (fun (acc : Nat × Ex) p =>
    if !acc.2.live then acc
    else if p.adds then (acc.1 + 1, convPass r p (if acc.1 = 0 then first else .operand) false acc.2)
    else if m.conv then (acc.1, convPass r p .operand true acc.2)
    else (acc.1, { acc.2 with d := countSkip r.s.i p.unit 1 acc.2.d })) (done, x)

/-- A block: load, passes, and the write or the kept region (R97, R207). The C view may differ by tap (CONVDW). -/
def convBlock (r : MxRun) (m : MxModes) (vc : View) (b : Nat) (steps : List Nat) (ps : List ConvPass) (first : Stationary)
    (done : Nat) (x : Ex) : Nat × Ex :=
  let (_, x) := loadRegion r r.vp b steps x
  let (n, x) := convPasses r m first ps done x
  let us := unitsOf (r.start b) r.blockBytes
  if !x.live then (n, x)
  else if r.o.accInto then (n, { x with d := setUnits r.s.i (openRegion us) x.d })
  else
    let x := writeRegion r vc b steps (r.valid steps r.lm) x
    (n, { x with d := setUnits r.s.i (closeRegion us) x.d })

/-- Banks after a convolution of `n` computed passes: its own swaps between passes; what its last tile holds serves no other
operation. -/
def convBanks (i : Issue) (n : Nat) (d : Dev) : Dev :=
  d.modCtxSlot i.t i.k (fun c =>
    if n ≤ 1 then c
    else
      let c := { c with active := c.active != decide (n % 2 = 0) }
      (c.setActive {}).setShadow {})

/-- What every convolution does before its passes: the empty shape, the swap and the preload rule for the units of its region (R72,
R74, R97, R123). The body takes the bank that is active at its first pass. -/
def convStart (q : ConvRun) (units : List Nat) (fuel : Option Nat) (d : Dev) (body : Bank → Ex → Nat × Ex) : Dev × Option Stop :=
  let i := q.r.s.i
  let o := q.r.o
  if emptyShape q.r.runs then (d, none)
  else
    let cs := (d.ctx i.t).slot i.k
    let cells := match q.r.runs[q.r.lk]? with | some l => l.n ≠ 0 | none => false
    if (cells && o.swap && !cs.shadowBank.valid && cs.sloadOut == 0) then (d, some .badParam)
    else if o.preload ≠ 0 ∧ units.any (fun u => cs.openUnits.contains u) then (d, some .badParam)
    else
      let d := if cells && o.swap then d.modCtxSlot i.t i.k (fun c => c.swapBanks (interval d i.t)) else d
      runEx q.r.s.env fuel d (fun x =>
        let (n, x) := body ((d.ctx i.t).slot i.k).activeBank x
        { x with d := if dealt x.d i.k then x.d else convBanks i n x.d })

/-- The bit positions of a pass's tile of B, as SLOAD loads it (R71). -/
def ConvPass.tilePos (r : MxRun) (p : ConvPass) : List Int := p.ks.flatMap (fun k => p.ns.map (fun n => r.vb.bitPos (p.bOff k n)))

/-- Where the tile of the first computed pass comes from (R72): the bank that holds it; its own operand, where the bank holds the tile
of the operation's first pass and that pass adds nothing (DEDUCED from R211, which gives the same results with and without NO_SKIP, log
entry 70); open values otherwise. -/
def convFirst (r : MxRun) (bank : Bank) (d : Dev) (ps : List ConvPass) : Stationary :=
  let bell := interval d r.s.i.t
  let code := r.vb.fmt.code + 16 * b2n r.vb.blocked
  let serves := fun (p : Option ConvPass) => p.bind (fun p => bankServes bell bank r.o.stat.toNat code (p.tilePos r))
  if dealt d r.s.i.k then .operand
  else if r.o.stat = 2 then (if bankHolds bell bank 2 r.o.ldesc.toNat r.va.base then .operand else .unknown)
  else match serves (ps.find? (·.adds)) with
    | some e => .tile e
    | none => match ps.head? with
      | some p => if !p.adds && (serves (some p)).isSome then .operand else .unknown
      | none => .operand

/-- Element offset of weight (τ, ci, co) from BASE_B (R206). -/
def ConvRun.weight (q : ConvRun) (tau : Nat) (ci co : Nat) : Int :=
  let st := fun l => match q.r.runs[l]? with | some x => x.lv.strideB | none => 0
  (tau : Int) * q.c.wtap + (ci : Int) * st q.r.lk + (co : Int) * st q.r.ln

/-- CONV and CONVT on one slot (R207, R208): one pass for each tap and input-channel tile. -/
def convSlot (adj : Bool) (m : MxModes) (o : MxOp) (i : Issue) : SlotRun := fun fuel d =>
  let q := convRun d i o
  let r := q.r
  let passes := fun (sb : List Nat × Nat) =>
    let steps := sb.1
    let idx := r.idx steps
    let at_ := fun (tap : Nat × Nat × Nat) (m : Nat) =>
      let v := idx m 0 0
      (if adj then q.c.adj else q.c.fwd) tap (q.pos q.frame v) (q.pos q.row v) (q.pos (some r.lm) v)
    q.c.taps.flatMap (fun tap => r.kTiles.map (fun ks => ({
      unit := sb.2, b := sb.2 % 2, steps := steps, ms := r.valid steps r.lm, ns := r.valid steps r.ln, ks := ks, idx := idx
      aOff := fun m k => (at_ tap m).map (fun p => p + (k : Int) * q.c.cs + offsetOf r.runs .a (idx m 0 0))
      bOff := fun k n => q.weight (q.c.tau tap) k n } : ConvPass)))
  let blocks := r.blocks.zipIdx
  convStart q r.regionUnits fuel d (fun bank x =>
    let first := convFirst r bank x.d (blocks.flatMap passes)
    blocks.foldl (fun (acc : Nat × Ex) sb => convBlock r m r.vc (sb.2 % 2) sb.1 (passes sb) first acc.1 acc.2) (0, x))

/-- A level whose C stride does not place a gradient element (R206). -/
def ConvRun.gradRun (q : ConvRun) (l : Nat) (x : Run) : Run :=
  if l = q.r.lm ∨ l = q.r.ln then x else { x with lv := { x.lv with strideC := 0 } }

/-- CONVDW on one slot (R209): taps outermost; frames and rows contract into the tap's region. The unit that is dealt is one output
tile block with all of its taps (R210). -/
def convdwSlot (m : MxModes) (o : MxOp) (i : Issue) : SlotRun := fun fuel d =>
  let q := convRun d i o
  let r := q.r
  let inner := fun l => l == r.lk || some l == q.row || some l == q.frame
  let count := fun (l : Option Nat) => match l with | some l => (match r.runs[l]? with | some x => x.n | none => 1) | none => 1
  let blocks := (q.c.taps.flatMap (fun tap => (visit r.s.x.curve r.runs inner).zipIdx.map (fun st => (tap, st)))).zipIdx
  let rC := { r with s := { r.s with env := { r.s.env with runs := r.runs.mapIdx q.gradRun } } }
  let passes := fun (sb : ((Nat × Nat × Nat) × (List Nat × Nat)) × Nat) =>
    let tap := sb.1.1
    let steps := sb.1.2.1
    (List.range (count q.frame)).flatMap (fun f => (List.range (count q.row)).flatMap (fun h =>
      r.kTiles.map (fun ks =>
        let idx := fun m n k =>
          let v := r.idx steps m n k
          let v := match q.row with | some l => v.set l h | none => v
          match q.frame with | some l => v.set l f | none => v
        ({ unit := sb.1.2.2, b := sb.2 % 2, steps := steps, ms := r.valid steps r.lm, ns := r.valid steps r.ln, ks := ks, idx := idx
           aOff := fun m k =>
             let v := idx m 0 k
             (q.c.fwd tap (q.pos q.frame v) (q.pos q.row v) (q.pos (some r.lk) v)).map (fun p =>
               p + ((q.pos (some r.lm) v : Nat) : Int) * q.c.cs + offsetOf r.runs .a v)
           bOff := fun k n => offsetOf r.runs .b (idx 0 n k) } : ConvPass))))
  let units := unitsOf (r.start 0) r.blockBytes ++ (if 1 < blocks.length then unitsOf (r.start 1) r.blockBytes else [])
  convStart q units fuel d (fun bank x =>
    let first := convFirst r bank x.d (blocks.flatMap passes)
    blocks.foldl (fun (acc : Nat × Ex) sb =>
      let vc := { r.vc with shift := (q.c.tau sb.1.1 : Int) * q.c.wtap }
      convBlock rC m vc (sb.2 % 2) sb.1.2.1 (passes sb) first acc.1 acc.2) (0, x))

/-! ### Winograd -/

/-- An integer entry of a transform. -/
def ints (l : List Int) : List Num := l.map Num.ofInt

/-- The FP32 value nearest to a fraction. -/
def frac (a : Int) (b : Nat) : Num := fp32 (Num.divide (Num.ofInt a) (Num.ofInt b))

/-- Bᵀ of R214. -/
def wgB (n : Nat) : List (List Num) :=
  if n = 4 then [ints [4, 0, -5, 0, 1, 0], ints [0, -4, -4, 1, 1, 0], ints [0, 4, -4, -1, 1, 0],
    ints [0, -2, -1, 2, 1, 0], ints [0, 2, -1, -2, 1, 0], ints [0, 4, 0, -5, 0, 1]]
  else [ints [1, 0, -1, 0], ints [0, 1, 1, 0], ints [0, -1, 1, 0], ints [0, 1, 0, -1]]

/-- G of R214. -/
def wgG (n : Nat) : List (List Num) :=
  if n = 4 then [[frac 1 4, .zero, .zero], [frac (-1) 6, frac (-1) 6, frac (-1) 6], [frac (-1) 6, frac 1 6, frac (-1) 6],
    [frac 1 24, frac 1 12, frac 1 6], [frac 1 24, frac (-1) 12, frac 1 6], ints [0, 0, 1]]
  else [ints [1, 0, 0], [frac 1 2, frac 1 2, frac 1 2], [frac 1 2, frac (-1) 2, frac 1 2], ints [0, 0, 1]]

/-- Aᵀ of R214. -/
def wgA (n : Nat) : List (List Num) :=
  if n = 4 then [ints [1, 1, 1, 1, 1, 0], ints [0, 1, -1, 2, -2, 0], ints [0, 1, 1, 4, 4, 0], ints [0, 1, -1, 8, -8, 1]]
  else [ints [1, 1, 1, 0], ints [0, 1, -1, -1]]

/-- A dot product in ascending index, rounded to FP32 after each step (R214). -/
def stepDot (a b : List Num) : Num :=
  (List.zip a b).foldl (fun acc p => fp32 (Num.add acc (fp32 (Num.mul p.1 p.2)))) .zero

/-- The columns of a matrix of `w` columns. -/
def columns (w : Nat) (m : List (List Num)) : List (List Num) := (List.range w).map (fun j => m.map (fun row => row.getD j .zero))

/-- T d Tᵀ for a transform T and a square `d`, evaluated as two products (R214). -/
def sandwich (t d : List (List Num)) : List (List Num) :=
  let w := (d.headD []).length
  let td := t.map (fun row => (columns w d).map (stepDot row))
  td.map (fun row => t.map (stepDot row))

/-- Round to an operand format under SAT = 1 (R215). -/
def toFmt (f : Fmt) (x : Num) : Num := f.decode (f.encode true x)

/-- The transformed weights of a 3 by 3 kernel, rounded to the stationary format (R215 step 2). -/
def wgKernel (n : Nat) (f : Fmt) (g : List (List Num)) : List (List Num) := (sandwich (wgG n) g).map (fun row => row.map (toFmt f))

/-- What marks a bank tile of transformed weights. -/
def wgCode (n : Nat) (v : View) : Nat := v.fmt.code + 16 * b2n v.blocked + 32 * n

/-- The raw weights of one tile of a Winograd operation, read once each in ascending offset. -/
def ConvRun.rawWeights (q : ConvRun) (fts ks ns : List Nat) (steps : List Nat) (x : Ex) : (Nat → Nat → Nat → List (List Num)) × Ex :=
  let r := q.r
  let wAt := fun (ft k c a b : Nat) => q.weight (q.c.tau (ft, a, b)) k c
  let bs := fts.flatMap (fun ft => ks.flatMap (fun k => ns.flatMap (fun c =>
    (List.range 3).flatMap (fun a => (List.range 3).map (fun b => (wAt ft k c a b, r.idx steps ((r.valid steps r.lm).headD 0) c k))))))
  let (bv, x) := readOffs r.s.env r.vb bs x
  (fun ft k c => (List.range 3).map (fun a => (List.range 3).map (fun b => valueAt bv (wAt ft k c a b))), x)

/-- Bit positions that stand for the first tile of transformed weights: those of its kernels' first taps. -/
def ConvRun.wgPos (q : ConvRun) (ks ns : List Nat) : List Int :=
  ks.flatMap (fun k => ns.map (fun c => q.r.vb.bitPos (q.weight 0 k c)))

/-- The Winograd operation that an SLOAD's tile is for: the next matrix operation of its program, in bundle order, that multiplies,
where that is a Winograd operation of the same descriptor (DEDUCED from R69 and R215, log entry 70); its OP and its CREC. -/
def followingWg (d : Dev) (i : Issue) (o : MxOp) : Option (Nat × Nat) :=
  let next := ((d.ctx i.t).theProg.bundles.drop (i.pc + 1)).findSome? (fun w =>
    let x := (Bundle.of w).mx
    let op := cut x 0 8
    if op = 1 ∨ 0x10 ≤ op then some (op, mxFields x) else none)
  match next with
  | some (op, y) => if (op = 0x12 ∨ op = 0x13) ∧ y.ldesc = o.ldesc then some (op, y.baseM.toNat) else none
  | none => none

/-- SLOAD on one slot (R71): a plain tile, or the first tile of transformed weights of a Winograd operation (R215 step 2). -/
def sloadAny (o : MxOp) (i : Issue) : SlotRun := fun fuel d =>
  match followingWg d i o with
  | none => sloadSlot o i fuel d
  | some (op, crec) =>
    let n := if op = 0x12 then 4 else 2
    let q := convRun d i { o with baseM := BitVec.ofNat 6 crec }
    let r := q.r
    if emptyShape r.runs then (d, none)
    else runEx r.s.env fuel d (fun x =>
      let steps := r.blocks.headD []
      let ns := r.valid steps r.ln
      let ks := r.kTiles.headD []
      let (g, x) := q.rawWeights [0] ks ns steps x
      if !x.live then x
      else
        let vals := ks.flatMap (fun k => ns.map (fun c => ((wgKernel n r.vb.fmt (g 0 k c)).headD []).headD .zero))
        { x with d := x.d.modCtxSlot i.t i.k (fun c =>
          { c.setShadow { valid := false, tile := some {
            stat := 0, code := wgCode n r.vb, ldesc := o.ldesc.toNat, base := r.vb.base, elems := List.zip (q.wgPos ks ns) vals } } with
            sloadOut := c.sloadOut + 1 }) })

/-- The descriptor of a Winograd operation as its C operand sees it: the M and row levels count output positions. -/
def ConvRun.wgRuns (q : ConvRun) (n : Nat) : List Run :=
  let scale := fun (top : Nat) (x : Run) =>
    { x with lv := { x.lv with tile := x.lv.tile * n, bound := top }, lo := x.lo * n, b := top
             n := if x.lv.split then min (x.n * n) (top - x.lo * n) else min (x.n * n) top }
  q.r.runs.mapIdx (fun l x => if l = q.r.lm then scale q.c.ow x else if some l = q.row then scale q.c.oh x else x)

/-- A Winograd operation on one slot (R213 to R215), with output tiles of `n` by `n`. -/
def convwgSlot (n : Nat) (o : MxOp) (i : Issue) : SlotRun := fun fuel d =>
  let q := convRun d i o
  let r := q.r
  let xi := (List.range (n + 2)).flatMap (fun a => (List.range (n + 2)).map (fun b => (a, b)))
  let runsC := q.wgRuns n
  let envC := { r.s.env with runs := runsC }
  let bytes := r.blockBytes * n * n
  convStart q (unitsOf (r.start 0) bytes) fuel d (fun bank x =>
    r.blocks.foldl (fun (acc : Nat × Ex) steps =>
      let (done, x) := acc
      let ms := r.valid steps r.lm
      let ns := r.valid steps r.ln
      let idx := r.idx steps
      let x := regionCheck r.s (r.start 0) bytes (idx 0 0 0) x
      let ks := r.kTiles.flatten
      let v0 := idx 0 0 0
      -- the raw patches and weights, read once each in ascending offset
      let inAt := fun (ft m k i' j' : Nat) =>
        let v := idx m 0 k
        (q.c.input ((q.pos q.frame v * q.c.st + ft * q.c.dt : Nat) - (q.c.pt : Int)) ((n * q.pos q.row v + i' : Nat) - (q.c.ph : Int))
          ((n * q.pos (some r.lm) v + j' : Nat) - (q.c.pw : Int))).map (fun p => p + (k : Int) * q.c.cs + offsetOf r.runs .a (idx m 0 0))
      let fts := List.range q.c.ft
      let as_ := fts.flatMap (fun ft => ms.flatMap (fun m => ks.flatMap (fun k => xi.filterMap (fun p =>
        (inAt ft m k p.1 p.2).map (fun off => (off, idx m (ns.headD 0) k))))))
      let (av, x) := readOffs r.s.env r.va as_ x
      let (g, x) := q.rawWeights fts ks ns steps x
      let ks0 := r.kTiles.headD []
      let tile := bankServes (interval x.d i.t) bank 0 (wgCode n r.vb) (q.wgPos ks0 ns)
      let unknown := !dealt x.d i.k && tile.isNone && done == 0
      let patch := fun ft m k => sandwich (wgB n) ((List.range (n + 2)).map (fun i' => (List.range (n + 2)).map (fun j' =>
        match inAt ft m k i' j' with | some off => valueAt av off | none => .zero)))
      let weight := fun (ft k c : Nat) (p : Nat × Nat) => match tile with
        | some e => if ft = 0 ∧ p = (0, 0) ∧ ks0.contains k ∧ done = 0 ∧ !dealt x.d i.k then (e.getD (ks0.idxOf k * ns.length + ns.idxOf c) (0, .zero)).2
            else ((wgKernel n r.vb.fmt (g ft k c)).getD p.1 []).getD p.2 .zero
        | none => ((wgKernel n r.vb.fmt (g ft k c)).getD p.1 []).getD p.2 .zero
      let plane := fun (m c : Nat) (p : Nat × Nat) => fts.foldl (fun acc ft => r.kTiles.foldl (fun acc kt =>
        fp32 (Num.add acc (dot .zero (kt.map (fun k =>
          (toFmt r.va.fmt (((patch ft m k).getD p.1 []).getD p.2 .zero), weight ft k c p)))))) acc) Num.zero
      let outAt := fun (m c a b : Nat) => xi.foldl (fun acc p =>
        let coef := fp32 (Num.mul (((wgA n).getD a []).getD p.1 .zero) (((wgA n).getD b []).getD p.2 .zero))
        fp32 (Num.add acc (fp32 (Num.mul coef (plane m c p))))) Num.zero
      -- the bias of each column
      let (pv, x) := if o.preload = 0 ∨ !x.live then ([], x) else readTile r.s.env r.vp (ns.map (fun c => idx 0 c 0)) x
      let bias := fun c => (valueAt pv (offsetOf r.runs r.vp.sel (idx 0 c 0))).toFp32 o.sat
      if !x.live then (done, x)
      else
        let row0 := match q.row with | some l => v0.getD l 0 | none => 0
        let outs : List (List Nat × Option Num) := ms.flatMap (fun m => ns.flatMap (fun c =>
          (List.range n).flatMap (fun a => (List.range n).filterMap (fun b =>
            let whole := fun (l : Option Nat) (p : Nat) => match l with
              | some l => (match runsC[l]? with | some z => decide (p < z.n) | none => false)
              | none => p == 0 || decide (p < q.c.oh)
            if whole (some r.lm) (n * m + b) && whole q.row (n * row0 + a) then
              let w := (idx 0 c 0).set r.lm (n * m + b)
              let w := match q.row with | some l => w.set l (n * row0 + a) | none => w
              let y := outAt m c a b
              some (w, if unknown then none else some (if o.preload = 0 then y else fp32 (Num.add y (bias c))))
            else none))))
        -- what the output region then holds is not stated: open values
        let x := (List.range (bytes / 4)).foldl (fun (x : Ex) l =>
          let (g, d) := useFree 32 x.d
          accWrite r.s ((r.start 0 + 4 * l : Nat) : Int) (idx 0 0 0) (Fmt.fp32.decode g) { x with d := d }) x
        let y := writeTile envC r.vc o.sat outs x
        let cnt := outs.filterMap (fun w => w.2.map (fun v => (w.1, v)))
        let y := countOuts envC r.vc o.sat r.s.x.fc.tag (written envC r.vc cnt y) y
        (done + xi.length * q.c.ft * r.kTiles.length, { y with d := setUnits i (closeRegion (unitsOf (r.start 0) bytes)) y.d })) (0, x))

end Sys2Proof.Machine
end

