-- ==== Sys2Proof/Machine/Elem.lean ====
section
/-! DEFINITION. The functions of R133 and the cosine of R134: the exact result to far more bits than its accuracy bound needs, and
the open choice of one FP32 value within the bound. -/

namespace Sys2Proof.Machine

/-! ### Fixed point: an integer counts units of 2 to the minus 640 -/

def fixBits : Nat := 640
def fixOne : Int := 2 ^ 640

/-- A finite value in fixed point; FP32 values and their differences are exact. -/
def fixOf (neg : Bool) (m : Nat) (e : Int) : Int := scaled neg m e (-640)

def fixMul (a b : Int) : Int := a * b / 2 ^ 640
def fixDiv (a b : Int) : Int := a * 2 ^ 640 / b

/-- The sum of `n` terms of a power series: each term is the one before times `x`, times `num i`, divided by `den i`. -/
def fixSeries (n : Nat) (t x : Int) (num den : Nat → Int) : Int :=
  ((List.range n).foldl (fun (p : Int × Int) i =>
    let t : Int := fixMul p.2 x * num i / den i
    (p.1 + t, t)) (t, t)).1

/-- The inverse hyperbolic tangent of |z| ≤ 1/3, and the inverse tangent of 1/k: sums of odd powers with their divisors. -/
def fixAtanh (z : Int) : Int :=
  let zz := fixMul z z
  ((List.range 220).foldl (fun (p : Int × Int) i => (p.1 + p.2 / (2 * (i : Int) + 1), fixMul p.2 zz)) ((0 : Int), z)).1

def fixAtan (k : Int) : Int :=
  ((List.range 160).foldl (fun (p : Int × Int) i => (p.1 + p.2 / (2 * (i : Int) + 1), -p.2 / (k * k))) ((0 : Int), fixOne / k)).1

/-- ln 2 = 2 atanh(1/3), and π = 16 atan(1/5) - 4 atan(1/239). -/
def fixLn2 : Int := 2 * fixAtanh (fixOne / 3)
def fixPi : Int := 16 * fixAtan 5 - 4 * fixAtan 239

/-- exp of |x| ≤ 210: powers of two of the whole multiples of ln 2, a series for the rest. -/
def fixExp (x : Int) : Int :=
  let k := x / fixLn2
  let r := x - k * fixLn2
  let s := fixSeries 130 fixOne r (fun _ => 1) (fun i => (i : Int) + 1)
  if 0 ≤ k then s * 2 ^ k.toNat else s / 2 ^ (-k).toNat

/-- ln of m times 2 to the e. -/
def fixLn (m : Nat) (e : Int) : Int :=
  let l := Nat.log2 m
  let y : Int := (m * 2 ^ 640 / 2 ^ l : Nat)
  2 * fixAtanh (fixDiv (y - fixOne) (y + fixOne)) + (e + l) * fixLn2

/-- 1 / √(m times 2 to the e). -/
def fixRsqrt (m : Nat) (e : Int) : Int := (Nat.sqrt (2 ^ (1280 - e).toNat / m) : Nat)

/-- cos of |x| ≤ 2π. -/
def fixCos (x : Int) : Int :=
  fixSeries 130 fixOne (fixMul x x) (fun _ => -1) (fun i => (2 * (i : Int) + 1) * (2 * i + 2))

/-- Past this magnitude (200) a function's distance from its limit is far below the least FP32 value's. -/
def fixFar : Int := 200 * fixOne
/-- What stands for that distance: 2 to the minus 300. -/
def fixTiny : Int := 2 ^ 340

def fixExpAny (x : Int) : Int := if fixFar ≤ x then fixExp fixFar else if x ≤ -fixFar then fixTiny else fixExp x

/-- sigmoid, and tanh of a magnitude. -/
def fixSigmoid (x : Int) : Int :=
  let e := fixExpAny (if 0 ≤ x then -x else x)
  if 0 ≤ x then fixDiv fixOne (fixOne + e) else fixDiv e (fixOne + e)

def fixTanh (x : Int) : Int :=
  let e := fixExpAny (-2 * x)
  fixDiv (fixOne - e) (fixOne + e)

/-- Φ of |x| ≤ 16: 1/2 plus the density times the sum of x^(2n+1) / (2n+1)!!. -/
def fixPhi (x : Int) : Int :=
  let xx := fixMul x x
  let density := fixDiv (fixExp (-xx / 2)) (Nat.sqrt ((2 * fixPi * fixOne).toNat) : Nat)
  fixOne / 2 + fixMul density (fixSeries 780 x xx (fun _ => 1) (fun i => 2 * (i : Int) + 3))

/-- A × Φ(A) and A × sigmoid(A). -/
def fixGelu (x : Int) : Int :=
  if 16 * fixOne < x then x - 1 else if x < -16 * fixOne then -fixTiny else fixMul x (fixPhi x)

def fixSilu (x : Int) : Int :=
  if fixFar ≤ x then x - 1 else if x ≤ -fixFar then -fixTiny else fixMul x (fixSigmoid x)

/-! ### A value within so many ulp -/

/-- The FP32 values within `ulps` units in the last place of the exact result `a` (in fixed point; the bound is widened by 2 to the
minus 400, far past what the fixed point can be wrong by), in units of half of that place: below a power of two FP32 has those too. -/
def candidatesNear (ulps a : Int) : Int × List Int :=
  let q : Int := if a = 0 then -149 else max (ilog2 a.natAbs (-640) - 23) (-149)
  let u : Int := 2 ^ (640 + q - 1).toNat
  let slack : Int := 2 ^ 240
  let lo := -((2 * ulps * u + slack - a) / u)
  let hi := (a + 2 * ulps * u + slack) / u
  let l := (List.range ((hi - lo).toNat + 1)).map (fun i => lo + (i : Int))
  (q - 1, l.filter (fun n => n % 2 == 0 || (decide (n.natAbs < 2 ^ 24) && decide (-149 < q))))

/-- One of them: which one is `pick`'s to say (R133). -/
def within (ulps : Int) (a : Int) (pick : Nat) : Num :=
  let (q, l) := candidatesNear ulps a
  let n := l.getD (pick % l.length) 0
  fp32 (.fin (if n = 0 then decide (a < 0) else decide (n < 0)) n.natAbs q)

/-- The open choice of function `op` at these input bits (log entry 15). -/
def openWithin (op bits : Nat) (ulps a : Int) : Num := within ulps a (Sys2Proof.Config.func op bits)

/-- The value of FP32 bits. -/
def ofBits (b : Nat) : Num := Fmt.fp32.decode b

def minusZero : Num := .fin true 0 0
def half : Num := .fin false 1 (-1)

/-- EXP with its special inputs (R133): `op` and `bits` say whose input it is. -/
def expOf (op bits : Nat) : Num → Num
  | .nan => .nan
  | .inf s => if s then .zero else .inf false
  | .fin s m e => if m = 0 then Num.one else openWithin op bits 2 (fixExpAny (fixOf s m e))

def expF (x : Num) : Num := expOf 0x20 (fp32Bits x) x

/-- EXPSUB: its two inputs give the exact difference (DEDUCED: R133 bounds the whole function, log entry 15). -/
def expsubF (a b : Num) : Num := expOf 0x18 (fp32Bits a * 2 ^ 32 + fp32Bits b) (Num.sub a b)

def logF : Num → Num
  | .nan => .nan
  | .inf s => if s then .nan else .inf false
  | .fin s m e =>
    if m = 0 then .inf true else if s then .nan
    else openWithin 0x21 (fp32Bits (.fin s m e)) 2 (fixLn m e)

def rsqrtF : Num → Num
  | .nan => .nan
  | .inf s => if s then .nan else .zero
  | .fin s m e =>
    if m = 0 then .inf s else if s then .nan
    else openWithin 0x1B (fp32Bits (.fin s m e)) 1 (fixRsqrt m e)

def sigmoidF : Num → Num
  | .nan => .nan
  | .inf s => if s then .zero else Num.one
  | .fin s m e => if m = 0 then half else openWithin 0x22 (fp32Bits (.fin s m e)) 2 (fixSigmoid (fixOf s m e))

def tanhF : Num → Num
  | .nan => .nan
  | .inf s => .fin s 1 0
  | .fin s m e =>
    if m = 0 then .fin s 0 0
    else
      let t := fixTanh (fixOf false m e)
      openWithin 0x23 (fp32Bits (.fin s m e)) 2 (if s then -t else t)

/-- GELU and SILU share their special inputs. -/
def gateF (f : Bool → Nat → Int → Num) : Num → Num
  | .nan => .nan
  | .inf s => if s then minusZero else .inf false
  | .fin s m e => if m = 0 then .fin s 0 0 else f s m e

def siluF (x : Num) : Num := gateF (fun s m e => openWithin 0x25 (fp32Bits x) 2 (fixSilu (fixOf s m e))) x

/-- GELU: the erf form is A × Φ(A); the spec does not give the tanh form's formula, so its finite values are wholly open (log
entry 15). -/
def geluF (tanhForm : Bool) (x : Num) : Num :=
  gateF (fun s m e =>
    if tanhForm then ofBits (Sys2Proof.Config.func 0x124 (fp32Bits x))
    else openWithin 0x24 (fp32Bits x) 2 (fixGelu (fixOf s m e))) x

/-- The cosine of R134, with the accuracy that R133 gives the other functions (log entry 15). -/
def cosF : Num → Num
  | .fin s m e => openWithin 0x133 (fp32Bits (.fin s m e)) 2 (fixCos (fixOf s m e))
  | _ => .nan

end Sys2Proof.Machine
end

