-- ==== Sys2Proof/Machine/Vector.lean ====
section
/-! DEFINITION. The vector and transpose engines on one slot (06_vector_transpose.md). -/

namespace Sys2Proof.Machine

/-! ### Arithmetic -/

/-- Two zeros: minus zero only where both are (or, for MIN, where either is). -/
def numMax (a b : Num) : Num :=
  if a.isNan || b.isNan then .nan
  else if Num.lt a b then b
  else if Num.lt b a then a
  else if a.isZero then .fin (a.isNeg && b.isNeg) 0 0
  else a

/-- MIN (R130). -/
def numMin (a b : Num) : Num :=
  if a.isNan || b.isNan then .nan
  else if Num.lt a b then a
  else if Num.lt b a then b
  else if a.isZero then .fin (a.isNeg || b.isNeg) 0 0
  else a

def addF (a b : Num) : Num := fp32 (Num.add a b)
def subF (a b : Num) : Num := fp32 (Num.sub a b)
def mulF (a b : Num) : Num := fp32 (Num.mul a b)
def fmaF (a b c : Num) : Num := fp32 (Num.add (Num.mul a b) c)
def divF (a b : Num) : Num := fp32 (Num.divide a b)
def sqrtF (a : Num) : Num := fp32 (Num.root a)
def recipF (a : Num) : Num := divF Num.one a

/-! ### Random numbers (R134) -/

/-- One round of the generator. -/
def cbgRound (x : BitVec 64) : BitVec 64 :=
  let x := (x ^^^ (x >>> 31)) * 0xB7E151628AED2A6B#64
  x ^^^ (x >>> 29)

def cbg (seed : BitVec 64) (stream index : Nat) : BitVec 64 :=
  cbgRound (cbgRound (cbgRound (cbgRound (seed ^^^ (BitVec.ofNat 64 stream <<< 48) ^^^ BitVec.ofNat 64 index))))

/-- The element's index in the whole operation, in planned bounds of the levels inside each level. -/
def cbgIndex (s : Shape2) (idx : List Nat) : Nat :=
  (List.range s.env.runs.length).foldl (fun acc l =>
    match s.env.runs[l]? with
    | some r =>
      let inner := s.env.runs.foldl (fun p q => if q.lv.order < r.lv.order then p * q.lv.bound else p) 1
      acc + (idx.getD l 0 + r.lo) * inner
    | none => acc) 0

def uniform24 (x : BitVec 64) : Nat := field x.toNat 63 40

/-- RNGU. -/
def rngu (x : BitVec 64) : Num := .fin false (uniform24 x) (-24)

/-- The product of 2π with `u` 2^-24, rounded to FP32 once: 2π is held to 160 bits, far past what rounding needs. -/
def twoPiTimes (u : Nat) : Num :=
  if u = 0 then .zero else fp32 (.fin false (2 * (0x3243F6A8885A308D313198A2E03707344A4093822 * u) + 1) (-160 - 24))

/-- RNGN: √(−2 ln u1) × cos(2π u2). -/
def rngn (x : BitVec 64) : Num :=
  let u1 : Num := fp32 (.fin false (uniform24 x + 1) (-24))
  let c := cosF (twoPiTimes (field x.toNat 39 16))
  mulF (sqrtF (mulF (.fin true 2 0) (logF u1))) c

/-- DROPMASK. -/
def dropmask (arg : Nat) (x : BitVec 64) : Num := if uniform24 x < arg * 256 then Num.one else .zero

/-! ### A vector operation on a slot -/

structure VxRun where
  s : Shape2
  o : VxOp
  va : View
  vb : View
  vc : View

def vxRun (d : Dev) (i : Issue) (o : VxOp) : VxRun :=
  let s := shapeOf d i o.ldesc.toNat
  let c := d.ctx i.t
  { s := s, o := o
    va := viewOf c s.x i.n .a 0 (i.base o.baseA.toNat) s.x.fa
    vb := viewOf c s.x i.n .b 1 (i.base o.baseB.toNat) s.x.fb
    vc := viewOf c s.x i.n .c 2 (i.base o.baseC.toNat) s.x.fc }

def VxRun.runs (r : VxRun) : List Run := r.s.env.runs

/-- An input converted to FP32 (R129). -/
def VxRun.input (r : VxRun) (x : Num) : Num := x.toFp32 r.o.sat

/-- A BLK40 element in a frame (R318, R322): its offset in bytes and its scale byte's. -/
def blk40At (e : Int) : Int × Int :=
  let f := e / 768
  let r := e % 768
  (4096 * f + 5 * r, 4096 * f + 3840 + r / 32)

/-- A BLK40 element's value (R317, R322). -/
def blk40Value (int40 scale : Nat) : Num :=
  if scale = 0xFF then .nan
  else if scale = 0 then .zero
  else Num.mul (Num.ofInt (sext 40 int40)) (.fin false 1 ((scale : Int) - 155))

/-- The byte addresses of a BLK40 element and its scale. -/
def blk40Bytes (v : View) (e : Int) : List Int :=
  let (p, q) := blk40At e
  ((List.range 5).map (fun j => (v.base : Int) + p + (j : Int))) ++ [(v.base : Int) + q]

/-- Read an operand once per element, ascending; BLK40 by its frames. -/
def readOperand (env : Env) (v : View) (idxs : List (List Nat)) (x : Ex) : List (Int × Num) × Ex :=
  if v.fmt = .blk40 then
    (sortedElems env v idxs).foldl (fun (acc : List (Int × Num) × Ex) e =>
      let as_ := blk40Bytes v e.1
      let y := access env v e.2 as_ [] acc.2
      if acc.2.live ∧ y.stop.isNone then
        (acc.1 ++ [(e.1, blk40Value (rdNat y.d (as_.headD 0).toNat 5) (rdByte y.d (as_.getLastD 0).toNat).toNat)], y)
      else (acc.1, y)) ([], x)
  else readTile env v idxs x

/-! ### The elements of a tile step by their pointer-list entry -/

/-- The elements of a tile step that one pointer-list entry serves, with its handles (R118); without a list, all of them. -/
structure Group where
  entry : Nat
  idxs : List (List Nat)
  hs : List (Option Nat)

/-- The groups of a tile step. Its entries are read before its operands (DESIGN CHOICE, log entry 66). -/
def tileGroups (s : Shape2) (steps : List Nat) (x : Ex) : List Group × Ex :=
  let idxs := tileIdx s.env.runs steps
  match plistLevel s.x with
  | none => ([{ entry := 0, idxs := idxs, hs := [] }], x)
  | some l =>
    let es := match s.env.runs[l]? with | some q => q.valid (steps.getD l 0) | none => []
    es.foldl (fun (acc : List Group × Ex) e =>
      let mine := idxs.filter (fun ix => ix.getD l 0 == e)
      let (hs, y) := readEntry s (s.i.base s.x.plistBase) e (mine.headD []) acc.2
      if y.live then (acc.1 ++ [{ entry := e, idxs := mine, hs := hs }], y) else (acc.1, y)) ([], x)

/-- The values read, by index vector. -/
abbrev Got := List (List Nat × Num)

def Got.at (l : Got) (ix : List Nat) : Num :=
  match l.find? (fun p => p.1 == ix) with
  | some p => p.2
  | none => .zero

/-- Read one operand over a tile step's groups. `j` is the operand's handle in an entry. -/
def readGroups (env : Env) (rd : View → List (List Nat) → Ex → List (Int × Num) × Ex) (v : View) (j : Nat) (gs : List Group)
    (x : Ex) : Got × Ex :=
  gs.foldl (fun (acc : Got × Ex) g =>
    let (l, y) := rd (v.rebase g.hs[j]?) g.idxs acc.2
    (acc.1 ++ g.idxs.filterMap (fun ix => (l.find? (fun p => p.1 == offsetOf env.runs v.sel ix)).map (fun p => (ix, p.2))), y)) ([], x)

/-- Write outputs to one operand, each group's at its own base. -/
def writeGroups (env : Env) (v : View) (j : Nat) (sat : Bool) (gs : List Group) (outs : Group → List (List Nat × Num)) (x : Ex) : Ex :=
  gs.foldl (fun x g => writeTile env (v.rebase g.hs[j]?) sat ((outs g).map (fun o => (o.1, some o.2))) x) x

/-- Write the outputs of a vector operation and count them where STATS is set (R101). -/
def VxRun.put (r : VxRun) (gs : List Group) (outs : Group → List (List Nat × Num)) (x : Ex) : Ex :=
  gs.foldl (fun x g =>
    let vc := r.vc.rebase g.hs[2]?
    let y := writeTile r.s.env vc r.o.sat ((outs g).map (fun o => (o.1, some o.2))) x
    if r.o.stats && x.live then countOuts r.s.env vc r.o.sat r.s.x.fc.tag (written r.s.env vc (outs g) y) y else y) x

/-- All tile steps of the operation in visit order (R116). -/
def VxRun.steps (r : VxRun) : List (List Nat) := visit r.s.x.curve r.runs (fun _ => false)

/-- An elementwise operation (R130): which operands it reads and its result at an index. Within a tile step A is read before B and B
before C (DESIGN CHOICE, log entry 66). -/
def vxElem (useA useB useC : Bool) (f : VxRun → List Nat → Num → Num → Num → Num) (o : VxOp) (i : Issue) : SlotRun :=
  fun fuel d =>
  let r := vxRun d i o
  let env := r.s.env
  if emptyShape r.runs then (d, none)
  else runEx env fuel d (fun x => r.steps.foldl (fun x steps =>
    if !x.live then x
    else
      let (gs, x) := tileGroups r.s steps x
      let (a, x) := if useA then readGroups env (readOperand env) r.va 0 gs x else ([], x)
      let (b, x) := if useB then readGroups env (readTile env) r.vb 1 gs x else ([], x)
      let (c, x) := if useC then readGroups env (readTile env) r.vc 2 gs x else ([], x)
      if !x.live then x
      else r.put gs (fun g => g.idxs.map (fun ix => (ix, f r ix (r.input (a.at ix)) (r.input (b.at ix)) (r.input (c.at ix))))) x) x)

/-! ### Reductions (R131, R132) -/

/-- One lane of 512: the elements k with k mod 512 = lane, in ascending k. -/
def laneOf (start : Num) (op : Num → Num → Num) (l : List Num) (lane : Nat) : Num :=
  (l.zipIdx).foldl (fun acc p => if p.2 % 512 = lane then op acc p.1 else acc) start

/-- The fixed-order reduction of a row. -/
def reduceRow (start : Num) (op comb : Num → Num → Num) (l : List Num) : Num :=
  let lanes := (List.range 512).map (laneOf start op l)
  let res := [256, 128, 64, 32, 16, 8, 4, 2, 1].foldl (fun (ls : List Num) s =>
    (List.range s).map (fun i => comb (ls.getD i .zero) (ls.getD (i + s) .zero))) lanes
  res.headD start

/-- The values read of the rows in progress: each row's index vector, the index on the reduced level, the value. -/
abbrev Rows := List (List Nat × Nat × Num)

/-- A row's values in ascending index. -/
def Rows.of (l : Rows) (n : Nat) (row : List Nat) : List Num :=
  (List.range n).filterMap (fun k => (l.find? (fun g => g.1 == row && g.2.1 == k)).map (fun g => g.2.2))

/-- One tile step of an operation that folds the `n` indices of level `lv`: it reads A, and writes each row whose last value it has
read. At a stop, the rows whose reads were all made are written, and no other (R126). -/
def foldStep (lv n : Nat) (f : List Num → Num) (r : VxRun) (acc : Rows × Ex) (steps : List Nat) : Rows × Ex :=
  let (got, x) := acc
  if !x.live then acc
  else
    let (gs, x) := tileGroups r.s steps x
    let rowOf := fun (ix : List Nat) => ix.set lv 0
    let (a, x) := readGroups r.s.env (readOperand r.s.env) r.va 0 gs x
    let got := got ++ a.map (fun p => (rowOf p.1, p.1.getD lv 0, r.input p.2))
    let full := ((a.map (fun p => rowOf p.1)).dedup).filter (fun row => (got.filter (fun g => g.1 == row)).length == n)
    let lastOf := fun row => (gs.reverse.find? (fun g => g.idxs.any (fun ix => rowOf ix == row))).map (·.entry)
    let outs := fun (g : Group) => (full.filter (fun row => lastOf row == some g.entry)).map (fun row => (row, f (got.of n row)))
    let y := r.put gs outs { x with stop := none }
    (got.filter (fun g => !full.contains g.1), { y with stop := if x.stop.isSome then x.stop else y.stop })

/-- A reduction along the K level (R131); a row whose share of K is empty takes the lanes' starting value (R123). -/
def vxReduce (start : Num) (op comb : Num → Num → Num) (o : VxOp) (i : Issue) : SlotRun := fun fuel d =>
  let r := vxRun d i o
  if emptyShape r.runs then (d, none)
  else
    let lk := roleLevel r.s.x 2
    let n := match r.runs[lk]? with | some q => q.n | none => 1
    if n = 0 then
      runEx r.s.env fuel d (fun x => (visit r.s.x.curve r.runs (fun l => l == lk)).foldl (fun x steps =>
        if !x.live then x
        else
          let flat := { r.s with env := { r.s.env with runs := r.runs.mapIdx (fun l q => if l = lk then { q with n := 1 } else q) } }
          let (gs, x) := tileGroups flat steps x
          r.put gs (fun g => g.idxs.map (fun ix => (ix, start))) x) x)
    else runEx r.s.env fuel d (fun x => (r.steps.foldl (foldStep lk n (reduceRow start op comb) r) (([] : Rows), x)).2)

/-- KSUM (R99, R132): the parts of the X level of ORDER 0, added in ascending index. A row is written with the tile step that reads
the last of its parts, through that part's pointer-list entry (DESIGN CHOICE, log entry 66). -/
def vxKsum (o : VxOp) (i : Issue) : SlotRun := fun fuel d =>
  let r := vxRun d i o
  if emptyShape r.runs then (d, none)
  else
    let lx := (r.s.x.levels.findIdx? (fun l => l.role == 3 && l.order == 0)).getD 0
    let n := match r.runs[lx]? with | some q => q.n | none => 1
    runEx r.s.env fuel d (fun x =>
      (r.steps.foldl (foldStep lx n (fun l => (l.drop 1).foldl addF (l.headD .zero)) r) (([] : Rows), x)).2)

/-! ### The optimizer step (R135, R136) -/

/-- An optimizer record. -/
structure OptRec where
  kind : Nat
  lr : Num
  beta1 : Num
  beta2 : Num
  eps : Num
  wd : Num
  bc1 : Num
  bc2 : Num
  gscale : Num
  clip : Num
  plane : Nat
  delta : Int
  reserved : Nat

def OptRec.ofBytes (l : List Byte) : OptRec :=
  let f := fun o => ofBits (leAt l o 4)
  { kind := leAt l 0 4, lr := f 4, beta1 := f 8, beta2 := f 12, eps := f 16, wd := f 20, bc1 := f 24, bc2 := f 28
    gscale := f 32, clip := f 36, plane := leAt l 40 8, delta := sext 64 (leAt l 48 8), reserved := leAt l 56 8 }

/-- One element's new w, m, v. -/
def OptRec.step (q : OptRec) (a w m v : Num) : Num × Num × Num :=
  let g := mulF q.gscale a
  let g := if q.clip.isZero then g else numMax q.clip.negate (numMin q.clip g)
  let (u, m', v') :=
    if q.kind = 0 then
      let m' := addF (mulF q.beta1 m) (mulF (subF Num.one q.beta1) g)
      let v' := addF (mulF q.beta2 v) (mulF (subF Num.one q.beta2) (mulF g g))
      (divF (mulF m' q.bc1) (addF (sqrtF (mulF v' q.bc2)) q.eps), m', v')
    else
      let m' := addF (mulF q.beta1 m) g
      (m', m', v)
  (subF w (mulF q.lr (addF u (mulF q.wd w))), m', v')

/-- A byte of a slot's hand-off area. -/
def handByte (d : Dev) (k o : Nat) : Nat := (Tab.get 0 d.handoff (524288 * k + o)).toNat

/-- Read operand A of OPTSTEP from the hand-off area (R135): past 512 KiB is resource code 2; the chunk read is kept until
the second checkpoint bell after this. -/
def readHandoff (s : Shape2) (v : View) (idxs : List (List Nat)) (x : Ex) : List (Int × Num) × Ex :=
  let k := s.i.k
  (sortedElems s.env v idxs).foldl (fun (acc : List (Int × Num) × Ex) e =>
    if !acc.2.live then acc
    else
      let (p, q) := blk40At e.1
      let prev := (acc.2.last.find? (fun z => z.1 == 0)).map (·.2)
      if p < 0 ∨ 524288 ≤ max (p + 4) q then
        (acc.1, acc.2.halt (.overflow 2 (wrapInt 48 (max (p + 4) q)) (faultLevel s.env.runs prev e.2)))
      else
        let d := acc.2.d
        let int40 := leNat ((List.range 5).map (fun j => BitVec.ofNat 8 (handByte d k (p.toNat + j))))
        let fr := 128 * k + p.toNat / 4096
        let bell := interval d s.i.t
        let d := { d with frames := Tab.mod {} d.frames fr (fun z => { z with readAt := some (s.i.t, bell) }) }
        (acc.1 ++ [(e.1, blk40Value int40 (handByte d k q.toNat))],
          { acc.2 with d := d, last := (0, e.2) :: acc.2.last.filter (fun z => z.1 ≠ 0) })) ([], x)

/-- A plane of FP32 under B's strides, displaced in bytes; an address that wraps is outside every window (R113). -/
def planeView (r : VxRun) (tagNo : Nat) (disp : Int) : View :=
  { r.vb with tagNo := tagNo, disp := disp, fmt := .fp32, blocked := false }

/-- One tile step of OPTSTEP: A, w, m and v are read in this order, then the new w, m, v and C written (DESIGN CHOICE for the order
among operands, log entry 66). -/
def optTile (r : VxRun) (q : OptRec) (x : Ex) (steps : List Nat) : Ex :=
  if !x.live then x
  else
    let env := r.s.env
    let (gs, x) := tileGroups r.s steps x
    let (a, x) := readGroups env (if r.va.fmt = .blk40 then readHandoff r.s else readTile env) r.va 0 gs x
    let (w, x) := readGroups env (readTile env) (planeView r 1 0) 1 gs x
    let (m, x) := readGroups env (readTile env) (planeView r 7 q.plane) 1 gs x
    let (v, x) := if q.kind = 0 then readGroups env (readTile env) (planeView r 8 (2 * q.plane)) 1 gs x else ([], x)
    if !x.live then x
    else
      let res := fun (g : Group) => g.idxs.map (fun ix => (ix, q.step (r.input (a.at ix)) (w.at ix) (m.at ix) (v.at ix)))
      let store := fun (tagNo : Nat) (disp : Int) (sel : Num × Num × Num → Num) (x : Ex) =>
        writeGroups env (planeView r tagNo disp) 1 false gs (fun g => (res g).map (fun p => (p.1, sel p.2))) x
      let x := store 9 q.delta (·.1) x
      let x := store 10 (q.plane + q.delta) (·.2.1) x
      let x := if q.kind = 0 then store 11 (2 * q.plane + q.delta) (·.2.2) x else x
      r.put gs (fun g => (res g).map (fun p => (p.1, p.2.1))) x

/-- OPTSTEP on one slot (R136). -/
def vxOptstep (o : VxOp) (i : Issue) : SlotRun := fun fuel d =>
  let r := vxRun d i o
  if emptyShape r.runs then (d, none)
  else runEx r.s.env fuel d (fun x =>
    let rb := i.base (field o.arg.toNat 5 0)
    let x := access r.s.env (plainView 5) [] ((List.range 64).map (fun j => ((rb + j : Nat) : Int))) [] x
    if !x.live then x
    else
      let q := OptRec.ofBytes (rdBytes x.d rb 64)
      if q.delta = 0 ∨ 1 < q.kind ∨ q.reserved ≠ 0 then x.halt .badParam
      else r.steps.foldl (optTile r q) x)

/-! ### Transpose engine (R137, R138) -/

structure TxRun where
  s : Shape2
  o : TxOp
  va : View
  vb : View
  vc : View

def txRun (d : Dev) (i : Issue) (o : TxOp) : TxRun :=
  let s := shapeOf d i o.ldesc.toNat
  let c := d.ctx i.t
  { s := s, o := o
    va := viewOf c s.x i.n .a 0 (i.base o.baseSrc.toNat) s.x.fa
    vb := viewOf c s.x i.n .b 1 (i.base ((o.baseDst.toNat + 1) % 64)) s.x.fc
    vc := viewOf c s.x i.n .c 2 (i.base o.baseDst.toNat) s.x.fc }

/-- Write outputs in BLK40 (R318): the spec gives no conversion into it outside a reduction, so each element's bytes and its scale
byte are open (DESIGN CHOICE, log entry 69). -/
def writeBlk40 (env : Env) (v : View) (idxs : List (List Nat)) (x : Ex) : Ex :=
  (sortedElems env v idxs).foldl (fun (x : Ex) e =>
    let as_ := blk40Bytes v e.1
    let y := access env v e.2 as_ [] x
    if x.live ∧ y.stop.isNone then
      let (g, d) := useFree 40 y.d
      let (h, d) := useFree 8 d
      let d := unveil (as_.map (·.toNat)) d
      { y with d := wrByte (as_.getLastD 0).toNat (BitVec.ofNat 8 h) (wrBytes (as_.headD 0).toNat (leBytes 5 g) d) }
    else y) x

/-- TCOPY and TBLOCK on one slot: each element is converted once, under SAT = 1, and written to C, and under DUAL to the
second order too. The scales of a blocked output are chosen under R93. -/
def txCopy (o : TxOp) (i : Issue) : SlotRun := fun fuel d =>
  let r := txRun d i o
  let env := r.s.env
  if emptyShape env.runs then (d, none)
  else runEx env fuel d (fun x => (visit r.s.x.curve env.runs (fun _ => false)).foldl (fun x steps =>
    if !x.live then x
    else
      let (gs, x) := tileGroups r.s steps x
      let (a, x) := readGroups env (readOperand env) r.va 0 gs x
      if !x.live then x
      else
        let outs := fun (g : Group) => g.idxs.map (fun ix => (ix, (a.at ix).toFp32 true))
        let x := if r.vc.fmt = .blk40 then gs.foldl (fun x g => writeBlk40 env (r.vc.rebase g.hs[2]?) g.idxs x) x
                 else writeGroups env r.vc 2 true gs outs x
        if o.dual then writeGroups env r.vb 1 true gs outs x else x) x)

end Sys2Proof.Machine
end

