-- ==== Sys2Proof/Machine/Attn.lean ====
section
/-! DEFINITION. Attention on one slot (10_attention_pitches.md, R219 to R237): ATTN, ATTN_FIN, ATTN_BWD, KV_APPEND and
ATTN_DEC. -/

namespace Sys2Proof.Machine

/-- An attention record (R219). -/
structure AttnRec where
  hq : Nat
  hkv : Nat
  dim : Nat
  mask : Nat
  window : Bool
  scale : Num
  frame : Nat
  win : Nat
  qpos : Nat
  kpos : Nat
  layer : Nat
  fmtP : Fmt
  pool : Nat
  new : Nat
  regs : List Nat
  qstride : Nat

def AttnRec.ofBytes (l : List Byte) : AttnRec :=
  let b := fun o => leAt l o 1
  { hq := b 0, hkv := b 1, dim := b 2, mask := field (b 3) 1 0, window := bit (b 3) 2, scale := ofBits (leAt l 4 4)
    frame := leAt l 8 4, win := leAt l 12 4, qpos := field (b 16) 4 0, kpos := field (b 17) 4 0, layer := field (b 18) 4 0
    fmtP := (Fmt.ofCode (b 19)).getD .bf16, pool := field (b 20) 1 0, new := b 21
    regs := (List.range 8).map (fun i => field (b (24 + i)) 5 0), qstride := leAt l 32 4 }

/-- Query heads of a KV head. -/
def AttnRec.group (q : AttnRec) : Nat := q.hq / q.hkv

/-- An attention operation on a slot: the matrix operation, its record, its head and batch levels (R220). -/
structure AtRun where
  r : MxRun
  q : AttnRec
  head : Option Nat
  batch : Option Nat

def atRun (d : Dev) (i : Issue) (o : MxOp) : AtRun :=
  let r := mxRun d i o
  let xs := (byOrder r.runs).reverse.filter (fun l => match r.runs[l]? with | some z => z.lv.role == 3 | none => false)
  { r := r, q := AttnRec.ofBytes ((r.s.env.prog.attn).getD o.baseM.toNat []), head := xs[0]?, batch := xs[1]? }

/-- A base named by the record: K, V, STAT, LEN, DO, DK, DV, DROW at 0 to 7. -/
def AtRun.reg (a : AtRun) (n : Nat) : Nat := a.r.s.i.base (a.q.regs.getD n 0)
def AtRun.scalar (a : AtRun) (n : Nat) : Nat := a.r.s.i.scalar n

/-- The step's first index of an X level. -/
def AtRun.at_ (a : AtRun) (steps : List Nat) (l : Option Nat) : Nat :=
  match l with
  | some l => steps.getD l 0 * a.r.tile l
  | none => 0

/-- Tile depth of a pair of formats (R67). -/
def tileDepth (a b : Fmt) : Nat :=
  let w := max a.bits b.bits
  if 16 ≤ w then 64 else if 8 ≤ w then 128 else 256

/-- Cut a list into pieces of `n`; `fuel` bounds the pieces. -/
def pieces {α : Type} (n : Nat) : Nat → List α → List (List α)
  | 0, _ => []
  | fuel + 1, l => if l.isEmpty then [] else l.take n :: pieces n fuel (l.drop n)

/-- A sum of products over passes of depth `kt` (R96). -/
def dotPasses (kt : Nat) (l : List (Num × Num)) : Num :=
  (pieces kt (l.length + 1) l).foldl (fun acc p => addF acc (dot .zero p)) .zero

/-! ### The length table -/

/-- An entry of the length table (R235). -/
structure LenEntry where
  plist : Nat
  len : Nat
  new : Nat

/-- Read bytes that are no operand of the loop descriptor, as engine reads of tag `n`. -/
def readPlain (s : Shape2) (tagNo a n : Nat) (idx : List Nat) (x : Ex) : List Byte × Ex :=
  let y := access s.env (plainView tagNo) idx ((List.range n).map (fun j => ((a + j : Nat) : Int))) [] x
  if y.live then (rdBytes y.d a n, y) else ([], y)

/-- Read the entry of batch `b`; a LENGTH past 4,194,304 is resource code 4. -/
def readLen (a : AtRun) (b : Nat) (idx : List Nat) (x : Ex) : LenEntry × Ex :=
  let at_ := a.reg 3 + 16 * b
  let (l, y) := readPlain a.r.s 12 at_ 16 idx x
  let e : LenEntry := { plist := field (leAt l 0 8) 47 0, len := leAt l 8 4, new := leAt l 12 4 }
  if y.live ∧ 4194304 < e.len then (e, y.halt (.overflow 4 (at_ + 8) (faultLevel a.r.runs none idx))) else (e, y)

/-- Rule of R224 for a query position and a key position. -/
def keyMasked (q : AttnRec) (len qp kp : Nat) : Bool :=
  decide (len ≤ kp) || (q.mask == 1 && decide (qp < kp)) ||
    (q.mask == 2 && decide (qp / q.frame < kp / q.frame)) || (q.window && decide (q.win + kp ≤ qp))

/-! ### Row states -/

/-- The offset of a row's statistics from STAT, or of its DROW value in units of 4 (R220): the offset of its first O
element over D. -/
def rowNo (a : AtRun) (off : Int) : Int := off / (a.q.dim : Int)

/-- Read FP32 values that are no descriptor operand: `n` of them. -/
def readF32 (a : AtRun) (tagNo : Nat) (at_ : Int) (n : Nat) (idx : List Nat) (x : Ex) : List Num × Ex :=
  if at_ < 0 then ([], x.halt (.overflow 6 (wrapInt 48 at_) 0))
  else
    let (l, y) := readPlain a.r.s tagNo at_.toNat (4 * n) idx x
    ((List.range n).map (fun j => ofBits (leAt l (4 * j) 4)), y)

/-- Write FP32 values. -/
def writeF32 (a : AtRun) (tagNo : Nat) (at_ : Int) (l : List Num) (idx : List Nat) (x : Ex) : Ex :=
  let bytes := l.flatMap (fun v => leBytes 4 (fp32Bits v))
  let as_ := (List.range bytes.length).map (fun j => at_ + (j : Int))
  let y := access a.r.s.env (plainView tagNo) idx as_ (wholeWords as_) x
  if x.live ∧ y.stop.isNone then
    { y with d := { wrBytes at_.toNat bytes (unveil (as_.map (·.toNat)) y.d) with badSram := y.d.badSram.filter (fun w => !(wholeWords as_).contains w) } }
  else y

/-- A row's running state (R223). -/
structure RowState where
  m : Num
  l : Num
  o : List Num

/-- One key tile on one row (R223): scores, masked ones minus infinity, then the state. A padded key adds nothing; probabilities are
converted under the slot's SAT (R95). -/
def rowTile (q : AttnRec) (sat : Bool) (kt kp : Nat) (dim : Nat) (qv : List Num) (keys : List (Bool × Bool × List Num × List Num)) (st : RowState) :
    RowState :=
  -- a key: padded, masked, its K, its V
  let s := keys.map (fun z => if z.1 || z.2.1 then Num.inf true else mulF q.scale (dotPasses kt (List.zip qv z.2.2.1)))
  if s.all (· == Num.inf true) then st
  else
    let m' := numMax st.m (reduceRow (.inf true) numMax numMax s)
    let f := expF (subF st.m m')
    let p := s.map (fun x => q.fmtP.decode (q.fmtP.encode sat (expF (subF x m'))))
    let l := addF (mulF f st.l) (reduceRow .zero addF addF p)
    let pv := fun d => dotPasses kp ((List.zip p keys).filterMap (fun z =>
      if z.2.1 then none else some (z.1, z.2.2.2.2.getD d .zero)))
    { m := m', l := l, o := (List.range dim).map (fun d => addF (mulF f (st.o.getD d .zero)) (pv d)) }

/-- Read row vectors of a view: the values of each index vector's D elements along N. -/
def readRows (a : AtRun) (v : View) (idxs : List (List Nat)) (x : Ex) : (List Nat → List Num) × Ex :=
  let full := idxs.flatMap (fun ix => (List.range a.q.dim).map (fun d => ix.set a.r.ln d))
  let (vals, y) := readTile a.r.s.env v full x
  (fun ix => (List.range a.q.dim).map (fun d => valueAt vals (offsetOf a.r.runs v.sel (ix.set a.r.ln d))), y)

/-- K and V as operands under the B strides. -/
def AtRun.viewK (a : AtRun) : View := { a.r.vb with tagNo := 14, base := a.reg 0, scaleBase := a.reg 0 + (a.r.vb.scaleBase - a.r.vb.base) }
def AtRun.viewV (a : AtRun) : View := { a.r.vb with tagNo := 15, base := a.reg 1, scaleBase := a.reg 1 + (a.r.vb.scaleBase - a.r.vb.base) }

/-- An FP32 plane at a register under B's or C's strides. -/
def AtRun.plane (a : AtRun) (sel : OpSel) (tagNo reg : Nat) : View :=
  { sel := sel, tagNo := tagNo, base := a.reg reg, fmt := .fp32, blocked := false, blk := 32, scaleBase := 0 }

/-- The index of a key: its KV head is that of the query head (R220). -/
def AtRun.keyIdx (a : AtRun) (steps : List Nat) (j : Nat) : List Nat :=
  let v := a.r.idx steps 0 0 j
  match a.head with
  | some l => v.set l (v.getD l 0 / a.q.group)
  | none => v

/-- Count a key tile skipped on the core that works the unit (R222, R225, R245). -/
def countAttnSkip (i : Issue) (unit : Nat) (d : Dev) : Dev :=
  match unitCore d i unit with
  | some core => d.modCore core (fun c => { c with attnSkip := c.attnSkip + 1 })
  | none => d

/-- Positions at or past 4,194,304 exceed the shape at issue (R224). -/
def posCheck (a : AtRun) (x : Ex) : Ex :=
  let n := fun l => match a.r.s.x.levels[l]? with | some z => z.runBound a.r.s.i.scalar | none => 0
  if 0 < n a.r.lm ∧ 4194304 < a.scalar a.q.qpos + n a.r.lm then x.halt (.shape a.r.lm a.r.va.base)
  else if 0 < n a.r.lk ∧ 4194304 < a.scalar a.q.kpos + n a.r.lk then x.halt (.shape a.r.lk a.r.vb.base)
  else x

/-- The K level of an operation has an index, so that it uses cells (R98). -/
def MxRun.cells (r : MxRun) : Bool := match r.runs[r.lk]? with | some x => x.n ≠ 0 | none => false

/-- Swap of an attention operation (R39 SWAP, R73, R74): its stationary tiles are its own passes' (R222, log entry 16). -/
def attnBanks (i : Issue) (o : MxOp) (d : Dev) : Dev :=
  d.modCtxSlot i.t i.k (fun c => let c := if o.swap then c.swapBanks (interval d i.t) else c; c.setActive {})

/-- An attention operation that uses cells: it aborts where it orders a swap, the shadow is not valid and no SLOAD is outstanding
(R74). -/
def attnStart (r : MxRun) (fuel : Option Nat) (d : Dev) (body : Ex → Ex) : Dev × Option Stop :=
  let i := r.s.i
  let cs := (d.ctx i.t).slot i.k
  if emptyShape r.runs then (d, none)
  else if r.cells && r.o.swap && !cs.shadowBank.valid && cs.sloadOut == 0 then (d, some .badParam)
  else runEx r.s.env fuel (if r.cells then attnBanks i r.o d else d) body

/-- Add each pass's partial to a region value in turn (R96). -/
def addPasses (kt : Nat) (old : Num) (l : List (Num × Num)) : Num :=
  (pieces kt (l.length + 1) l).foldl (fun acc p => addF acc (dot .zero p)) old

/-! ### ATTN -/

/-- ATTN on one slot (R223 to R226). -/
def attnSlot (modes : MxModes) (o : MxOp) (i : Issue) : SlotRun := fun fuel d =>
  let a := atRun d i o
  let r := a.r
  attnStart r fuel d (fun x =>
    (r.blocks.zipIdx).foldl (fun (x : Ex) sb =>
      if !x.live then x
      else
        let steps := sb.1
        let b := sb.2 % 2
        let ix0 := r.idx steps 0 0 0
        let (e, x) := readLen a (a.at_ steps a.batch) ix0 x
        let qp := fun m => a.scalar a.q.qpos + r.row m
        let rows := (r.valid steps r.lm).filter (fun m => decide (qp m < e.len))
        if !x.live ∨ e.new = 0 ∨ rows = [] then x
        else
          let m0 := steps.getD r.lm 0 * r.tile r.lm
          let unitOf := fun m => ((r.lane b (m - m0) 0) / 1024).toNat
          let was := openUnits x.d i
          let (_, x) := loadRegion r r.vp b steps x
          let statAt := fun m => (a.reg 2 : Int) + 8 * rowNo a (offsetOf r.runs .c (r.idx steps m 0 0))
          -- the rows' states as the region holds them
          let (sts, x) := rows.foldl (fun (acc : List RowState × Ex) m =>
            let (os, x) := (List.range a.q.dim).foldl (fun (p : List Num × Ex) dd =>
              let (v, x) := accRead r.s (r.lane b (m - m0) dd) (r.idx steps m dd 0) p.2
              (p.1 ++ [v], x)) ([], acc.2)
            let (ml, x) := if was.contains (unitOf m) then readF32 a 13 (statAt m) 2 (r.idx steps m 0 0) x
              else ([Num.inf true, Num.zero], x)
            (acc.1 ++ [{ m := ml.getD 0 .zero, l := ml.getD 1 .zero, o := os }], x)) ([], x)
          let (sts, x) := r.kTiles.foldl (fun (acc : List RowState × Ex) ks =>
            if !acc.2.live then acc
            else
              let kp := fun j => a.scalar a.q.kpos + j
              let real := ks.filter (fun j => decide (kp j < e.len))
              let masked := fun m j => keyMasked a.q e.len (qp m) (kp j)
              if real = [] then acc
              else
                let all := rows.all (fun m => real.all (masked m))
                if all && !modes.attn then (acc.1, { acc.2 with d := countAttnSkip i sb.2 acc.2.d })
                else
                  let (qf, x) := readRows a r.va (rows.map (fun m => r.idx steps m 0 0)) acc.2
                  let (kf, x) := readRows a a.viewK (real.map (a.keyIdx steps)) x
                  let (vf, x) := readRows a a.viewV (real.map (a.keyIdx steps)) x
                  if !x.live then (acc.1, x)
                  else
                    let keys := fun m => ks.map (fun j =>
                      let ix := a.keyIdx steps j
                      (!real.contains j, masked m j, kf ix, vf ix))
                    (List.zipWith (fun m st => rowTile a.q o.sat (tileDepth r.va.fmt r.vb.fmt) (tileDepth a.q.fmtP r.vb.fmt) a.q.dim
                      (qf (r.idx steps m 0 0)) (keys m) st) rows acc.1, x)) (sts, x)
          if !x.live then x
          else
            let x := (List.zip rows sts).foldl (fun x p =>
              let x := (p.2.o.zipIdx).foldl (fun x q => accWrite r.s (r.lane b (p.1 - m0) q.2) (r.idx steps p.1 q.2 0) q.1 x) x
              writeF32 a 13 (statAt p.1) [p.2.m, p.2.l] (r.idx steps p.1 0 0) x) x
            let us := unitsOf (r.start b) r.blockBytes
            if !x.live then x
            else if o.accInto then { x with d := setUnits i (openRegion us) x.d }
            else
              let x := writeRegion r { r.vc with fmt := .fp32, blocked := false } b steps rows x
              { x with d := setUnits i (closeRegion us) x.d }) (posCheck a x))

/-! ### ATTN_FIN -/

/-- The parts' merge of a row (R227). -/
def mergeParts (dim : Nat) (parts : List RowState) : RowState :=
  parts.foldl (fun st p =>
    if p.m = .inf true then st
    else
      let m' := numMax st.m p.m
      let a := expF (subF st.m m')
      let c := expF (subF p.m m')
      { m := m', l := addF (mulF a st.l) (mulF c p.l)
        o := (List.range dim).map (fun d => addF (mulF a (st.o.getD d .zero)) (mulF c (p.o.getD d .zero))) })
    { m := .inf true, l := .zero, o := List.replicate dim .zero }

/-- ATTN_FIN on one slot (R227): the first X level counts parts. -/
def attnFinSlot (o : MxOp) (i : Issue) : SlotRun := fun fuel d =>
  let a := atRun d i o
  let r := a.r
  let pl := a.head
  let n := match pl with | some l => (match r.runs[l]? with | some z => z.n | none => 1) | none => 1
  if emptyShape r.runs then (d, none)
  else runEx r.s.env fuel d (fun x =>
    (visit r.s.x.curve r.runs (fun l => l == r.lk || some l == pl)).foldl (fun (x : Ex) steps =>
      if !x.live then x
      else
        let part := fun m p => let v := r.idx steps m 0 0; match pl with | some l => v.set l p | none => v
        let va := { r.va with fmt := .fp32, blocked := false }
        (r.valid steps r.lm).foldl (fun x m =>
          let (ps, x) := (List.range n).foldl (fun (acc : List RowState × Ex) p =>
            let (f, x) := readRows a va [part m p] acc.2
            let (ml, x) := readF32 a 13 ((a.reg 2 : Int) + 8 * rowNo a (offsetOf r.runs .a (part m p))) 2 (part m p) x
            (acc.1 ++ [{ m := ml.getD 0 .zero, l := ml.getD 1 .zero, o := f (part m p) }], x)) ([], x)
          if !x.live then x
          else
            let st := mergeParts a.q.dim ps
            let ov := st.o.map (fun v => if st.l.isZero then Num.zero else mulF v (recipF st.l))
            let outs := (List.range a.q.dim).map (fun dd => (r.idx steps m dd 0, ov.getD dd .zero))
            let y := writeTile r.s.env r.vc o.sat (outs.map (fun z => (z.1, some z.2))) x
            let y := countOuts r.s.env r.vc o.sat r.s.x.fc.tag (written r.s.env r.vc outs y) y
            writeF32 a 13 ((a.reg 2 : Int) + 8 * rowNo a (offsetOf r.runs .c (r.idx steps m 0 0))) [st.m, st.l] (r.idx steps m 0 0) y) x) x)

/-! ### ATTN_BWD -/

/-- ATTN_BWD on one slot (R228): query tiles outer, key tiles inner. dO has the layout of C and the format of Q; dK and
dV have that of K and V. -/
def attnBwdSlot (modes : MxModes) (o : MxOp) (i : Issue) : SlotRun := fun fuel d =>
  let a := atRun d i o
  let r := a.r
  let kt := tileDepth r.va.fmt r.vb.fmt
  let kp2 := tileDepth a.q.fmtP r.vb.fmt
  attnStart r fuel d (fun x =>
    (r.blocks.zipIdx).foldl (fun (x : Ex) sb =>
      if !x.live then x
      else
        let steps := sb.1
        let b := sb.2 % 2
        let (e, x) := readLen a (a.at_ steps a.batch) (r.idx steps 0 0 0) x
        let qp := fun m => a.scalar a.q.qpos + r.row m
        let rows := (r.valid steps r.lm).filter (fun m => decide (qp m < e.len))
        if !x.live ∨ e.new = 0 ∨ rows = [] then x
        else
          let m0 := steps.getD r.lm 0 * r.tile r.lm
          let (_, x) := loadRegion r r.vp b steps x
          let rowIx := fun m => r.idx steps m 0 0
          let no := fun m => rowNo a (offsetOf r.runs .c (rowIx m))
          let vdo : View := { r.va with sel := .c, tagNo := 16, base := a.reg 4, scaleBase := a.reg 4 + (r.va.scaleBase - r.va.base) }
          let x := r.kTiles.foldl (fun (x : Ex) ks =>
            if !x.live then x
            else
              let kpos := fun j => a.scalar a.q.kpos + j
              let real := ks.filter (fun j => decide (kpos j < e.len))
              let masked := fun m j => keyMasked a.q e.len (qp m) (kpos j)
              if real = [] then x
              else if rows.all (fun m => real.all (masked m)) && !modes.attn then { x with d := countAttnSkip i sb.2 x.d }
              else
                let (qf, x) := readRows a r.va (rows.map rowIx) x
                let (kf, x) := readRows a a.viewK (real.map (a.keyIdx steps)) x
                let (vf, x) := readRows a a.viewV (real.map (a.keyIdx steps)) x
                let (gf, x) := readRows a vdo (rows.map rowIx) x
                let (st, x) := rows.foldl (fun (acc : List (List Num) × Ex) m =>
                  let (ml, x) := readF32 a 13 ((a.reg 2 : Int) + 8 * no m) 2 (rowIx m) acc.2
                  let (dr, x) := readF32 a 17 ((a.reg 7 : Int) + 4 * no m) 1 (rowIx m) x
                  (acc.1 ++ [ml ++ dr], x)) ([], x)
                if !x.live ∨ rows.all (fun m => real.all (masked m)) then x
                else
                  let rnd := fun v => a.q.fmtP.decode (a.q.fmtP.encode o.sat v)
                  let cell := fun m j =>
                    let z := st.getD (rows.idxOf m) []
                    let kx := a.keyIdx steps j
                    let s := mulF a.q.scale (dotPasses kt (List.zip (qf (rowIx m)) (kf kx)))
                    let p := if masked m j then Num.zero
                      else rnd (mulF (expF (subF s (z.getD 0 .zero))) (recipF (z.getD 1 .zero)))
                    let dp := dotPasses kt (List.zip (gf (rowIx m)) (vf kx))
                    (p, rnd (mulF p (subF dp (z.getD 2 .zero))))
                  -- dQ into the region
                  let x := rows.foldl (fun x m => (List.range a.q.dim).foldl (fun x dd =>
                    let lane := r.lane b (m - m0) dd
                    let (old, x) := accRead r.s lane (r.idx steps m dd 0) x
                    accWrite r.s lane (r.idx steps m dd 0) (addPasses kp2 old (real.map (fun j => ((cell m j).2, (kf (a.keyIdx steps j)).getD dd .zero)))) x) x) x
                  -- dV and dK into their planes
                  let addPlane := fun (tagNo reg : Nat) (f : Nat → Nat → Num) (x : Ex) =>
                    let v := a.plane .b tagNo reg
                    let ixs := real.map (a.keyIdx steps)
                    let (old, x) := readRows a v ixs x
                    if !x.live then x
                    else writeTile r.s.env v false (real.flatMap (fun j => (List.range a.q.dim).map (fun dd =>
                      ((a.keyIdx steps j).set r.ln dd, some (addF ((old (a.keyIdx steps j)).getD dd .zero) (f j dd)))))) x
                  let x := addPlane 18 6 (fun j dd => dotPasses kp2 (rows.map (fun m => ((cell m j).1, (gf (rowIx m)).getD dd .zero)))) x
                  addPlane 19 5 (fun j dd => mulF a.q.scale (dotPasses kp2 (rows.map (fun m => ((cell m j).2, (qf (rowIx m)).getD dd .zero))))) x) x
          let us := unitsOf (r.start b) r.blockBytes
          if !x.live then x
          else if o.accInto then { x with d := setUnits i (openRegion us) x.d }
          else
            -- SCALE is applied once, at the write
            let (outs, x) := rows.foldl (fun (acc : List (List Nat × Num) × Ex) m => (List.range a.q.dim).foldl (fun acc dd =>
              let (v, x) := accRead r.s (r.lane b (m - m0) dd) (r.idx steps m dd 0) acc.2
              (acc.1 ++ [(r.idx steps m dd 0, mulF a.q.scale v)], x)) acc) ([], x)
            let y := writeTile r.s.env r.vc o.sat (outs.map (fun z => (z.1, some z.2))) x
            let y := countOuts r.s.env r.vc o.sat r.s.x.fc.tag (written r.s.env r.vc outs y) y
            { y with d := setUnits i (closeRegion us) y.d }) (posCheck a x))

/-! ### Pitches -/

def Dev.pool (d : Dev) (p : Nat) : Pool := Tab.get {} d.pools p
def Dev.modPool (d : Dev) (p : Nat) (f : Pool → Pool) : Dev := { d with pools := Tab.mod {} d.pools p f }
def Pool.dim (p : Pool) : Nat := if p.d128 then 128 else 64
def Pool.fmtOf (p : Pool) : Fmt := (Fmt.ofCode p.fmt).getD .bf16
/-- Bytes of a slice (R231). -/
def Pool.slice (p : Pool) : Nat := 32 * p.dim * (p.fmtOf.bits / 8)
def Pool.pitchBytes (p : Pool) : Nat := p.layers * p.hkv * p.slice

/-- Read bytes of a pool's tables and pitches by name (R279): they lie in any SRAM and in stack memory (R231), past the reach of
R125's check 1 (log entry 38); a bad SRAM word or a stack block that cannot be rebuilt stops (R251, R440). -/
def poolRead (at_ n : Nat) (x : Ex) : List Byte × Ex :=
  if !x.live then ([], x)
  else match (List.range n).find? (fun j => x.d.badSram.contains (wordOf (physical x.d (at_ + j)))) with
    | some j => ([], x.halt (.ecc (physical x.d (at_ + j))))
    | none => match (List.range n).find? (fun j => blockBad x.d (physical x.d (at_ + j))) with
      | some j => ([], x.halt (.block (physical x.d (at_ + j))))
      | none => (hubRd x.d at_ n, x)

/-- The pitch of token position `pos` of a page list: an entry that is not VALID is resource code 4 (R233, R235). -/
def pitchOf (a : AtRun) (plist pos : Nat) (x : Ex) : Nat × Ex :=
  let (l, x) := poolRead (plist + 4 * (pos / 16)) 4 x
  let e := leAt l 0 4
  if x.live ∧ !bit e 20 then (0, x.halt (.overflow 4 (plist + 4 * (pos / 16)) (faultLevel a.r.runs none []))) else (field e 19 0, x)

/-- ADDR and REFS of a pitch (R232). -/
def pitchEntry (p : Pool) (n : Nat) (x : Ex) : (Nat × Nat) × Ex :=
  let (l, x) := poolRead (p.table + 32 * n) 12 x
  ((field (leAt l 0 8) 47 0, leAt l 8 4), x)

/-- The capacity in entries of the page list at an address: its sequence's CAP (R234). -/
def listCap (d : Dev) (p : Pool) (plist : Nat) : Option Nat :=
  (List.range p.seqs).findSome? (fun s =>
    let e := hubRd d (p.seq + 48 * s) 48
    if field (leAt e 0 8) 47 0 = plist then some (leAt e 12 4) else none)

/-- The checks of R235 on a batch entry for KV_APPEND and ATTN_DEC, before any read or write of its work: NEW within the
plan and within LENGTH, LENGTH within the capacity of its page list. -/
def lenChecks (a : AtRun) (p : Pool) (b : Nat) (e : LenEntry) (x : Ex) : Ex :=
  let long := match listCap x.d p e.plist with | some c => decide (16 * c < e.len) | none => false
  if a.q.new < e.new ∨ e.len < e.new ∨ long = true then x.halt (.overflow 4 (a.reg 3 + 16 * b + 8) (faultLevel a.r.runs none [])) else x

/-- The batch entries of the operation, read and checked at issue. -/
def batchEntries (a : AtRun) (p : Pool) (x : Ex) : List LenEntry × Ex :=
  let n := match a.batch with | some l => (match a.r.runs[l]? with | some z => z.n | none => 1) | none => 1
  (List.range n).foldl (fun (acc : List LenEntry × Ex) b =>
    let (e, x) := readLen a b [] acc.2
    (acc.1 ++ [e], if e.new = 0 then x else lenChecks a p b e x)) ([], x)

/-- A token that KV_APPEND writes: its block, its row, its position and its pitch's address. -/
structure NewToken where
  steps : List Nat
  m : Nat
  pos : Nat
  addr : Nat

/-- The tokens of KV_APPEND with their target pitches: each pitch must have REFS = 1, which is checked of all of them before anything
is written (R236). -/
def newTokens (a : AtRun) (p : Pool) (es : List LenEntry) (x : Ex) : List NewToken × Ex :=
  let r := a.r
  r.blocks.foldl (fun (acc : List NewToken × Ex) steps =>
    let e := es.getD (a.at_ steps a.batch) { plist := 0, len := 0, new := 0 }
    ((r.valid steps r.lm).filter (fun m => decide (r.row m < e.new))).foldl (fun (acc : List NewToken × Ex) m =>
      let pos := e.len - e.new + r.row m
      let (n, x) := pitchOf a e.plist pos acc.2
      let (ar, x) := pitchEntry p n x
      let x := if x.live ∧ ar.2 ≠ 1 then x.halt (.badPitch n) else x
      (acc.1 ++ [{ steps := steps, m := m, pos := pos, addr := ar.1 }], x)) acc) ([], x)

/-- KV_APPEND on one slot (R236). -/
def kvAppendSlot (o : MxOp) (i : Issue) : SlotRun := fun fuel d =>
  let a := atRun d i o
  let r := a.r
  let p := d.pool a.q.pool
  let e8 := p.fmtOf.bits / 8
  if emptyShape r.runs then (d, none)
  else runEx r.s.env fuel d (fun x =>
    let (es, x) := batchEntries a p x
    let layer := a.scalar a.q.layer
    let (ts, x) := newTokens a p es x
    let src := fun (tagNo reg : Nat) =>
      ({ r.va with tagNo := tagNo, base := a.reg reg, fmt := p.fmtOf, blocked := false } : View)
    ts.foldl (fun x t =>
      let put := fun (v : View) (slot : Nat) (x : Ex) =>
        let ixs := (List.range a.q.dim).map (fun dd => r.idx t.steps t.m dd 0)
        let (_, y) := readTile r.s.env v ixs x
        if !y.live then y
        else
          let dst := t.addr + (layer * p.hkv + a.at_ t.steps a.head) * p.slice + slot * p.dim * e8
          let bytes := ixs.flatMap (fun ix => leBytes e8 (v.rawBits y.d (offsetOf r.runs .a ix)))
          let as_ := (List.range bytes.length).map (fun j => physical y.d (dst + j))
          let ws := wholeWords (as_.map (fun a => (a : Int)))
          { y with d := { hubWr dst bytes (unveil as_ y.d) with badSram := y.d.badSram.filter (fun w => !ws.contains w) } }
      put (src 15 1) (16 + t.pos % 16) (put (src 14 0) (t.pos % 16) x)) x)

/-- The descriptor as ATTN_DEC's queries see it: the M level counts parts, and no part moves a query (R237). -/
def AtRun.queryRuns (a : AtRun) : List Run :=
  a.r.runs.mapIdx (fun l x => if l = a.r.lm then { x with lv := { x.lv with strideA := 0 } } else x)

/-- ATTN_DEC on one slot (R237): parts on the M level, G query heads of each KV head together. The rows of a part write
their state at the C strides, with QSTRIDE between new tokens as in A (log entry 17). -/
def attnDecSlot (modes : MxModes) (o : MxOp) (i : Issue) : SlotRun := fun fuel d =>
  let a := atRun d i o
  let r := a.r
  let p := d.pool a.q.pool
  let e8 := p.fmtOf.bits / 8
  let kb := match r.s.x.levels[r.lk]? with | some l => l.bound | none => 0
  let aq := { a with r := { r with s := { r.s with env := { r.s.env with runs := a.queryRuns } } } }
  let parts := r.blocks.flatMap (fun steps => (r.valid steps r.lm).map (fun m => (steps, m)))
  attnStart r fuel d (fun x =>
    let (es, x) := batchEntries a p x
    let layer := a.scalar a.q.layer
    parts.zipIdx.foldl (fun (x : Ex) sm =>
      let steps := sm.1.1
      let m := sm.1.2
      let b := a.at_ steps a.batch
      let h := a.at_ steps a.head
      let e := es.getD b { plist := 0, len := 0, new := 0 }
      if !x.live ∨ e.new = 0 then x
      else
        let part := r.row m
        let rows := (List.range a.q.group).flatMap (fun g => (List.range e.new).map (fun j => (g, j)))
        let qix := fun (g : Nat) => let v := r.idx steps m 0 0; match a.head with | some l => v.set l (h * a.q.group + g) | none => v
        let view := fun (v : View) (j : Nat) => ({ v with shift := ((j * a.q.qstride : Nat) : Int) } : View)
        let keys := (List.range kb).filterMap (fun j => let k := part * kb + j; if k < e.len then some k else none)
        -- queries
        let (qs, x) := rows.foldl (fun (acc : List (List Num) × Ex) (gj : Nat × Nat) =>
          let (f, x) := readRows aq (view r.va gj.2) [qix gj.1] acc.2
          (acc.1 ++ [f (qix gj.1)], x)) ([], x)
        let init : List RowState := rows.map (fun _ => { m := .inf true, l := .zero, o := List.replicate a.q.dim .zero })
        let (sts, x) := (pieces 128 (keys.length + 1) keys).foldl (fun (acc : List RowState × Ex) (tile : List Nat) =>
          if !acc.2.live then acc
          else
            let masked := fun (gj : Nat × Nat) k => keyMasked a.q e.len (e.len - e.new + gj.2) k
            let all := rows.all (fun gj => tile.all (masked gj))
            if all && !modes.attn then (acc.1, { acc.2 with d := countAttnSkip i sm.2 acc.2.d })
            else
              let (kv, x) := tile.foldl (fun (q : List (List Num × List Num) × Ex) (k : Nat) =>
                let (n, x) := pitchOf a e.plist k q.2
                let (ar, x) := pitchEntry p n x
                let at_ := ar.1 + (layer * p.hkv + h) * p.slice
                let vec := fun (l : List Byte) => (List.range a.q.dim).map (fun dd => p.fmtOf.decode (leAt l (dd * e8) e8))
                let (kbs, x) := poolRead (at_ + (k % 16) * p.dim * e8) (p.dim * e8) x
                let (vbs, x) := poolRead (at_ + (16 + k % 16) * p.dim * e8) (p.dim * e8) x
                (q.1 ++ [(vec kbs, vec vbs)], x)) ([], acc.2)
              if !x.live then (acc.1, x)
              else
                let upd := fun (gj : Nat × Nat) (st : RowState × List Num) =>
                  rowTile a.q o.sat (tileDepth r.va.fmt p.fmtOf) (tileDepth a.q.fmtP p.fmtOf) a.q.dim st.2
                    (List.zipWith (fun k z => (false, masked gj k, z.1, z.2)) tile kv) st.1
                (List.zipWith upd rows (List.zip acc.1 qs), x)) (init, x)
        if !x.live then x
        else
          let x := regionCheck r.s (r.start 0) (4 * rows.length * a.q.dim) (r.idx steps m 0 0) x
          let x := (List.zip rows sts).zipIdx.foldl (fun x z =>
            let st := z.1.2
            let gj := z.1.1
            let ix := qix gj.1
            let x := (st.o.zipIdx).foldl (fun x q => accWrite r.s ((r.start 0 + 4 * (z.2 * a.q.dim + q.2) : Nat) : Int) (ix.set r.ln q.2) q.1 x) x
            let vc := { view r.vc gj.2 with fmt := .fp32, blocked := false }
            let off := offsetOf r.runs .c ix + vc.shift
            let x := writeTile r.s.env vc o.sat ((st.o.zipIdx).map (fun q => (ix.set r.ln q.2, some q.1))) x
            writeF32 a 13 ((a.reg 2 : Int) + 8 * rowNo a off) [st.m, st.l] ix x) x
          { x with d := setUnits i (closeRegion (unitsOf (r.start 0) (4 * rows.length * a.q.dim))) x.d }) x)

end Sys2Proof.Machine
end

