-- ==== Sys2Proof/Machine/Rates.lean ====
section
/-! DEFINITION. Rates and latencies of the engines as an image's plan gives them (06 R139; 10 R229; 03 R77). -/

namespace Sys2Proof.Machine

def fmtOf (code : Nat) : Fmt := (Fmt.ofCode code).getD .fp32
/-- Bits of an element; 40 for BLK40 (R139). -/
def codeBits (code : Nat) : Nat := if code = 0xA then 40 else (fmtOf code).bits

/-- Tile depth of a pair of codes (R67). -/
def depthOf (a b : Nat) : Nat := tileDepth (fmtOf a) (fmtOf b)

/-- A and B, and C of a vector operation (R129, R130, R136). -/
def vxUses (op : Nat) : Bool × Bool :=
  if op = 0x30 ∨ op = 0x31 ∨ op = 0x32 then (false, false)
  else (true, decide (op ≤ 0x06) || op == 0x0A || op == 0x18)

/-- TILE of the level of a role; 0 where there is none. -/
def roleTile (x : Desc) (r : Nat) : Nat := match x.levels.find? (fun l => l.role == r) with | some l => l.tile | none => 0

def levelOf (x : Desc) (r : Nat) : Option Level := x.levels.find? (fun l => l.role == r)

/-- A descriptor named by a bundle; all zeros where the section does not hold it. -/
def Prog.desc (p : Prog) (i : Nat) : Desc := p.descs.getD i (Desc.ofBytes [])

/-- Planned indices of a level on one core: the least share of a split level is that of 128 slots. -/
def plannedOn (l : Level) : Nat := if l.split then ceilDiv l.bound 128 else l.bound

/-- E of R139: the elements of the planned tile steps, padded lanes included; KSUM counts its parts less one. -/
def elementCount (x : Desc) (ksum : Bool) : Nat :=
  x.levels.foldl (fun acc l =>
    if ksum && l.role == 3 && l.order == 0 then acc * (l.bound - 1) else acc * (ceilDiv (plannedOn l) l.tile * l.tile)) 1

/-- Bits of an operand per counted element: none where it is broadcast on the innermost level (R139). -/
def operandBits (x : Desc) (s : OpSel) (code : Nat) : Nat :=
  match x.levels.find? (fun l => l.order == 0) with
  | some l => if l.stride s = 0 then 0 else codeBits code
  | none => codeBits code

/-- R_op and D of R139; `kind` is the KIND of an OPTSTEP's record. -/
def vxRate (op kind : Nat) : Nat × Nat :=
  if op ≤ 0x0A ∨ op = 0x13 then (512, 20)
  else if op ≤ 0x12 then (512, 36)
  else if op = 0x30 ∨ op = 0x32 then (256, 28)
  else if op = 0x40 then (if kind = 0 then 64 else 128, 40)
  else (128, 28)

/-- Cycles for which a vector operation feeds, and D: their sum is L_v of R139. An OPTSTEP of KIND 1 neither reads nor writes the v
plane. -/
def vxFeed (p : Prog) (op kind : Nat) (o : VxOp) : Nat × Nat :=
  let x := p.desc o.ldesc.toNat
  let (a, b) := vxUses op
  let inBits := (if a then operandBits x .a o.fmtIn.toNat else 0) + (if b then operandBits x .b o.fmtIn.toNat else 0)
  let outBits := operandBits x .c o.fmtOut.toNat
  let planes := if op = 0x40 then (if kind = 0 then 6 else 4) else 0
  let bits := inBits + outBits + (if op = 0x04 then outBits else 0) + planes * operandBits x .b 0
  let (rop, dep) := vxRate op kind
  let r := if bits = 0 then rop else min rop (max 1 (16384 / bits))
  (ceilDiv (elementCount x (op == 0x13)) r, dep)

/-- L_v of R139. An image does not hold the record that gives an OPTSTEP's KIND: the shorter of the two latencies counts, so that no
operation within the limit is refused. -/
def vxLatency (p : Prog) (op : Nat) (o : VxOp) : Nat :=
  let l := fun kind => let f := vxFeed p op kind o; f.1 + f.2
  if op = 0x40 then min (l 0) (l 1) else l 0

/-- Cycles for which a transpose operation moves bytes (R139). -/
def txFeed (p : Prog) (o : TxOp) : Nat :=
  let x := p.desc o.ldesc.toNat
  let e := elementCount x false
  let out := ceilDiv (e * operandBits x .c o.fmtOut.toNat) 8 * (if o.dual then 2 else 1)
  ceilDiv (max (ceilDiv (e * operandBits x .a o.fmtIn.toNat) 8) out) 1024

/-- L_t of R139. -/
def txLatency (p : Prog) (o : TxOp) : Nat := 32 + txFeed p o

/-- Array cycles as fabric cycles (R77). -/
def fabricCycles (g : Grade) (n : Nat) : Nat := match g with | .g33 => ceilDiv n 2 | .g26 => ceilDiv (5 * n) 8

/-- The scheduled latency of an attention operation in fabric cycles (R229). With a mask or a window the pairs that are computed follow
from planned positions, which an image does not hold: what remains without any pair is counted, so that no operation within the limit
is refused (DESIGN CHOICE, log entry 58). -/
def attnLatency (g : Grade) (p : Prog) (op : Nat) (o : MxOp) : Nat :=
  let x := p.desc o.ldesc.toNat
  let q := AttnRec.ofBytes (p.attn.getD o.baseM.toNat [])
  let prod := fun (f : Level → Bool) => (x.levels.filter f).foldl (fun acc l => acc * plannedOn l) 1
  let qt := (x.levels.filter (fun l => l.role == 0 || l.role == 3)).foldl (fun acc l => acc * ceilDiv (plannedOn l) l.tile) 1
  let kt := depthOf o.fmtA.toNat o.fmtB.toNat
  let kn := match levelOf x 2 with | some l => ceilDiv l.bound l.tile | none => 0
  let pairs := if q.mask ≠ 0 ∨ q.window then 0 else qt * kn
  if op = 0x20 ∨ op = 0x22 then
    let pk := if op = 0x20 then ceilDiv q.dim kt + ceilDiv 128 kt else 3 * ceilDiv q.dim kt + 2 * ceilDiv 128 kt
    let s := roleTile x 0
    fabricCycles g (184 + pairs * max (pk * (s + 128)) (2 * s + 48) + 2 * s * qt)
  else if op = 0x21 then
    let parts := prod (fun l => l.role == 0 || l.role == 3)
    let rows := prod (fun l => l.role == 0 || (l.role == 3 && l.order != 0))
    fabricCycles g (16 + ceilDiv (parts * (4 * q.dim + 8) + rows * (ceilDiv (q.dim * codeBits o.fmtC.toNat) 8 + 8)) 1024)
  else if op = 0x23 then
    let batches := match (x.levels.filter (fun l => l.role == 3)).mergeSort (fun a b => decide (a.order ≤ b.order)) with
      | _ :: b :: _ => b.bound | _ => 1
    fabricCycles g (16 + ceilDiv (batches * q.new * q.hkv * q.dim * 4 * ceilDiv (codeBits o.fmtB.toNat) 8) 1024)
  else fabricCycles g (184 + 2 * (q.group * q.new) * qt)

end Sys2Proof.Machine
end

