-- ==== Sys2Proof/Machine/Taps.lean ====
section
/-! DEFINITION. Taps of a STEP_REPLAY (08_activation_economy.md R198 to R200): which operations are captured, what they wrote,
the dumps. -/

namespace Sys2Proof.Machine

/-- A format word's 32 bits (R91). -/
def FmtWord.toNat (w : FmtWord) : Nat :=
  w.code + put 4 1 (b2n w.blocked) + put 5 1 (b2n w.blk16) + put 6 1 (b2n w.steered) + put 7 3 w.rsv + put 10 6 w.mapIndex +
    put 16 16 w.tag

/-- Bytes of `n` packed elements of `w` bits (R88). -/
def packedBytes (w n : Nat) : Nat :=
  if w = 4 then ceilDiv n 2 else if w = 6 then 3 * ceilDiv n 4 else n * (w / 8)

/-- A tap entry selects an operation (R198): by the tag of its output, or by its bundle and slot. -/
def tapSelects (x : List Byte) (engine pc tag : Nat) : Bool :=
  if leAt x 0 1 = 0 then decide (engine ≤ 1) && tag != 0 && tag == leAt x 2 2
  else leAt x 1 1 == engine && leAt x 2 2 == pc

def modRep (t : CtxId) (f : StepRep → StepRep) (d : Dev) : Dev := d.modCtx t (fun c => { c with srep := c.srep.map f })

/-- An operation issues: the taps that select it count it, and those whose occurrence it is capture it (R198). `op` is 0, or one more
than a porter operation's number. -/
def tapOpen (t : CtxId) (engine pc op tag : Nat) (ks : List Nat) (d : Dev) : Dev :=
  match (d.ctx t).srep with
  | none => d
  | some r =>
    let hits := (r.taps.zipIdx).filter (fun p => tapSelects p.1 engine pc tag && !r.stopped.contains p.2)
    if hits.isEmpty ∨ ks.isEmpty then d
    else
      let d := modRep t (fun r =>
        let seen := hits.foldl (fun l p => l.set p.2 (l.getD p.2 0 + 1)) r.seen
        let new := hits.filterMap (fun p =>
          let n := seen.getD p.2 0
          let want := leAt p.1 4 4
          if want = 0 ∨ want = n then some ({ tap := p.2, occ := n, pc := pc, engine := engine, slots := ks, missing := ks, op := op } : TapDump)
          else none)
        { r with seen := seen, dumps := r.dumps ++ new }) d
      { d with seq := { d.seq with tapOn := true, tapLog := [] } }

/-- What an operation wrote on a slot (R199): the format word, the number of valid elements, their bytes as stored. -/
structure Written where
  word : Nat := 0
  elements : Nat := 0
  bytes : List Byte := []

/-- Elements of one width, given by their bits, packed under R88. -/
def packedWritten (word : Nat) (es : List (Nat × Nat)) : Written :=
  match es with
  | [] => { word := word }
  | (w, _) :: _ =>
    { word := word, elements := es.length
      bytes := leBytes (packedBytes w es.length) ((es.zipIdx).foldl (fun acc p => acc + p.1.2 % 2 ^ w * 2 ^ (w * p.2)) 0) }

/-- A segment (R199): header and elements; none where nothing was written. -/
def tapSegment (x : TapDump) (k : Nat) (w : Written) : List Byte :=
  if w.elements = 0 then []
  else
    leBytes 2 x.tap ++ leBytes 1 k ++ leBytes 1 0 ++ leBytes 4 x.occ ++ leBytes 2 x.pc ++ leBytes 2 0 ++ leBytes 4 w.word ++
      leBytes 4 w.elements ++ leBytes 4 w.bytes.length ++ leBytes 8 0 ++ w.bytes

/-- The dump takes what an operation wrote on a slot. -/
def TapDump.takes (engine pc op k : Nat) (x : TapDump) : Bool := x.engine == engine && x.pc == pc && x.op == op && x.missing.contains k

/-- What a slot's part of a captured operation wrote goes into its dumps: of each tap, the oldest that still misses the slot. -/
def tapGive (t : CtxId) (engine pc op k : Nat) (w : Written) (d : Dev) : Dev :=
  modRep t (fun r => { r with dumps := (r.dumps.foldl (fun (acc : List TapDump × List Nat) x =>
    if x.takes engine pc op k ∧ !acc.2.contains x.tap then
      (acc.1 ++ [{ x with missing := x.missing.filter (· ≠ k), segments := Tab.set [] x.segments k (tapSegment x k w) }], x.tap :: acc.2)
    else (acc.1 ++ [x], acc.2)) ([], [])).1 }) d

/-- The slots of a captured operation that have run: what they wrote to C, as memory holds it at the operation's end, or with
ACC_INTO their accumulator region (`acc`: its offset in the buffer and its bytes) at the end (R198). -/
def tapClose (t : CtxId) (engine pc word : Nat) (acc : Option (Nat × Nat)) (ks : List Nat) (d : Dev) : Dev :=
  if !d.seq.tapOn then d
  else
    let l := d.seq.tapLog
    let d := ks.foldl (fun d k =>
      let es : List (Nat × Nat) := match acc with
        | some (off, n) => (List.range (n / 4)).map (fun i => (32, rdNat d (accBase k + (off + 4 * i) % accSize) 4))
        | none => (l.filter (fun e => e.1 == k)).map (fun e =>
            (e.2.1, field (rdNat d (e.2.2 / 8) (ceilDiv (e.2.2 % 8 + e.2.1) 8)) (e.2.2 % 8 + e.2.1 - 1) (e.2.2 % 8)))
      tapGive t engine pc 0 k (packedWritten word es) d) d
    { d with seq := { d.seq with tapOn := false, tapLog := [] } }

/-- Resume capturing for the slots of an operation that waited (R73). -/
def tapReopen (t : CtxId) (engine pc k : Nat) (d : Dev) : Dev :=
  match (d.ctx t).srep with
  | some r =>
    if r.dumps.any (fun x => x.engine == engine && x.pc == pc && x.missing.contains k) then
      { d with seq := { d.seq with tapOn := true, tapLog := [] } }
    else d
  | none => d

/-- A dump whose operation has completed on every core (R200). -/
def tapReady (d : Dev) (t : CtxId) (x : TapDump) : Bool :=
  x.missing.isEmpty && x.slots.all (fun k => match coreOfSlot d k with
    | none => true
    | some core =>
      let c := d.core core
      let q := match x.engine with | 0 => c.mxQ | 1 => c.vxQ | 3 => c.txQ | _ => []
      q.all (fun f => !(f.ctx == t && f.slot == k)))

/-- The schedule clock holds once a captured operation has completed on every core, until its dump has landed (R200); where it
already stands, it does not go on before. -/
def tapHold (d : Dev) : Dev :=
  match d.seq.running with
  | none => d
  | some t =>
    match (d.ctx t).srep with
    | none => d
    | some r =>
      if r.dumps.any (tapReady d t) then
        { d with seq := { d.seq with mode := if d.seq.mode = .issuing then .hold else d.seq.mode, tapHold := true } }
      else d

/-- The trailer of a tap's dump (R199). -/
def tapTrailer (tap : Nat) (truncated : Bool) : List Byte :=
  leBytes 2 tap ++ leBytes 1 0xFF ++ leBytes 1 (b2n truncated) ++ List.replicate 28 0

end Sys2Proof.Machine
end

