-- ==== Sys2Proof/Machine/Engine.lean ====
section
/-! DEFINITION. Issue of the MX, VX and TX slots: which slots act, what an operation that stops does to its task (R124,
R126 to R128, R440), the queue behind a held swap (R73), engine retries (R80, R144), and the meanings of every engine
operation and engine event (03, 06, 09, 10). -/

namespace Sys2Proof.Machine

/-! ### Faults of an operation -/

/-- Capture the first fault of a task on a slot (R128): `engine` 0 MX, 1 VX, 2 PT, 3 TX; `pc` the operation's bundle. -/
def capture (pc : Nat) (t : CtxId) (k engine ldesc addr resource level : Nat) (d : Dev) : Dev :=
  let mine := match Tab.get none d.loopFaults k with | some f => f.task == t.val | none => false
  if mine then d
  else { d with loopFaults := Tab.set none d.loopFaults k (some {
    addr := addr, resource := resource, level := level, pc := pc, kind := engine, ldesc := ldesc, reported := false, task := t.val }) }

/-- Mark the capture that holds the fault the completion record reports, and no other of the task (R127, R128). -/
def markReported (t : CtxId) (k engine pc : Nat) (d : Dev) : Dev :=
  { d with loopFaults := d.loopFaults.map (fun (p : Nat × Option LoopFault) => (p.1, p.2.map (fun f =>
      if f.task = t.val then { f with reported := p.1 == k && f.kind == engine && f.pc == pc } else f))) }

/-- Abort with a cause and, where it is the cause that is reported, mark its slot's capture. -/
def abortAt (t : CtxId) (k engine pc : Nat) (st : Status) (detail : Nat) (d : Dev) : Dev :=
  let c := d.ctx t
  let taken := c.started && !endIssued d t && lowerCause st c
  let d := abortTask t st detail d
  if taken then markReported t k engine pc d else d

/-- Error record of class 1 for an SRAM word that its code cannot correct (R440, R452), its bank marked (R450). -/
def sramFault (t : CtxId) (k : Nat) (d : Dev) : Dev :=
  let c := clusterOfSlot k
  let d := { d with err := { d.err with bankMarked := d.err.bankMarked ||| BitVec.ofNat 16 (2 ^ c) } }
  let (g, d) := useFree 32 d
  errReport { cls := 1, level := 2, action := 13, status := Status.code .checksumMismatch, loc := errLoc c 6 (some k), detail := g
              ctx := some t, die := some (dieOfCluster c) } d

/-- The block number b and die d of R248 of a stack address, as the detail word of R251 holds them. -/
def blockDetail (a : Nat) : Nat :=
  let r := (a - stackBase) % 0x4000000000
  put 0 26 (r / 4096) + put 26 2 ((a - stackBase) / 0x4000000000)

/-- What the stops of an operation's slots do (R124, R126, R127, R236, R251, R286, R440): each fault is captured, and the
task aborts with the lowest status code, of the lowest slot. -/
def settleAt (pc : Nat) (t : CtxId) (engine ldesc : Nat) (stops : List (Nat × Stop)) (d : Dev) : Dev :=
  let pc := pc % 65536
  let d := stops.foldl (fun d p => match p.2 with
    | .overflow r a l => capture pc t p.1 engine ldesc a r l d
    | .shape l a => capture pc t p.1 engine ldesc a 0 l d
    | _ => d) d
  let d := match stops.find? (fun p => match p.2 with | .badParam | .badPitch _ => true | _ => false) with
    | some (k, .badPitch n) => abortAt t k engine pc .badParam n d
    | some (k, _) => abortAt t k engine pc .badParam pc d
    | none => d
  let d := match stops.find? (fun p => match p.2 with | .shape _ _ => true | _ => false) with
    | some (k, .shape l _) => abortAt t k engine pc .shapeExceedsPlan (pc + put 16 3 l) d
    | _ => d
  let d := match stops.find? (fun p => match p.2 with | .overflow _ _ _ => true | _ => false) with
    | some (k, .overflow r _ _) => abortAt t k engine pc .resourceOverflow (pc + put 16 7 k + put 23 3 r) d
    | _ => d
  let d := stops.foldl (fun d p => match p.2 with
    | .pfault c _ => abortAt t p.1 engine pc .prefetchFault (pc + put 16 7 p.1 + put 23 3 c) d
    | _ => d) d
  let d := stops.foldl (fun d p => match p.2 with
    | .block a => abortAt t p.1 engine pc .checksumMismatch (blockDetail a) d
    | .ecc a => abortAt t p.1 engine pc .checksumMismatch (3 * 2 ^ 30 + a / 8 % 2 ^ 30) (sramFault t p.1 d)
    | _ => d) d
  stops.foldl (fun d p => match p.2 with | .accBad => coreFault t p.1 0 .accSram d | _ => d) d

/-- The stops of an operation of the bundle being issued. -/
def settleStops (t : CtxId) (engine ldesc : Nat) (stops : List (Nat × Stop)) (d : Dev) : Dev :=
  settleAt (d.ctx t).issuePc t engine ldesc stops d

/-! ### Reads of bytes in flight (R142) -/

/-- The bytes that the operations in flight write, with the values they held before. -/
def inFlight (d : Dev) : Tab Byte := d.cores.flatMap (fun p => (p.2.mxQ ++ p.2.vxQ ++ p.2.txQ).flatMap (·.was))

/-- A read of a byte that an operation in flight writes gives the old or the new value, each byte on its own (R142): which of
them is open (DESIGN CHOICE, log entry 81). The old values lie over memory while the reading operation runs. -/
def veilOn (d : Dev) : Dev :=
  (inFlight d).foldl (fun d e =>
    let (g, d) := useFree 1 d
    if g = 0 then d
    else
      { d with
        mem := Tab.set 0 d.mem e.1 e.2
        veil := if d.veil.any (fun z => z.1 == e.1) then d.veil else (e.1, Tab.get 0 d.mem e.1) :: d.veil }) { d with veil := [] }

/-- The veil lifts: the bytes that the operation did not write hold the new values. -/
def veilOff (d0 d : Dev) : Dev := { d with mem := d.veil.foldl (fun m e => Tab.set 0 m e.1 e.2) d.mem, veil := d0.veil }

/-- The open choices that a read under the veil took are taken. -/
def Dev.took (d v : Dev) : Dev := { d with freeIdx := v.freeIdx }

/-- The last operation of a slot that runs in a queue, an SLOAD apart, writes these bytes. -/
def markWrites (t : CtxId) (k : Nat) (w : Tab Byte) (q : List Flight) : List Flight :=
  match q.reverse.findIdx? (fun f => f.ctx == t && f.slot == k && f.op != 0x02 && !f.held) with
  | some j => q.mapIdx (fun n f => if n + j + 1 = q.length then { f with was := w } else f)
  | none => q

/-- An operation in flight keeps what the bytes that it writes in the local stores and shared regions held before. -/
def noteWrites (engine : Nat) (t : CtxId) (k : Nat) (cores : List Nat) (d0 d : Dev) : Dev :=
  let w := (Tab.before 0 (d0.mem.length + d.mem.length) d0.mem d.mem).filter (fun e => decide (e.1 < accBase 0))
  if w = [] then d
  else cores.foldl (fun d core => d.modCore core (fun c => match engine with
    | 0 => { c with mxQ := markWrites t k w c.mxQ }
    | 1 => { c with vxQ := markWrites t k w c.vxQ }
    | _ => { c with txQ := markWrites t k w c.txQ })) d

/-- An operation's work on a slot among the operations in flight (R142): `cores` work it. -/
def amongFlights (engine : Nat) (t : CtxId) (k : Nat) (cores : List Nat) (one : SlotRun) : SlotRun := fun fuel d =>
  let (d1, s) := one fuel (veilOn d)
  (noteWrites engine t k cores d (veilOff d d1), s)

/-- Run an operation on its slots in ascending order; the stops by slot. -/
def runAll (one : Nat → SlotRun) (fuel : Nat → Option Nat) (ks : List Nat) (d : Dev) : Dev × List (Nat × Stop) :=
  ks.foldl (fun (acc : Dev × List (Nat × Stop)) k =>
    let (d, s) := one k (fuel k) acc.1
    (d, match s with | some s => acc.2 ++ [(k, s)] | none => acc.2)) (d, [])

/-- Where a slot overflows, the other slots stop their instance at their next access, after an open number of accesses
(R126, log entry 18). -/
def runSlots (one : Nat → SlotRun) (ks : List Nat) (d : Dev) : Dev × List (Nat × Stop) :=
  let (d1, stops) := runAll one (fun _ => none) ks d
  let hits := (stops.filter (fun p => match p.2 with | .overflow _ _ _ => true | _ => false)).map (·.1)
  if hits = [] then (d1, stops)
  else
    let base := d.freeIdx
    let d := { d with freeIdx := base + ks.length }
    runAll one (fun k => if hits.contains k then none else some (Config.free (base + ks.idxOf k))) ks d

/-- The address of operand A's first access past the plan on this core, in generation order (R117, R128), with the core's share and
the handle of its pointer-list entry. -/
def planAddr (d : Dev) (s : Shape2) (v : View) (listBase : Nat) : Option Nat :=
  let rs := s.env.runs
  let past := fun (ix : List Nat) => (rs.zipIdx).any (fun p => decide (p.1.lv.bound ≤ ix.getD p.2 0 + p.1.lo))
  let steps := (visit s.x.curve rs (fun _ => false)).find? (fun st => (tileIdx rs st).any past)
  steps.bind (fun st => (sortedElems s.env v ((tileIdx rs st).filter past)).head?.map (fun e =>
    let handle := match plistLevel s.x with
      | some l => if e.2.getD l 0 < s.x.plistLen then rdNat d (listBase + 32 * e.2.getD l 0) 8 else 0
      | none => 0
    let v := if bit handle 63 then v.rebase (some (some (field handle 47 0))) else v
    wrapInt 48 (v.bitPos e.1 / 8)))

/-- SHAPE_EXCEEDS_PLAN at issue (R124): the lowest level out of plan, and the address that operand A's first access past the plan would
have used (R128, log entry 19); on a core whose share lies within the plan, the first one past it. -/
def planStop (d : Dev) (i : Issue) (ldesc baseA listBase : Nat) : Option Stop :=
  let s := shapeOf d i ldesc
  match s.x.outOfPlan i.scalar with
  | none => none
  | some lv =>
    let v := viewOf (d.ctx i.t) s.x i.n .a 0 (i.base baseA) s.x.fa
    match planAddr d s v (i.base listBase), s.x.levels[lv]? with
    | some a, _ => some (.shape lv a)
    | none, some z => some (.shape lv (wrapInt 48 (v.bitPos ((z.bound : Int) * z.strideA) / 8)))
    | none, none => some (.shape lv 0)

/-- Output tile blocks of an operation over one core's share (R114). -/
def blockCount (x : Desc) (n : Nat) : Nat :=
  x.levels.foldl (fun acc l =>
    if l.role = 2 then acc else acc * ceilDiv (if l.split then ceilDiv l.bound n else l.bound) l.tile) 1

/-- Rules of R115 and R220 that depend on the block count; `code` is the operation's OP, `one` whether it is ACCWRITE or
ACCZERO. -/
def blockRules (x : Desc) (n code : Nat) (one : Bool) (o : MxOp) : Bool :=
  let blocks := blockCount x n
  let many := decide (1 < blocks)
  (!(one || o.accInto) || blocks == 1) &&
    (if 0x20 ≤ code then !(many && decide (1024 < roleTile x 0))
     else !(many && o.stat == 0 && decide (2048 < roleTile x 0)) && !(many && o.stat == 2 && decide (2048 < roleTile x 1)))

/-- A Winograd operation's single output tile block (R213), counted as R114 counts them. -/
def oneTile (x : Desc) (n : Nat) : Bool := blockCount x n == 1

/-- The same, and R213's single block, applied at issue where a level is split (R114). -/
def splitRules (x : Desc) (n code : Nat) (one : Bool) (o : MxOp) : Bool :=
  !x.levels.any (·.split) || (blockRules x n code one o && ((code != 0x12 && code != 0x13) || oneTile x n))

/-! ### Engine status and retries -/

/-- A level that a unit dealt to a core holds whole: K, and for CONVDW its contraction levels, the row and the frame (R120, R210). -/
def wholeLevel (code : Nat) (x : Desc) (l : Level) : Bool :=
  l.role == 2 || (code == 0x14 && l.role == 3 && decide ((x.levels.filter (fun z => z.role == 3 && decide (z.order < l.order))).length < 2))

/-- Units of an operation on a slot: its output tile blocks (R120). -/
def dealUnits (code : Nat) (s : Shape2) : Nat :=
  if emptyShape s.env.runs then 0
  else s.env.runs.foldl (fun acc r => if wholeLevel code s.x r.lv then acc else acc * r.steps) 1

/-- What the acting slots take with them, in ascending slots: where several slots' units are dealt over the same cores, each slot's
follow those of the slots before it (R17, R18). A slot that no core serves does nothing (R18). -/
def issuesOf (d : Dev) (t : CtxId) (mask code ldesc : Nat) : List Issue :=
  ((actingSlots d t mask).foldl (fun (acc : List Issue × List (List Nat × Nat)) k =>
    let i := issueOf d t mask k
    let cs := servingCores d k
    if cs.length ≤ 1 then (if cs = [] then acc else (acc.1 ++ [i], acc.2))
    else
      let before := match acc.2.find? (fun p => p.1 == cs) with | some p => p.2 | none => 0
      let rest := acc.2.filter (fun p => p.1 != cs)
      (acc.1 ++ [{ i with deal := before }], (cs, before + dealUnits code (shapeOf d i ldesc)) :: rest)) ([], [])).1

/-- The cores that work an operation of a slot: the bound one, or those that are dealt one of its units. -/
def coresFor (d : Dev) (i : Issue) (code ldesc : Nat) : List Nat :=
  let cs := servingCores d i.k
  if cs.length ≤ 1 then cs
  else ((List.range (min cs.length (dealUnits code (shapeOf d i ldesc)))).filterMap (unitCore d i)).dedup

/-! ### Array states (R76, R78, R84) -/

/-- Fabric cycles of a ramp: 48 array cycles (R75, R77). -/
def rampCycles (d : Dev) : Nat := fabricCycles d.grade 48

/-- The array's state once a ramp-up that has ended has led to the next one. -/
def Core.now (wall : Nat) (c : Core) : Core := if c.mxState = 1 ∧ c.rampAt ≤ wall then { c with mxState := c.mxNext } else c

/-- A ramp-up begins that leads to state `next`. -/
def Core.startUp (d : Dev) (next : Nat) (c : Core) : Core :=
  { c with mxState := 1, mxNext := next, rampAt := d.wall + rampCycles d }

/-- Flights of the array that stream or wait to: those that use cells and whose last vector has not left. -/
def Core.streams (c : Core) : List Flight := c.mxQ.filter (fun f => f.cells && !f.left)

/-- The state of a ramped array that has these flights: streaming, held (every one waits for its swap), draining. -/
def Core.rampedState (c : Core) : Nat :=
  match c.streams.filter (fun f => !f.forced) with
  | [] => 3
  | l => if l.all (·.held) then 7 else 2

/-- A core's array when an operation that uses cells is issued to it (R76, R78, R84, R85). -/
def mxStart (o : MxOp) (held : Bool) (core : Nat) (d : Dev) : Dev :=
  let next := if held then 7 else 2
  d.modCore core (fun c =>
    let c := { c.now d.wall with mxMode := o.stat.toNat, mxFmtA := o.fmtA.toNat, mxFmtB := o.fmtB.toNat }
    match c.mxState with
    | 0 => if Tab.get false d.awning.paused (dieOfCore core) then { c with mxState := 5, mxResume := 1 } else c.startUp d next
    | 3 => if c.forceRamp then c else { c with mxState := next }
    | 5 => if c.mxResume = 0 then { c with mxResume := 1 } else c
    | _ => c)

/-- Put a flight into an engine's queue. -/
def pushFlight (engine core : Nat) (f : Flight) (d : Dev) : Dev :=
  d.modCore core (fun c => match engine with
    | 0 => { c with mxQ := c.mxQ ++ [f] } | 1 => { c with vxQ := c.vxQ ++ [f] } | _ => { c with txQ := c.txQ ++ [f] })

/-- Put a matrix operation on a slot into the queues of its cores (R47, R140, R222): attention takes the vector engine too. -/
def pushMx (o : MxOp) (code : Nat) (cells held : Bool) (i : Issue) (d : Dev) : Dev :=
  (coresFor d i code o.ldesc.toNat).foldl (fun d core =>
    let f : Flight := { ctx := i.t, slot := i.k, op := code, cells := cells, held := held, forced := cells && (d.core core).forceRamp
                        start := d.wall, feedEnd := d.wall }
    let d := pushFlight 0 core f (if cells then mxStart o held core d else d)
    if 0x20 ≤ code ∧ code ≠ 0x23 then pushFlight 1 core f d else d) d

/-! ### Engine retries -/

/-- A residue mismatch of an engine, 0 matrix, 1 vector, 2 transpose, 4 FRC unit (R80, R144, R184): the tile, group or block is run
again, the retry is counted and recorded, and a core with another mismatch within the window is marked failed and leaves service (R82). -/
def engineRetry (engine core : Nat) (d : Dev) : Dev :=
  let k := slotOfCore d core
  let d := d.modCore core (fun c => match engine with
    | 0 =>
      let c := c.now d.wall
      let c := { c with tileReplays := satAdd 8 c.tileReplays 1 }
      if c.mxState = 5 then { c with mxResume := 6 } else { c with mxState := 6 }
    | 1 => { c with vxRetries := satAdd 8 c.vxRetries 1 }
    | 2 => { c with txRetries := satAdd 8 c.txRetries 1 }
    | _ => { c with frcRetries := satAdd 8 c.frcRetries 1 })
  let d := { d with err := { d.err with retries24h := Tab.mod [] d.err.retries24h core (d.wall :: ·) } }
  let c := d.core core
  let image := match engine with
    | 0 => mxFault d core | 1 => c.vxRetries + put 8 1 (b2n c.tableParity) | 2 => c.txRetries
    | _ => c.frcRetries + put 8 8 c.frcNonfinite
  let (again, d) := noteFault core d
  let noted := fun (d : Dev) =>
    let d := errReport { cls := 0, level := 0, action := 1, loc := errLoc core engine k, detail := image
                         ctx := d.seq.running, die := some (dieOfCore core) } d
    raiseEvent (128 + core) (mxFault d core) d
  if !again then noted d
  else match k, d.seq.running with
    | some k, some t =>
      if (d.ctx t).phase = .running then recover t k 0 .accAdder true core (raiseEvent (128 + core) (mxFault d core) d)
      else recover t k 0 .accAdder true core (noted d)
    | _, _ => coresChanged (core / 9) (takeOut core true true (noted d))

/-- An injected error meets the next operation of the engine on a core (R84, R145, R146). How long the retry of a vector or transpose
engine lasts, within the bound of R144, is open. -/
def takeInject (engine : Nat) (cores : List Nat) (d : Dev) : Dev :=
  cores.dedup.foldl (fun d core =>
    let c := d.core core
    let armed := match engine with | 0 => c.mxInject | 1 => c.vxInject | _ => c.txInject
    if !armed then d
    else
      let (g, d) := useFree 6 d
      engineRetry engine core (d.modCore core (fun c => match engine with
        | 0 => { c with mxInject := false }
        | 1 => { c with vxInject := false, vxRetryEnd := d.wall + g % 49 }
        | _ => { c with txInject := false, txRetryEnd := d.wall + g % 33 }))) d

/-! ### Matrix operations -/

/-- The work of a matrix operation on a slot, under the modes that stood when it issued. -/
def mxSlotRun (c : Instr) (m : MxModes) (i : Issue) : SlotRun :=
  match c with
  | .mma _ o => mmaSlot m o i
  | .sload _ o => sloadAny o i
  | .accwrite _ o => accwriteSlot o i
  | .acczero _ o => acczeroSlot o i
  | .conv _ o => convSlot false m o i
  | .convt _ o => convSlot true m o i
  | .convwg4 _ o => convwgSlot 4 o i
  | .convwg2 _ o => convwgSlot 2 o i
  | .convdw _ o => convdwSlot m o i
  | .attn _ o => attnSlot m o i
  | .attnFin _ o => attnFinSlot o i
  | .attnBwd _ o => attnBwdSlot m o i
  | .kvAppend _ o => kvAppendSlot o i
  | .attnDec _ o => attnDecSlot m o i
  | _ => fun _ d => (d, none)

/-- The operation uses the array's cells on a slot (R77, R98, R123, R169, R229). -/
def usesCells (c : Instr) (m : MxModes) (i : Issue) (d : Dev) : Bool :=
  match c with
  | .mma _ o => let r := mxRun d i o; !emptyShape r.runs && r.cells && !allSkipped r m { d := d }
  | .conv _ o | .convt _ o | .convwg4 _ o | .convwg2 _ o | .convdw _ o | .attn _ o | .attnBwd _ o | .attnDec _ o =>
    let r := mxRun d i o; !emptyShape r.runs && r.cells
  | _ => false

/-- SWAP of an operation that uses cells (R39, R73). -/
def swapOf : Instr → Bool
  | .mma _ o | .conv _ o | .convt _ o | .convwg4 _ o | .convwg2 _ o | .convdw _ o | .attn _ o | .attnBwd _ o | .attnDec _ o => o.swap
  | _ => false

/-- An SLOAD uses the memory ports and waits for no swap of another operation (R74). -/
def isSload : Instr → Bool
  | .sload .. => true
  | _ => false

/-- The operation's swap is held: the shadow bank is not valid yet and an SLOAD writes it (R73). -/
def swapHeld (s : CtxSlot) (c : Instr) : Bool := swapOf c && !s.shadowBank.valid && s.sloadOut != 0

/-- The operation waits on a slot: another waits before it, or its swap is held (R73). -/
def mustWait (s : CtxSlot) (c : Instr) : Bool := !isSload c && (!s.mxWait.isEmpty || swapHeld s c)

/-- The accumulator region that a capture of a matrix operation takes: offset and bytes (R114, R198). -/
def tapRegion (x : Desc) (c : Instr) : Option (Nat × Nat) :=
  match c with
  | .mma _ o =>
    if o.accInto then some (o.accOff.toNat * 1024, 4 * (roleTile x 0) * (roleTile x 1)) else none
  | _ => none

/-- Why a matrix operation stops before any access: a shape past its plan (R124), or the header of its mask table (R168). -/
def mxStopAtIssue (c : Instr) (o : MxOp) (i : Issue) (d : Dev) : Option Stop :=
  match planStop d i o.ldesc.toNat o.baseA.toNat o.baseM.toNat with
  | some s => some s
  | none => match c with
    | .mma _ o => let r := mxRun d i o; if emptyShape r.runs then none else (maskHeader r { d := d }).2.stop
    | _ => none

/-- Issue a matrix operation of opcode `code` (R44, R47, R114, R124): `one` where a single output tile block is required. -/
def mxIssue (c : Instr) (t : CtxId) (o : MxOp) (code : Nat) (one : Bool) (d : Dev) : Dev :=
  let ld := o.ldesc.toNat
  let issues := issuesOf d t o.mask.toNat code ld
  match issues with
  | [] => d
  | i0 :: _ =>
    let x := (shapeOf d i0 ld).x
    let stops := issues.filterMap (fun i => (mxStopAtIssue c o i d).map (fun s => (i.k, s)))
    if !splitRules x i0.n code one o then abortAt t i0.k 0 (i0.pc % 65536) .badParam (i0.pc % 65536) d
    else if stops ≠ [] then settleStops t 0 ld stops d
    else
      let m : MxModes := { full := d.cfg.forceFull, conv := d.cfg.convNoSkip, attn := d.cfg.attnNoSkip }
      let waits := fun (i : Issue) => mustWait ((d.ctx t).slot i.k) c
      let busy := issues.filter (fun i => usesCells c m i d)
      let go := issues.filter (fun i => !waits i)
      let d1 := issues.foldl (fun d1 i => pushMx o code (busy.any (fun j => j.k == i.k)) (waits i) i d1) d
      let d1 := (issues.filter waits).foldl (fun d i => d.modCtxSlot t i.k (fun s =>
        { s with mxWait := s.mxWait ++ [{ instr := c, at_ := i, modes := m }] })) d1
      let d1 := tapOpen t 0 i0.pc 0 x.fc.tag (issues.map (·.k)) d1
      let run := fun k => match go.find? (fun i => i.k == k) with 
        | some i => amongFlights 0 t k (coresFor d i code ld) (mxSlotRun c m i) | none => fun _ d => (d, none)
      let (d1, stops) := runSlots run (go.map (·.k)) d1
      let d1 := tapClose t 0 i0.pc x.fc.toNat (tapRegion x c) (go.map (·.k)) d1
      let d1 := settleStops t 0 ld stops d1
      let cores := (busy.filter (fun i => !waits i)).flatMap (fun i => coresFor d i code ld)
      let d1 := takeInject 0 cores d1
      if 0x20 ≤ code ∧ code ≠ 0x23 then takeInject 1 (go.flatMap (fun i => coresFor d i code ld)) d1 else d1

/-- A format code that R87 reserves. -/
def reservedCode (c : BitVec 4) : Bool := decide (0xA < c.toNat)

/-- A matrix slot with a reserved field value (R39, R87): STAT 3, PRELOAD 3 or a format code. -/
def mxReserved (o : MxOp) : Bool :=
  o.stat == 3 || o.preload == 3 || reservedCode o.fmtA || reservedCode o.fmtB || reservedCode o.fmtC

/-- The meaning of a matrix operation: a reserved field value is a reserved encoding; otherwise it issues when its task
does. -/
def mxMeaning (c : Instr) (t : CtxId) (o : MxOp) (code : Nat) (one : Bool) (s : State) : Res :=
  if mxReserved o then .fault .reservedEncoding
  else s.upd (fun d => if issuing d t then mxIssue c t o code one d else d)

/-- MMA (R69). -/
def execMma (t : CtxId) (o : MxOp) (s : State) : Res := mxMeaning (.mma t o) t o 0x01 false s
/-- SLOAD (R71). -/
def execSload (t : CtxId) (o : MxOp) (s : State) : Res := mxMeaning (.sload t o) t o 0x02 false s
/-- ACCWRITE (R69, R97). -/
def execAccwrite (t : CtxId) (o : MxOp) (s : State) : Res := mxMeaning (.accwrite t o) t o 0x03 true s
/-- ACCZERO (R69, R97). -/
def execAcczero (t : CtxId) (o : MxOp) (s : State) : Res := mxMeaning (.acczero t o) t o 0x04 true s
/-- CONV (R207). -/
def execConv (t : CtxId) (o : MxOp) (s : State) : Res := mxMeaning (.conv t o) t o 0x10 false s
/-- CONVT (R208). -/
def execConvt (t : CtxId) (o : MxOp) (s : State) : Res := mxMeaning (.convt t o) t o 0x11 false s
/-- CONVWG4 (R213 to R215). -/
def execConvwg4 (t : CtxId) (o : MxOp) (s : State) : Res := mxMeaning (.convwg4 t o) t o 0x12 false s
/-- CONVWG2 (R213 to R215). -/
def execConvwg2 (t : CtxId) (o : MxOp) (s : State) : Res := mxMeaning (.convwg2 t o) t o 0x13 false s
/-- CONVDW (R209). -/
def execConvdw (t : CtxId) (o : MxOp) (s : State) : Res := mxMeaning (.convdw t o) t o 0x14 false s
/-- ATTN (R223 to R226). -/
def execAttn (t : CtxId) (o : MxOp) (s : State) : Res := mxMeaning (.attn t o) t o 0x20 false s
/-- ATTN_FIN (R227). -/
def execAttnFin (t : CtxId) (o : MxOp) (s : State) : Res := mxMeaning (.attnFin t o) t o 0x21 false s
/-- ATTN_BWD (R228). -/
def execAttnBwd (t : CtxId) (o : MxOp) (s : State) : Res := mxMeaning (.attnBwd t o) t o 0x22 false s
/-- KV_APPEND (R236). -/
def execKvAppend (t : CtxId) (o : MxOp) (s : State) : Res := mxMeaning (.kvAppend t o) t o 0x23 false s
/-- ATTN_DEC (R237). -/
def execAttnDec (t : CtxId) (o : MxOp) (s : State) : Res := mxMeaning (.attnDec t o) t o 0x24 false s

/-! ### Matrix engine events -/

/-- SLOAD_COMPLETE (R71): the last byte of the oldest SLOAD of the slot is written, and the shadow bank's VALID bit is set; the SLOAD
leaves its engines, which are late no longer. -/
def sloadComplete (t : CtxId) (k : Nat) (d : Dev) : Dev :=
  if ((d.ctx t).slot k).sloadOut = 0 then d
  else
    let d := d.modCtxSlot t k (fun s => { s.setShadow { s.shadowBank with valid := true } with sloadOut := s.sloadOut - 1 })
    (servingCores d k).foldl (fun d core => notLate core 0 (d.modCore core (fun c =>
      match c.mxQ.findIdx? (fun f => f.ctx == t && f.slot == k && f.op == 0x02) with
      | some j => { c with mxQ := c.mxQ.eraseIdx j }
      | none => c))) d

def execSloadComplete (t : CtxId) (k : SlotId) (s : State) : Res := s.upd (sloadComplete t k.val)

/-- The MX slot's fields of a matrix operation. -/
def mxFieldsOf : Instr → Option MxOp
  | .mma _ o | .sload _ o | .accwrite _ o | .acczero _ o | .conv _ o | .convt _ o | .convwg4 _ o | .convwg2 _ o | .convdw _ o
  | .attn _ o | .attnFin _ o | .attnBwd _ o | .kvAppend _ o | .attnDec _ o => some o
  | _ => none

/-- OP of a matrix operation (R39). -/
def mxCode : Instr → Nat
  | .mma .. => 0x01 | .sload .. => 0x02 | .accwrite .. => 0x03 | .acczero .. => 0x04 | .conv .. => 0x10 | .convt .. => 0x11
  | .convwg4 .. => 0x12 | .convwg2 .. => 0x13 | .convdw .. => 0x14 | .attn .. => 0x20 | .attnFin .. => 0x21 | .attnBwd .. => 0x22
  | .kvAppend .. => 0x23 | .attnDec .. => 0x24
  | _ => 0

/-- The oldest held flight of a slot is held no longer; every flight before it has left the array (R73). -/
def unhold (t : CtxId) (k core : Nat) (d : Dev) : Dev :=
  d.modCore core (fun c =>
    match c.mxQ.findIdx? (fun f => f.ctx == t && f.slot == k && f.held) with
    | some j => { c with mxQ := c.mxQ.mapIdx (fun n f => if n < j then { f with left := true } else if n = j then { f with held := false } else f) }
    | none => c)

/-- Run the operations waiting on a slot up to the next one that must wait; `fuel` bounds their number. -/
def drainWait (t : CtxId) (k : Nat) : Nat → Dev → Dev
  | 0, d => d
  | fuel + 1, d =>
    let s := (d.ctx t).slot k
    match s.mxWait with
    | [] => d
    | w :: rest =>
      if swapHeld s w.instr then d
      else
        let d := d.modCtxSlot t k (fun s => { s with mxWait := rest })
        let ld := match mxFieldsOf w.instr with | some o => o.ldesc.toNat | none => 0
        let cores := coresFor d w.at_ (mxCode w.instr) ld
        let d := cores.foldl (fun d core => unhold t k core d) d
        let x := (d.ctx t).theProg.descs.getD ld {}
        let d := tapReopen t 0 w.at_.pc k d
        let cells := usesCells w.instr w.modes w.at_ d
        let (d, stop) := amongFlights 0 t k cores (mxSlotRun w.instr w.modes w.at_) none d
        let d := tapClose t 0 w.at_.pc x.fc.toNat (tapRegion x w.instr) [k] d
        let d := match stop with | some z => settleAt w.at_.pc t 0 ld [(k, z)] d | none => d
        drainWait t k fuel (if cells then takeInject 0 cores d else d)

/-- BANK_SWAP (R73, R83): the held swap takes place once the shadow bank is valid, and the held operations run; the held
cycles are counted. In a pause or a tile replay no swap takes place. A swap made inside an operation in flight counts its held cycles
alone. -/
def bankSwap (t : CtxId) (k held : Nat) (d : Dev) : Dev :=
  let s := (d.ctx t).slot k
  match coreOfSlot d k with
  | none => d
  | some core =>
    let c := (d.core core).now d.wall
    if c.mxQ.isEmpty ∨ c.mxState = 5 ∨ c.mxState = 6 then d
    else
      let counted := d.modCore core (fun c => { c with swapHold := c.swapHold + held })
      match s.mxWait with
      | [] => counted
      | _ =>
        if !s.shadowBank.valid then d
        else
          let d := drainWait t k s.mxWait.length counted
          d.modCore core (fun c =>
            let c := c.now d.wall
            if c.mxState = 1 then { c with mxNext := c.rampedState } else if c.mxState = 7 ∨ c.mxState = 3 then { c with mxState := c.rampedState } else c)

def execBankSwap (t : CtxId) (k : SlotId) (held : Nat) (s : State) : Res := s.upd (bankSwap t k.val held)

/-- MX_OP_COMPLETE (R47, R77): the oldest operation of the array that no swap holds completes, an SLOAD apart; `busy` cycles had a
vector entering. Attention leaves the vector engine with it (R222). -/
def mxOpComplete (core busy : Nat) (d : Dev) : Dev :=
  match (d.core core).mxQ.findIdx? (fun f => f.op != 0x02 && !f.held) with
  | none => d
  | some j =>
    notLate core 0 (d.modCore core (fun c =>
      let f := c.mxQ[j]?
      let c := { c.now d.wall with mxQ := c.mxQ.eraseIdx j, mxBusy := c.mxBusy + busy }
      let c : Core := match f with
        | some f =>
          if 0x20 ≤ f.op then
            { c with vxQ := match c.vxQ.findIdx? (fun g => g.ctx == f.ctx && g.slot == f.slot && g.op == f.op) with
                            | some n => c.vxQ.eraseIdx n | none => c.vxQ }
          else c
        | none => c
      if c.mxState = 2 ∨ c.mxState = 3 ∨ c.mxState = 7 then { c with mxState := c.rampedState }
      else if c.mxState = 1 ∧ c.streams = [] then { c with mxState := 3 } else c))

def execMxOpComplete (c : CoreId) (busy : Nat) (s : State) : Res := s.upd (fun d => tapHold (mxOpComplete c.val busy d))

/-- ARRAY_RAMP_DOWN (R76): the last vector of the operation in the array leaves, and no other waits to start; one that issued under
FORCE_RAMP starts after the ramp-down only (R85). -/
def arrayRampDown (core : Nat) (d : Dev) : Dev :=
  let c := (d.core core).now d.wall
  let waits := (c.streams.filter (fun f => !f.forced)).drop (if (c.streams.headD { ctx := 0, slot := 0, op := 0 }).forced then 0 else 1)
  if (c.mxState = 2 ∨ c.mxState = 3) ∧ waits = [] then
    d.modCore core (fun c =>
      let c := c.now d.wall
      let j := c.mxQ.findIdx? (fun f => f.cells && !f.left)
      let leaves := fun (n : Nat) (f : Flight) => some n == j && (c.mxState == 2 || !f.forced)
      { c with mxState := 4, mxQ := c.mxQ.mapIdx (fun n f => if leaves n f then { f with left := true } else f) })
  else d

def execArrayRampDown (c : CoreId) (s : State) : Res := s.upd (arrayRampDown c.val)

/-- RAMP_DOWN_END (R76, R85): an MMA issued during the ramp-down begins its ramp-up, and one that waited for it under FORCE_RAMP. -/
def rampDownEnd (core : Nat) (d : Dev) : Dev :=
  if (d.core core).mxState = 4 then
    d.modCore core (fun c => match c.streams with
      | [] => { c with mxState := 0 }
      | f :: _ =>
        let j := c.mxQ.findIdx? (fun (h : Flight) => h.cells && !h.left)
        let q : List Flight := c.mxQ.mapIdx (fun n g => if some n == j then { g with forced := false } else g)
        Core.startUp d (if f.held then 7 else 2) { c with mxQ := q })
  else d

def execRampDownEnd (c : CoreId) (s : State) : Res := s.upd (rampDownEnd c.val)

/-- The physical cores of a die in service. -/
def coresOfDie (d : Dev) (x : Nat) : List Nat :=
  (List.range 36).filterMap (fun j =>
    let core := 36 * x + j
    if (d.cluster (core / 9)).coreOk.getLsbD (core % 9) then some core else none)

/-- THROTTLE_PAUSE (R78, R83): the arrays of a die under a pause order stop, drain and ramp down; what the pause met goes on after
it. -/
def throttlePause (x : Nat) (d : Dev) : Dev :=
  if !(Tab.get false d.awning.paused x) then d
  else (coresOfDie d x).foldl (fun d core => d.modCore core (fun c =>
    let c := c.now d.wall
    if c.mxState = 0 ∨ c.mxState = 5 then c else { c with mxState := 5, mxResume := c.mxState })) d

def execThrottlePause (x : DieId) (s : State) : Res := s.upd (throttlePause x.val)

/-- PAUSE_RELEASE (R78, R83): the awning releases the pause; arrays with an operation ramp up and go on with the same
pass. A pause kept for a divider switch, a supply sag or a current limit stays. -/
def pauseRelease (x cycles : Nat) (d : Dev) : Dev :=
  let keep := targetOf d x ≠ divOf d x || sagHolds d x
  let d := if keep then d else d.modAwning (fun a => { a with
    paused := Tab.set false a.paused x false, cause := Tab.mod 0 a.cause x (fun c => c &&& 0b1011) })
  if Tab.get false d.awning.paused x then d
  else (coresOfDie d x).foldl (fun d core => d.modCore core (fun c =>
    if c.mxState ≠ 5 then c
    else
      let c := { c with pause := c.pause + cycles }
      if c.mxResume = 6 then { c.startUp d 6 with mxResume := 0 }
      else if c.streams = [] then { c with mxState := 0, mxResume := 0 }
      else { c.startUp d (if c.streams.all (·.held) then 7 else 2) with mxResume := 0 })) d

def execPauseRelease (x : DieId) (cycles : Nat) (s : State) : Res := s.upd (pauseRelease x.val cycles)

/-- TILE_REFEED (R80, R83): the withheld vectors enter again and the replay ends; in a pause a replay stands still, and a mismatch of
the pause's drain is replayed after it. On an array that streams, the mismatch itself is this step's: it is counted and recorded. -/
def tileRefeed (core : Nat) (d : Dev) : Dev :=
  let c := (d.core core).now d.wall
  let ends := fun (d : Dev) => d.modCore core (fun c => let c := c.now d.wall; if c.mxState = 6 then { c with mxState := c.rampedState } else c)
  if c.mxState = 6 then ends d
  else if !c.mxQ.any (·.cells) ∨ (c.mxState = 5 ∧ c.mxResume = 6) ∨ c.mxState = 0 then d
  else ends (engineRetry 0 core d)

def execTileRefeed (c : CoreId) (s : State) : Res := s.upd (tileRefeed c.val)

/-! ### Vector and transpose operations -/

/-- An engine feeds one operation at a time (R140): the next one enters where the one before it ends. -/
def feedStart (d : Dev) (q : List Flight) : Nat := q.foldl (fun acc f => max acc f.feedEnd) d.wall

/-- Issue a VX or TX operation (R44, R47, R124, R140): `engine` 1 or 3, `feed` the cycles for which it feeds. -/
def vxIssue (engine : Nat) (t : CtxId) (mask ldesc baseA code feed : Nat) (dual : Bool) (one : Issue → SlotRun) (d : Dev) : Dev :=
  let issues := issuesOf d t mask code ldesc
  let x := (d.ctx t).theProg.descs.getD ldesc {}
  let stops := issues.filterMap (fun i => (planStop d i ldesc baseA x.plistBase).map (fun s => (i.k, s)))
  if stops ≠ [] then settleStops t engine ldesc stops d
  else
    let cores := issues.flatMap (fun i => (coresFor d i code ldesc).map (fun core => (i, core)))
    let d1 := cores.foldl (fun d1 (p : Issue × Nat) =>
      let c := d1.core p.2
      let at_ := feedStart d1 (if engine = 1 then c.vxQ else c.txQ)
      pushFlight engine p.2 { ctx := t, slot := p.1.k, op := code, dual := dual, start := at_, feedEnd := at_ + feed } d1) d
    let pc := (d.ctx t).issuePc
    let ks := issues.map (·.k)
    let d1 := tapOpen t engine pc 0 x.fc.tag ks d1
    let run := fun k => match issues.find? (fun i => i.k == k) with
      | some i => amongFlights engine t k (coresFor d i code ldesc) (one i) | none => fun _ d => (d, none)
    let (d1, stops) := runSlots run ks d1
    let d1 := tapClose t engine pc x.fc.toNat none ks d1
    takeInject (if engine = 1 then 1 else 2) (cores.map (·.2)) (settleStops t engine ldesc stops d1)

/-- KIND of the record that an OPTSTEP reads on a task's first acting slot (R136). -/
def optKind (d : Dev) (t : CtxId) (o : VxOp) : Nat :=
  match actingSlots d t o.mask.toNat with
  | k :: _ => rdNat d ((d.ctx t).base k (field o.arg.toNat 5 0)).toNat 4
  | [] => 0

/-- The meaning of a vector operation. -/
def vxMeaning (t : CtxId) (o : VxOp) (code : Nat) (one : VxOp → Issue → SlotRun) (s : State) : Res :=
  if reservedCode o.fmtIn || reservedCode o.fmtOut then .fault .reservedEncoding
  else s.upd (fun d => if issuing d t then
    vxIssue 1 t o.mask.toNat o.ldesc.toNat o.baseA.toNat code (vxFeed (d.ctx t).theProg code (if code = 0x40 then optKind d t o else 0) o).1
      false (one o) d
  else d)

/-- ARG as a BF16 value (SCALE, OFFSET). -/
def VxRun.argNum (r : VxRun) : Num := Fmt.bf16.decode r.o.arg.toNat

/-- ADD (R130). -/
def execAdd (t : CtxId) (o : VxOp) (s : State) : Res := vxMeaning t o 0x01 (vxElem true true false (fun _ _ a b _ => addF a b)) s
/-- SUB (R130). -/
def execSub (t : CtxId) (o : VxOp) (s : State) : Res := vxMeaning t o 0x02 (vxElem true true false (fun _ _ a b _ => subF a b)) s
/-- MUL (R130). -/
def execMul (t : CtxId) (o : VxOp) (s : State) : Res := vxMeaning t o 0x03 (vxElem true true false (fun _ _ a b _ => mulF a b)) s
/-- FMA (R130): one rounding. -/
def execFma (t : CtxId) (o : VxOp) (s : State) : Res := vxMeaning t o 0x04 (vxElem true true true (fun _ _ a b c => fmaF a b c)) s
/-- MAX (R130). -/
def execMax (t : CtxId) (o : VxOp) (s : State) : Res := vxMeaning t o 0x05 (vxElem true true false (fun _ _ a b _ => numMax a b)) s
/-- MIN (R130). -/
def execMin (t : CtxId) (o : VxOp) (s : State) : Res := vxMeaning t o 0x06 (vxElem true true false (fun _ _ a b _ => numMin a b)) s
/-- SCALE (R130). -/
def execScale (t : CtxId) (o : VxOp) (s : State) : Res := vxMeaning t o 0x07 (vxElem true false false (fun r _ a _ _ => mulF a r.argNum)) s
/-- OFFSET (R130). -/
def execOffset (t : CtxId) (o : VxOp) (s : State) : Res := vxMeaning t o 0x08 (vxElem true false false (fun r _ a _ _ => addF a r.argNum)) s
/-- CVT (R130). -/
def execCvt (t : CtxId) (o : VxOp) (s : State) : Res := vxMeaning t o 0x09 (vxElem true false false (fun _ _ a _ _ => a)) s
/-- SELECT (R130). -/
def execSelect (t : CtxId) (o : VxOp) (s : State) : Res :=
  vxMeaning t o 0x0A (vxElem true true false (fun _ _ a b _ => if b.isZero then .zero else a)) s
/-- REDSUM (R131). -/
def execRedsum (t : CtxId) (o : VxOp) (s : State) : Res := vxMeaning t o 0x10 (vxReduce .zero addF addF) s
/-- REDMAX (R131). -/
def execRedmax (t : CtxId) (o : VxOp) (s : State) : Res := vxMeaning t o 0x11 (vxReduce (.inf true) numMax numMax) s
/-- REDSUMSQ (R131). -/
def execRedsumsq (t : CtxId) (o : VxOp) (s : State) : Res :=
  vxMeaning t o 0x12 (vxReduce .zero (fun acc x => addF acc (mulF x x)) addF) s
/-- KSUM (R132). -/
def execKsum (t : CtxId) (o : VxOp) (s : State) : Res := vxMeaning t o 0x13 vxKsum s
/-- EXPSUB (R130, R133). -/
def execExpsub (t : CtxId) (o : VxOp) (s : State) : Res := vxMeaning t o 0x18 (vxElem true true false (fun _ _ a b _ => expsubF a b)) s
/-- RECIP (R133). -/
def execRecip (t : CtxId) (o : VxOp) (s : State) : Res := vxMeaning t o 0x19 (vxElem true false false (fun _ _ a _ _ => recipF a)) s
/-- SQRT (R133). -/
def execSqrt (t : CtxId) (o : VxOp) (s : State) : Res := vxMeaning t o 0x1A (vxElem true false false (fun _ _ a _ _ => sqrtF a)) s
/-- RSQRT (R133). -/
def execRsqrt (t : CtxId) (o : VxOp) (s : State) : Res := vxMeaning t o 0x1B (vxElem true false false (fun _ _ a _ _ => rsqrtF a)) s
/-- EXP (R133). -/
def execExp (t : CtxId) (o : VxOp) (s : State) : Res := vxMeaning t o 0x20 (vxElem true false false (fun _ _ a _ _ => expF a)) s
/-- LOG (R133). -/
def execLog (t : CtxId) (o : VxOp) (s : State) : Res := vxMeaning t o 0x21 (vxElem true false false (fun _ _ a _ _ => logF a)) s
/-- SIGMOID (R133). -/
def execSigmoid (t : CtxId) (o : VxOp) (s : State) : Res := vxMeaning t o 0x22 (vxElem true false false (fun _ _ a _ _ => sigmoidF a)) s
/-- TANH (R133). -/
def execTanh (t : CtxId) (o : VxOp) (s : State) : Res := vxMeaning t o 0x23 (vxElem true false false (fun _ _ a _ _ => tanhF a)) s
/-- GELU (R130, R133): ARG[0] selects the form. -/
def execGelu (t : CtxId) (o : VxOp) (s : State) : Res :=
  vxMeaning t o 0x24 (vxElem true false false (fun r _ a _ _ => geluF (r.o.arg.getLsbD 0) a)) s
/-- SILU (R133). -/
def execSilu (t : CtxId) (o : VxOp) (s : State) : Res := vxMeaning t o 0x25 (vxElem true false false (fun _ _ a _ _ => siluF a)) s
/-- RNGU (R134). -/
def execRngu (t : CtxId) (o : VxOp) (s : State) : Res :=
  vxMeaning t o 0x30 (vxElem false false false (fun r ix _ _ _ => rngu (cbg (s.dev.ctx t).seed r.o.arg.toNat (cbgIndex r.s ix)))) s
/-- RNGN (R134). -/
def execRngn (t : CtxId) (o : VxOp) (s : State) : Res :=
  vxMeaning t o 0x31 (vxElem false false false (fun r ix _ _ _ => rngn (cbg (s.dev.ctx t).seed r.o.arg.toNat (cbgIndex r.s ix)))) s
/-- DROPMASK (R134). -/
def execDropmask (t : CtxId) (o : VxOp) (s : State) : Res :=
  vxMeaning t o 0x32 (vxElem false false false (fun r ix _ _ _ =>
    dropmask r.o.arg.toNat (cbg (s.dev.ctx t).seed r.o.arg.toNat (cbgIndex r.s ix)))) s
/-- OPTSTEP (R136). -/
def execOptstep (t : CtxId) (o : VxOp) (s : State) : Res := vxMeaning t o 0x40 vxOptstep s

/-- `n` mismatches of an engine during an operation (R144), at most one more than the window's rule needs to fail its core. -/
def retries (engine core : Nat) : Nat → Dev → Dev
  | 0, d => d
  | n + 1, d => retries engine core n (engineRetry engine core d)

/-- VX_OP_COMPLETE (R47, R139, R143, R144): the oldest vector operation of the engine completes, after its group retries, and a
failed parity of a coefficient table shows. An attention operation completes with its array. -/
def vxOpComplete (core : Nat) (x : VxEnd) (d : Dev) : Dev :=
  match (d.core core).vxQ with
  | [] => d
  | f :: rest =>
    if decide (0x20 ≤ f.op) && (d.core core).mxQ.any (fun g => g.ctx == f.ctx && g.slot == f.slot && g.op == f.op) then d
    else
      let d := notLate core 1 (d.modCore core (fun c => { c with
        vxQ := rest, vxBusy := c.vxBusy + x.busy, vxOp := f.op, tableParity := c.tableParity || x.parity }))
      retries 1 core x.retries d

def execVxOpComplete (c : CoreId) (x : VxEnd) (s : State) : Res := s.upd (fun d => tapHold (vxOpComplete c.val x d))

/-- The meaning of a transpose operation. -/
def txMeaning (t : CtxId) (o : TxOp) (code : Nat) (s : State) : Res :=
  if reservedCode o.fmtIn || reservedCode o.fmtOut then .fault .reservedEncoding
  else s.upd (fun d => if issuing d t then
    vxIssue 3 t o.mask.toNat o.ldesc.toNat o.baseSrc.toNat code (txFeed (d.ctx t).theProg o) o.dual (txCopy o) d
  else d)

/-- TCOPY (R137, R138). -/
def execTcopy (t : CtxId) (o : TxOp) (s : State) : Res := txMeaning t o 0x01 s
/-- TBLOCK (R137). -/
def execTblock (t : CtxId) (o : TxOp) (s : State) : Res := txMeaning t o 0x02 s

/-- TX_OP_COMPLETE (R47, R139, R144): the oldest operation of the engine completes, after its tile retries. -/
def txOpComplete (core : Nat) (x : TxEnd) (d : Dev) : Dev :=
  match (d.core core).txQ with
  | [] => d
  | _ :: rest => retries 2 core x.retries (notLate core 2 (d.modCore core (fun c => { c with txQ := rest, txBusy := c.txBusy + x.busy })))

def execTxOpComplete (c : CoreId) (x : TxEnd) (s : State) : Res := s.upd (fun d => tapHold (txOpComplete c.val x d))

/-! ### Status registers of a core (R84, R145, R146) -/

/-- MX_STATUS: the banks are those of the slot that the core is bound to, for the task that runs. -/
def mxStatus (d : Dev) (core : Nat) : Nat :=
  let c := (d.core core).now d.wall
  let banks := match d.seq.running, slotsOfCore d core with
    | some t, [k] => let s := (d.ctx t).slot k; b2n s.active + 2 * b2n s.bank0.valid + 4 * b2n s.bank1.valid
    | _, _ => 0
  c.mxState + put 3 3 banks + put 6 2 c.mxMode + put 8 4 c.mxFmtA + put 12 4 c.mxFmtB

/-- STATE of the vector or transpose engine: a retry, an operation feeding, one draining, none. -/
def feedState (wall retryEnd : Nat) (q : List Flight) : Nat :=
  if wall < retryEnd then 3
  else if q.any (fun f => decide (f.start ≤ wall) && decide (wall < f.feedEnd)) then 1
  else if q.isEmpty then 0 else 2

/-- The operation that feeds. -/
def feeding (wall : Nat) (q : List Flight) : Option Flight := q.find? (fun f => decide (f.start ≤ wall) && decide (wall < f.feedEnd))

/-- VX_STATUS. -/
def vxStatus (d : Dev) (core : Nat) : Nat :=
  let c := d.core core
  let op := match feeding d.wall c.vxQ with | some f => f.op | none => c.vxOp
  feedState d.wall c.vxRetryEnd c.vxQ + put 2 8 op + put 10 6 (c.vxQ.filter (fun f => decide (d.wall < f.start))).length

/-- VX_FAULT. -/
def vxFault (d : Dev) (core : Nat) : Nat := let c := d.core core; c.vxRetries % 256 + put 8 1 (b2n c.tableParity)

/-- TX_STATUS. -/
def txStatus (d : Dev) (core : Nat) : Nat :=
  let c := d.core core
  feedState d.wall c.txRetryEnd c.txQ + put 2 1 (b2n (match feeding d.wall c.txQ with | some f => f.dual | none => false))

/-! ### Read-to-clear counters of a core (R84, R145, R146, R175, R218, R245) -/

/-- Answer a 64-bit counter of a core and clear it. -/
def coreRead (core : Nat) (get : Core → Nat) (clr : Core → Core) (d : Dev) : Dev :=
  let (n, d) := shown 64 (get (d.core core)) d
  answer n (d.modCore core clr)

def execMxSwapHoldRead (c : CoreId) (s : State) : Res := s.upd (coreRead c.val (·.swapHold) (fun x => { x with swapHold := 0 }))
def execMxPauseRead (c : CoreId) (s : State) : Res := s.upd (coreRead c.val (·.pause) (fun x => { x with pause := 0 }))
def execMxBusyRead (c : CoreId) (s : State) : Res := s.upd (coreRead c.val (·.mxBusy) (fun x => { x with mxBusy := 0 }))
def execVxBusyRead (c : CoreId) (s : State) : Res := s.upd (coreRead c.val (·.vxBusy) (fun x => { x with vxBusy := 0 }))
def execTxBusyRead (c : CoreId) (s : State) : Res := s.upd (coreRead c.val (·.txBusy) (fun x => { x with txBusy := 0 }))
def execBwdSkipRead (c : CoreId) (s : State) : Res := s.upd (coreRead c.val (·.bwdSkip) (fun x => { x with bwdSkip := 0 }))
def execConvSkipRead (c : CoreId) (s : State) : Res := s.upd (coreRead c.val (·.convSkip) (fun x => { x with convSkip := 0 }))
def execAttnSkipRead (c : CoreId) (s : State) : Res := s.upd (coreRead c.val (·.attnSkip) (fun x => { x with attnSkip := 0 }))

end Sys2Proof.Machine
end

