-- ==== Sys2Proof/Machine/Frc.lean ====
section
/-! DEFINITION. Fixed-rate compression of blocks of 64 values (08_activation_economy.md R177 to R183). -/

namespace Sys2Proof.Machine

/-- The width b of an FRC code (R177). -/
def frcWidth (code : Nat) : Nat := match code with | 1 => 6 | 2 => 4 | 3 => 3 | _ => 2

/-- `a` times 2 to the `i` is at most `b` times 2 to the `j`. -/
def lePow (a : Nat) (i : Int) (b : Nat) (j : Int) : Bool :=
  let q := min i j
  decide (a * 2 ^ (i - q).toNat ≤ b * 2 ^ (j - q).toNat)

/-- The least step Δ of R179 that is at least amax / (hi + 0.5), as (E, M); amax is `m` times 2 to the `e`. -/
def frcStep (b m : Nat) (e : Int) : Nat × Nat :=
  let ok := fun (ex mm : Nat) => lePow (2 * m) e ((256 + mm) * (2 ^ b - 1)) ((ex : Int) - 135)
  let ex := ((List.range 254).map (· + 1)).find? (fun ex => ok ex 255) |>.getD 254
  (ex, ((List.range 256).find? (ok ex)).getD 255)

/-- `n / d` rounded to nearest, ties to even, for a positive `d`. -/
def roundDiv (n : Int) (d : Nat) : Int :=
  let q := n / d
  let r := 2 * (n % d)
  if r < d then q else if (d : Int) < r then q + 1 else if q % 2 = 0 then q else q + 1

/-- The codes of a group of four (R180): the quotients over `d`, already clamped, with an even sum. -/
def frcGroup (d : Nat) (rs : List Int) : List Int :=
  let qs := rs.map (fun n => roundDiv n d)
  if (qs.foldl (· + ·) 0) % 2 = 0 then qs
  else
    let err := List.zipWith (fun (n q : Int) => (n - q * d).natAbs) rs qs
    let worst := err.foldl max 0
    let j := err.idxOf worst
    let q := qs.getD j 0
    let n := rs.getD j 0
    let q' := if q * d < n then q + 1 else if n < q * d then q - 1 else if 0 ≤ q then q - 1 else q + 1
    qs.set j q'

/-- The bits of a group (R178): q0, q1, q2 and q3 shifted right by one place. -/
def groupBits (b : Nat) (qs : List Int) : Nat :=
  wrapInt b (qs.getD 0 0) + wrapInt b (qs.getD 1 0) * 2 ^ b + wrapInt b (qs.getD 2 0) * 2 ^ (2 * b) +
    wrapInt (b - 1) (qs.getD 3 0 / 2) * 2 ^ (3 * b)

/-- Encode a block of 64 values (R180); its 8b bytes. -/
def frcEncode (b : Nat) (vs : List Num) : List Byte :=
  let fins := vs.filterMap (fun v => match v with | .fin s m e => some (s, m, e) | _ => none)
  if vs.any (fun v => v.isNan || v.isInf) then leBytes (8 * b) 0xFF
  else if fins.all (fun p => p.2.1 == 0) then leBytes (8 * b) 0
  else
    let amax := fins.foldl (fun (acc : Nat × Int) p => if lePow p.2.1 p.2.2 acc.1 acc.2 then acc else p.2) (0, 0)
    let (ex, mm) := frcStep b amax.1 amax.2
    let unit : Int := (ex : Int) - 135
    -- v / Δ - 1/2 is (2v - Δ) / 2Δ, taken over a common power of two
    let q0 := fins.foldl (fun acc p => if p.2.1 = 0 then acc else min acc (p.2.2 + 1)) unit
    let delta : Nat := (256 + mm) * 2 ^ (unit - q0).toNat
    let den := 2 * delta
    let lo : Int := -(2 ^ (b - 1) : Nat)
    let hi : Int := (2 ^ (b - 1) : Nat) - 1
    let rs := fins.map (fun p =>
      let v : Int := if p.2.1 = 0 then 0 else
        (if p.1 then -1 else 1) * ((p.2.1 * 2 ^ (p.2.2 + 1 - q0).toNat : Nat) : Int)
      min (hi * den) (max (lo * den) (v - delta)))
    let groups := (List.range 16).map (fun g => groupBits b (frcGroup den ((rs.drop (4 * g)).take 4)))
    let body := groups.foldr (fun g acc => g + 2 ^ (4 * b - 1) * acc) 0
    leBytes (8 * b) (ex + 256 * mm + 65536 * body)

/-- Decode a block (R178, R179, R181): its 64 values, exact in FP32. -/
def frcDecode (b : Nat) (l : List Byte) : List Num :=
  let x := leNat l
  let ex := field x 7 0
  let mm := field x 15 8
  if ex = 0 ∧ mm = 0 then List.replicate 64 .zero
  else if ex = 0 ∨ ex = 255 then List.replicate 64 .nan
  else
    (List.range 16).flatMap (fun g =>
      let w := x / 2 ^ (16 + g * (4 * b - 1))
      let q := fun (i : Nat) => sext b (w / 2 ^ (i * b))
      let par := (q 0 + q 1 + q 2) % 2
      let q3 := 2 * sext (b - 1) (w / 2 ^ (3 * b)) + par
      [q 0, q 1, q 2, q3].map (fun c =>
        let n := (2 * c + 1) * ((256 + mm : Nat) : Int)
        .fin (decide (n < 0)) n.natAbs ((ex : Int) - 136)))

/-- A run of values padded with zeros to whole blocks and coded (R183). -/
def frcRun (b : Nat) (vs : List Num) : List Byte :=
  (List.range (ceilDiv vs.length 64)).flatMap (fun i =>
    let v := (vs.drop (64 * i)).take 64
    frcEncode b (v ++ List.replicate (64 - v.length) .zero))

/-- Bytes of the coding of a run of `n` values (R183). -/
def frcRunBytes (b n : Nat) : Nat := ceilDiv n 64 * (8 * b)

/-- The `n` values of a coded run (R183). -/
def frcUnrun (b n : Nat) (l : List Byte) : List Num :=
  ((List.range (ceilDiv n 64)).flatMap (fun i => frcDecode b (slice l (8 * b * i) (8 * b)))).take n

end Sys2Proof.Machine
end

