-- ==== Sys2Proof/Machine/ShapeTable.lean ====
section
/-! DEFINITION. The 256 bytes of the shape table (01_organisation.md R22). -/

namespace Sys2Proof.Machine

/-- Bytes 0 to 251 of the shape table (R22); SHAPE_CRC follows them. -/
def shapeBody (d : Dev) : List Byte :=
  let s := d.shape
  let (dx, dy, dz) := s.dim
  let (cx, cy, cz) := s.coord
  leBytes 4 0x54504853 ++ leBytes 2 1 ++ leBytes 1 0x21 ++ leBytes 1 (match d.grade with | .g33 => 33 | .g26 => 26) ++
    leBytes 4 s.generation.toNat ++ leBytes 4 0x09080404 ++ leBytes 4 0x02000000 ++ leBytes 4 0x0C000000 ++
    leBytes 4 0x00200000 ++ leBytes 4 0 ++
    s.stackCap.flatMap (leBytes 8) ++ leBytes 8 (s.stackCap.foldl (· + ·) 0) ++
    s.factors.flatMap (leBytes 1) ++ leBytes 1 s.packageFactor ++ leBytes 1 s.sparesLeft ++ leBytes 2 0 ++
    s.spares.flatMap (leBytes 1) ++ leBytes 4 0 ++
    leBytes 1 s.topology ++ [dx, dy, dz].flatMap (leBytes 1) ++ [cx, cy, cz].flatMap (leBytes 1) ++ leBytes 1 0 ++
    leBytes 4 s.portsUp.toNat ++ leBytes 4 0x000107FF ++ leBytes 8 0x3FFF ++ leBytes 4 0x00400000 ++ leBytes 2 32 ++
    leBytes 2 512 ++ List.replicate 44 0

/-- The shape table with its CRC (R22). -/
def shapeBytes (d : Dev) : List Byte :=
  let b := shapeBody d
  b ++ leBytes 4 (crc32c b).toNat

end Sys2Proof.Machine
end

