-- ==== Sys2Proof/Machine/Transfer.lean ====
section
/-! DEFINITION. One porter transfer: the accesses of a tile step in generation order (R117, R121), their checks (R125,
R275, R279, R28), and the bytes it moves (R274 to R276, R183). -/

namespace Sys2Proof.Machine

/-! ### Memory as a porter sees it -/

/-- A byte as a porter reads it: the shape table (R22), a named object (R279), or SRAM. -/
def ptByte (d : Dev) (a : Nat) : Byte :=
  match placeOf a with
  | .shape => (shapeBytes d).getD (a - 0x210000000) 0
  | _ => rdByte d (physical d a)

/-- The bits of an element as a porter reads them. -/
def View.ptBits (v : View) (d : Dev) (off : Int) : Nat :=
  let p := v.bitPos off
  field (leNat ((v.byteAddrs off).map (fun a => ptByte d a.toNat))) ((p % 8).toNat + v.fmt.bits - 1) (p % 8).toNat

/-- A PT operation has no SAT field: how a porter converts a blocked value past FP32's range (R90, R95) is open, one way for every
operation (log entry 71). -/
def porterSat : Bool := Config.func 256 0 % 2 == 1

/-- The value of an element in FP32 as a porter reads it (R87, R90, R180). -/
def View.ptValue (v : View) (d : Dev) (off : Int) : Num :=
  if v.blocked then (v.fmt.decodeBlocked (ptByte d (v.scaleAddr off).toNat).toNat (v.ptBits d off)).toFp32 porterSat
  else v.fmt.decode (v.ptBits d off)

/-- Store an element's bits through a porter; a part of a byte keeps the byte's other bits. -/
def View.ptStore (v : View) (off : Int) (bits : Nat) (d : Dev) : Dev :=
  let as_ := v.byteAddrs off
  let sh := (v.bitPos off % 8).toNat
  let old := leNat (as_.map (fun a => ptByte d a.toNat))
  let new := old % 2 ^ sh + (bits % 2 ^ v.fmt.bits) * 2 ^ sh + (old / 2 ^ (sh + v.fmt.bits)) * 2 ^ (sh + v.fmt.bits)
  (List.zip as_ (leBytes as_.length new)).foldl (fun d p => wrByte (physical d p.1.toNat) p.2 d) d

/-! ### The accesses of a transfer -/

/-- An access of a transfer: the operand's number (R128), its index vector, and its bytes. -/
structure PtAcc where
  tagNo : Nat
  idx : List Nat
  bytes : List Int

/-- A write of a transfer: an element's bits (none where the spec leaves them open) with its block's scale byte. -/
structure PtWrite where
  view : View
  idx : List Nat
  off : Int
  bits : Option Nat
  scale : Option Nat

def PtWrite.acc (w : PtWrite) : PtAcc :=
  { tagNo := w.view.tagNo, idx := w.idx
    bytes := w.view.byteAddrs w.off ++ (if w.scale.isSome then [w.view.scaleAddr w.off] else []) }

/-- Make a write. -/
def PtWrite.make (w : PtWrite) (d : Dev) : Dev :=
  let (b, d) := match w.bits with | some b => (b, d) | none => useFree w.view.fmt.bits d
  let d := w.view.ptStore w.off b d
  match w.scale with
  | some s => wrByte (physical d (w.view.scaleAddr w.off).toNat) (BitVec.ofNat 8 s) d
  | none => d

/-- A transfer's reads and writes, each in generation order (R117), or the stop that a pointer list makes. -/
structure PtWork where
  reads : List PtAcc := []
  writes : List PtWrite := []
  stop : Option Stop := none

/-- The descriptor of a PT operation with the slot's runs; a transfer takes a whole tile step (R271). -/
def ptShape (d : Dev) (i : Issue) (n : Nat) : Shape2 :=
  let p := (d.ctx i.t).theProg
  let x := p.descs.getD n {}
  { env := { t := i.t, k := i.k, prog := p, runs := x.runs i.scalar i.rank i.n, n := i.n }, i := i, x := x }

/-- The tile steps of a PT operation on a slot, in generation order; none where its share is empty (R123). -/
def Shape2.tileSteps (s : Shape2) : List (List Nat) :=
  if emptyShape s.env.runs then [] else visit s.x.curve s.env.runs (fun _ => false)

/-- The index vectors of a whole tile, padded lanes included (R121). -/
def wholeIdx : List Run → List Nat → List (List Nat)
  | [], _ => [[]]
  | r :: rs, steps =>
    ((List.range r.lv.tile).map (fun j => steps.headD 0 * r.lv.tile + j)).flatMap (fun i =>
      (wholeIdx rs (steps.drop 1)).map (fun v => i :: v))

/-- A part of a tile step that uses one entry of a pointer list, or the whole step: handles, valid and whole index
vectors. -/
structure Piece where
  entry : Option Nat
  handles : List (Option Nat)
  valid : List (List Nat)
  whole : List (List Nat)

/-- The pieces of a tile step; each entry is read and checked (R118). -/
def Shape2.pieces (s : Shape2) (d : Dev) (steps : List Nat) : List Piece × Option Stop :=
  let valid := tileIdx s.env.runs steps
  let whole := wholeIdx s.env.runs steps
  match plistLevel s.x with
  | none => ([{ entry := none, handles := [], valid := valid, whole := whole }], none)
  | some l =>
    let es := match s.env.runs[l]? with | some r => r.valid (steps.getD l 0) | none => []
    let (ps, x) := es.foldl (fun (acc : List Piece × Ex) e =>
      let (hs, x) := readEntry s (s.i.base s.x.plistBase) e (steps.set l e) acc.2
      if x.live then
        (acc.1 ++ [{ entry := some e, handles := hs, valid := valid.filter (fun v => v.getD l 0 == e)
                     whole := whole.filter (fun v => v.getD l 0 == e) }], x)
      else (acc.1, x)) ([], ({ d := d } : Ex))
    (ps, x.stop)

/-- Distinct elements of an operand over index vectors, in ascending offset. -/
def Shape2.elems (s : Shape2) (sel : OpSel) (idxs : List (List Nat)) : List (Int × List Nat) :=
  idxs.foldl (fun acc i => insertOff (offsetOf s.env.runs sel i) i acc) []

/-- The views of A and C of a PT operation whose C base is taken from slot issue `j`. -/
def Shape2.views (s : Shape2) (d : Dev) (src dst : Nat) (j : Issue) : View × View :=
  (viewOf (d.ctx s.i.t) s.x s.i.n .a 0 (s.i.base src) s.x.fa, viewOf (d.ctx s.i.t) s.x s.i.n .c 2 (j.base dst) s.x.fc)

/-- The read of an element with its block scale. -/
def readAcc (v : View) (e : Int × List Nat) : PtAcc :=
  { tagNo := v.tagNo, idx := e.2, bytes := v.byteAddrs e.1 ++ (if v.blocked then [v.scaleAddr e.1] else []) }

/-- COPY and RING of a tile step (R121, R275): each valid element goes to C with its block's scale byte, and the padded
part of C's tile takes zeros. An element of C that several elements of A fall on is an open value. -/
def copyWork (s : Shape2) (d : Dev) (steps : List Nat) (src dst : Nat) (j : Issue) (openAll : Bool) : PtWork :=
  let (ps, stop) := s.pieces d steps
  let (va, vc) := s.views d src dst j
  let offA := fun (i : List Nat) => offsetOf s.env.runs .a i
  let offC := fun (i : List Nat) => offsetOf s.env.runs .c i
  { reads := ps.flatMap (fun p => (s.elems .a p.valid).map (readAcc (va.rebase p.handles[0]?)))
    writes := if stop.isSome then [] else ps.flatMap (fun p =>
      let va := va.rebase p.handles[0]?
      let vc := vc.rebase p.handles[2]?
      (s.elems .c p.whole).map (fun e =>
        let srcs := ((p.valid.filter (fun i => offC i == e.1)).map offA).dedup
        let lane := p.valid.find? (fun i => offC i / (vc.blk : Int) == e.1 / (vc.blk : Int))
        { view := vc, idx := e.2, off := e.1
          bits := if openAll then none else match srcs with | [] => some 0 | [a] => some (va.ptBits d a) | _ => none
          scale := if vc.blocked then some (match lane with
            | some i => (ptByte d (va.scaleAddr (offA i)).toNat).toNat | none => 0) else none }))
    stop := stop }

/-- The innermost stored level of an operand: the least nonzero stride (R183). -/
def Shape2.innermost (s : Shape2) (sel : OpSel) : Nat :=
  let key := fun (l : Nat) => match s.env.runs[l]? with
    | some r => let n := (r.lv.stride sel).natAbs; if n = 0 then 2 ^ 40 else n
    | none => 2 ^ 40
  (List.range s.env.runs.length).foldl (fun best l => if key l < key best then l else best) 0

/-- The runs of an operand's elements along its innermost stored dimension, in generation order (R183). -/
def Shape2.codedRuns (s : Shape2) (sel : OpSel) (idxs : List (List Nat)) : List (List (Int × List Nat)) :=
  let l := s.innermost sel
  let es := s.elems sel idxs
  let keys := (es.map (fun e => e.2.set l 0)).dedup
  keys.map (fun k => es.filter (fun e => e.2.set l 0 == k))

/-- Bytes of the coded stream that the elements of index vectors take (R183). -/
def Shape2.codedSize (s : Shape2) (sel : OpSel) (b : Nat) (idxs : List (List Nat)) : Nat :=
  ((s.codedRuns sel idxs).map (fun r => frcRunBytes b r.length)).foldl (· + ·) 0

/-- Where in the coded stream a piece of a tile step starts: after the pieces before it; a handle for the coded operand
starts a stream of its own for its entry. -/
def Shape2.codedStart (s : Shape2) (sel : OpSel) (b : Nat) (steps : List Nat) (p : Piece) (own : Bool) : Nat :=
  let mine := fun (v : List Nat) => match plistLevel s.x, p.entry with
    | some l, some e => if own then v.getD l 0 == e else true
    | _, _ => true
  let earlier := (s.tileSteps.takeWhile (· != steps)).map (fun st => s.codedSize sel b ((tileIdx s.env.runs st).filter mine))
  let here := match plistLevel s.x, p.entry with
    | some l, some e => if own then 0 else s.codedSize sel b ((tileIdx s.env.runs steps).filter (fun v => decide (v.getD l 0 < e)))
    | _, _ => 0
  earlier.foldl (· + ·) 0 + here

/-- A view of plain bytes. -/
def bytesView (sel : OpSel) (tagNo base : Nat) : View :=
  { sel := sel, tagNo := tagNo, base := base, fmt := .int8, blocked := false, blk := 32, scaleBase := 0 }

/-- ENCODE of a tile step (R183, R275). -/
def encodeWork (s : Shape2) (d : Dev) (steps : List Nat) (src dst frc : Nat) : PtWork :=
  let (ps, stop) := s.pieces d steps
  let b := frcWidth frc
  let (va, vc) := s.views d src dst s.i
  { reads := ps.flatMap (fun p => (s.elems .a p.valid).map (readAcc (va.rebase p.handles[0]?)))
    writes := if stop.isSome then [] else ps.flatMap (fun p =>
      let va := va.rebase p.handles[0]?
      let own := match p.handles[2]? with | some (some _) => true | _ => false
      let v := bytesView .c 2 (vc.rebase p.handles[2]?).base
      let start := s.codedStart .a b steps p own
      let code := (s.codedRuns .a p.valid).flatMap (fun r => frcRun b (r.map (fun e => va.ptValue d e.1)))
      code.zipIdx.map (fun q =>
        { view := v, idx := p.valid.headD [], off := (start + q.2 : Nat), bits := some q.1.toNat, scale := none }))
    stop := stop }

/-- DECODE of a tile step (R181, R183): only valid elements are written. -/
def decodeWork (s : Shape2) (d : Dev) (steps : List Nat) (src dst frc : Nat) : PtWork :=
  let (ps, stop) := s.pieces d steps
  let b := frcWidth frc
  let (va, vc) := s.views d src dst s.i
  let code := fun (p : Piece) =>
    let own := match p.handles[0]? with | some (some _) => true | _ => false
    let a := (va.rebase p.handles[0]?).base + s.codedStart .c b steps p own
    (List.range (s.codedSize .c b p.valid)).map (a + ·)
  { reads := ps.flatMap (fun p => (code p).map (fun a => { tagNo := 0, idx := p.valid.headD [], bytes := [(a : Int)] }))
    writes := if stop.isSome then [] else ps.flatMap (fun p =>
      let vc := vc.rebase p.handles[2]?
      let bytes := (code p).map (ptByte d)
      ((s.codedRuns .c p.valid).foldl (fun (acc : List PtWrite × List Byte) r =>
        let n := frcRunBytes b r.length
        let vals := frcUnrun b r.length (acc.2.take n)
        (acc.1 ++ (List.zip r vals).map (fun q =>
          { view := vc, idx := q.1.2, off := q.1.1, bits := some (vc.fmt.encode true q.2), scale := none }), acc.2.drop n))
        ([], bytes)).1)
    stop := stop }

/-! ### RING -/

/-- The slot that takes a slot's A in RING: the next of the mask in its cluster, by rank (R276). -/
def ringNext (ks : List Nat) (k : Nat) : Nat :=
  let mine := ks.filter (fun j => clusterOfSlot j == clusterOfSlot k)
  mine.getD ((mine.idxOf k + 1) % mine.length) k

/-- All bytes of an operand over a slot's share. -/
def Shape2.allBytes (s : Shape2) (v : View) (idxs : List (List Nat)) : List Int :=
  (s.elems v.sel idxs).flatMap (fun e => (readAcc v e).bytes)

/-- A C of a RING overlaps an A of the same cluster (R276). -/
def ringOverlap (d : Dev) (is : List Issue) (ldesc src dst k : Nat) : Bool :=
  let mine := is.filter (fun i => clusterOfSlot i.k == clusterOfSlot k)
  let as_ := mine.flatMap (fun i =>
    let s := ptShape d i ldesc
    s.allBytes (s.views d src dst i).1 (s.tileSteps.flatMap (tileIdx s.env.runs)))
  let cs := mine.flatMap (fun i =>
    let s := ptShape d i ldesc
    s.allBytes (s.views d src dst i).2 (s.tileSteps.flatMap (wholeIdx s.env.runs)))
  cs.any (fun c => as_.contains c)

/-! ### Checks -/

/-- The work of a tile step of a data-moving PT operation; the issues of all slots of the operation serve RING. -/
def ptWork (c : Instr) (is : List Issue) (i : Issue) (steps : List Nat) (d : Dev) : PtWork :=
  match c with
  | .copy _ o => copyWork (ptShape d i o.ldesc.toNat) d steps o.baseSrc.toNat o.baseDst.toNat i false
  | .encode _ o => encodeWork (ptShape d i o.ldesc.toNat) d steps o.baseSrc.toNat o.baseDst.toNat o.frc.toNat
  | .decode _ o => decodeWork (ptShape d i o.ldesc.toNat) d steps o.baseSrc.toNat o.baseDst.toNat o.frc.toNat
  | .ring _ o =>
    let next := ringNext (is.map (·.k)) i.k
    let j := (is.find? (fun j => j.k == next)).getD i
    copyWork (ptShape d i o.ldesc.toNat) d steps o.baseSrc.toNat o.baseDst.toNat j
      (ringOverlap d is o.ldesc.toNat o.baseSrc.toNat o.baseDst.toNat i.k)
  | _ => {}

/-- The operation is COPY, which alone may reach an accumulator buffer (R275). -/
def isCopy : Instr → Bool
  | .copy .. => true
  | _ => false

/-- The first failing check of R125 on a byte of a PT operand whose first access lies in the object of descriptor `obj`:
wrap, windows, accumulator range (R275), object bounds (R279), population (R28) and, for the host tier, the link (R348). -/
def ptCheck (copy write : Bool) (p : Prog) (d : Dev) (obj : Option Nat) (lev : Nat) (a : Int) : Option Stop :=
  if a < 0 ∨ (2 ^ 48 : Int) ≤ a then some (.overflow 1 (wrapInt 48 a) lev)
  else
    let n := a.toNat
    match placeOf n with
    | .localStore _ => if inLocalWindow p n then none else some (.overflow 1 n lev)
    | .shared _ => if inSharedWindow p n then none else some (.overflow 2 n lev)
    | .acc _ => if copy then none else some .badParam
    | .shape => if write then some (.pfault 1 n) else none
    | _ =>
      if isName n then
        match homeAt d n with
        | none => some (.overflow 5 n lev)
        | some (h, x) =>
          if obj ≠ some h then some (.overflow 5 n lev)
          else
            let q := x.addr (n - x.name)
            if !populated d q then some (.pfault 1 q) else if hostBase ≤ q ∧ !cacheUp d then some (.pfault 2 q) else none
      else some (.pfault 1 n)

/-- The descriptor that an operand's first access of the transfer lies in; each entry of a pointer list has an object of its own
(R118). -/
def firstObject (s : Shape2) (d : Dev) (l : List PtAcc) (x : PtAcc) : Option Nat :=
  let entry := fun (a : PtAcc) => (plistLevel s.x).map (fun v => a.idx.getD v 0)
  match (l.find? (fun a => a.tagNo == x.tagNo && entry a == entry x)).bind (fun a => a.bytes.head?) with
  | some a => (homeAt d a.toNat).map Prod.fst
  | none => none

/-- The index vector of an operand's previous access in a list of accesses. -/
def prevIdx (l : List PtAcc) (n tagNo : Nat) : Option (List Nat) :=
  (((l.take n).filter (fun a => a.tagNo == tagNo)).getLast?).map (·.idx)

/-- The first failing access of a transfer, with its position among the reads and then the writes (R125, R126); `before` is the
accesses of the core's previous transfer of the operation (R128). -/
def ptFirst (copy : Bool) (s : Shape2) (d : Dev) (before : List PtAcc) (w : PtWork) : Option (Nat × Stop) :=
  let all := w.reads ++ w.writes.map PtWrite.acc
  (List.range all.length).findSome? (fun n =>
    match all[n]? with
    | none => none
    | some a =>
      let lev := faultLevel s.env.runs ((prevIdx all n a.tagNo).orElse (fun _ => prevIdx before before.length a.tagNo)) a.idx
      (a.bytes.findSome? (ptCheck copy (decide (w.reads.length ≤ n)) s.env.prog d (firstObject s d all a) lev)).map
        (fun z => (n, z)))

/-- The first access whose SRAM word or stack block cannot be corrected (R251, R440): a write that covers it whole passes. -/
def ptMedia (d : Dev) (w : PtWork) : Option Stop :=
  let wr := w.writes.flatMap (fun x => x.acc.bytes.map (fun a => physical d a.toNat))
  let words := wholeWords (wr.map (fun (a : Nat) => (a : Int)))
  let bad := fun (okWords okBlocks : List Nat) (a : Nat) =>
    if d.badSram.contains (wordOf a) && !okWords.contains (wordOf a) then some (Stop.ecc a)
    else if blockBad d a && !okBlocks.contains (a / 4096 * 4096) then some (Stop.block a)
    else none
  let rd := w.reads.flatMap (fun x => x.bytes.map (fun a => physical d a.toNat))
  match rd.findSome? (bad [] []) with
  | some z => some z
  | none => if d.badSram.isEmpty && d.badBlocks.isEmpty && d.stks.isEmpty then none else wr.findSome? (bad words (wholeBlocks wr))

/-- Make writes in order; words and blocks covered whole are good again (R251, R440). -/
def makeWrites (l : List PtWrite) (d : Dev) : Dev :=
  let wr := l.flatMap (fun x => x.acc.bytes.map (fun a => physical d a.toNat))
  let d := l.foldl (fun d w => w.make d) d
  if d.badSram.isEmpty && d.badBlocks.isEmpty then d
  else
    let words := wholeWords (wr.map (fun (a : Nat) => (a : Int)))
    let blocks := wholeBlocks wr
    { d with badSram := d.badSram.filter (fun a => !words.contains a), badBlocks := d.badBlocks.filter (fun a => !blocks.contains a) }

/-- The bytes a transfer reads from and writes to the stack and host tiers (R290). -/
def tierBytes (l : List PtAcc) : Nat := ((l.flatMap (·.bytes)).dedup.filter (fun a => isName a.toNat)).length

/-- The descriptors a transfer's names are translated by; SRAM addresses are not translated (R279). -/
def homesTouched (d : Dev) (w : PtWork) : List Nat :=
  ((w.reads ++ w.writes.map PtWrite.acc).flatMap (fun a => a.bytes.filterMap (fun b =>
    if isName b.toNat then (homeAt d b.toNat).map Prod.fst else none))).dedup

/-! ### What an operation wrote -/

/-- The valid elements of C of COPY, DECODE and RING, the coded stream of ENCODE, the elements that LSEND sent, on a slot of the
operation's issues, in generation order (R199, log entry 72). -/
def dataWritten (c : Instr) (is : List Issue) (i : Issue) (d : Dev) : Written :=
  let elems := fun (o : PtOp) (sel : OpSel) (h : Nat) (j : Issue) =>
    let s := ptShape d i o.ldesc.toNat
    let (va, vc) := s.views d o.baseSrc.toNat o.baseDst.toNat j
    let v := match sel with | .a => va | _ => vc
    packedWritten s.x.fc.toNat (s.tileSteps.flatMap (fun st => (s.pieces d st).1.flatMap (fun p =>
      let v := v.rebase p.handles[h]?
      (s.elems sel p.valid).map (fun e => (v.fmt.bits, v.ptBits d e.1)))))
  match c with
  | .copy _ o | .decode _ o => elems o .c 2 i
  | .ring _ o => elems o .c 2 ((is.find? (fun j => j.k == ringNext (is.map (·.k)) i.k)).getD i)
  | .lsend _ o => elems o .a 0 i
  | .encode _ o =>
    let s := ptShape d i o.ldesc.toNat
    let b := frcWidth o.frc.toNat
    let (_, vc) := s.views d o.baseSrc.toNat o.baseDst.toNat i
    let ps := s.tileSteps.flatMap (fun st => (s.pieces d st).1.map (fun p => (st, p)))
    { word := s.x.fc.toNat, elements := (ps.map (fun p => (s.elems .a p.2.valid).length)).foldl (· + ·) 0
      bytes := ps.flatMap (fun p =>
        let own := match p.2.handles[2]? with | some (some _) => true | _ => false
        let a := (vc.rebase p.2.handles[2]?).base + s.codedStart .a b p.1 p.2 own
        (List.range (s.codedSize .a b p.2.valid)).map (fun j => ptByte d (a + j))) }
  | _ => {}

end Sys2Proof.Machine
end

