-- ==== Sys2Proof/Machine/Barrow.lean ====
section
/-! DEFINITION. Barrows (07_backward_pass.md R155 to R165; 08 R183 to R188): the window and the spill region, an entry's
bytes, and what a push and a pop do to a slot. The porter's part is in Porter. -/

namespace Sys2Proof.Machine

/-! ### Window and spill region -/

/-- The address of a logical offset: in the window where its unit is held, otherwise in the spill region (R155, R163). -/
def Barrow.addr (b : Barrow) (o : Nat) : Nat :=
  let u := o / unit64
  if b.holds u then b.winBase + u % b.winUnits * unit64 + o % unit64 else b.spillBase + o

/-- Bytes of the barrow at logical offsets. -/
def Barrow.bytes (d : Dev) (b : Barrow) (o n : Nat) : List Byte :=
  (List.range n).map (fun i => rdByte d (physical d (b.addr (o + i))))

/-- A unit is written to the spill region; its position becomes CLEAN (R163). -/
def writeSpill (t : CtxId) (k u : Nat) (d : Dev) : Dev :=
  let b := d.bar t k
  let d := copyRange (b.winBase + u % b.winUnits * unit64) (physical d (b.spillBase + u * unit64)) unit64 d
  let d := d.modBar t k (fun b => { b with
    win := Tab.set none b.win (u % b.winUnits) (some { unit := u, dirty := false }), spilled := b.spilled + 1 })
  match coreOfSlot d k with
  | some core => d.modCore core (fun c => { c with writtenBytes := c.writtenBytes + unit64 })
  | none => d

/-- A unit is fetched into its position; whatever stood there is gone (R163). -/
def readSpill (t : CtxId) (k u : Nat) (d : Dev) : Dev :=
  let b := d.bar t k
  let d := copyRange (physical d (b.spillBase + u * unit64)) (b.winBase + u % b.winUnits * unit64) unit64 d
  let d := d.modBar t k (fun b => { b with
    win := Tab.set none b.win (u % b.winUnits) (some { unit := u, dirty := false }), refilled := b.refilled + 1 })
  match coreOfSlot d k with
  | some core => d.modCore core (fun c => { c with readBytes := c.readBytes + unit64 })
  | none => d

/-! ### A tensor's bytes -/

/-- The valid elements of an operand in generation order: view and index vectors of each piece of each tile step. -/
def Shape2.tensor (s : Shape2) (d : Dev) (v : View) (h : Nat) : List (View × Piece) × Option Stop :=
  s.tileSteps.foldl (fun (acc : List (View × Piece) × Option Stop) st =>
    if acc.2.isSome then acc
    else
      let (ps, stop) := s.pieces d st
      (acc.1 ++ ps.map (fun p => (v.rebase p.handles[h]?, p)), stop)) ([], none)

/-- Its elements with their views. -/
def tensorElems (s : Shape2) (l : List (View × Piece)) : List (View × Int × List Nat) :=
  l.flatMap (fun p => (s.elems p.1.sel p.2.valid).map (fun e => (p.1, e.1, e.2)))

/-- The distinct block scales of elements, by address, in generation order. -/
def scaleAddrs (l : List (View × Int × List Nat)) : List Int :=
  (l.filterMap (fun e => if e.1.blocked then some (e.1.scaleAddr e.2.1) else none)).dedup

/-- A tensor's payload (R158, R183): its FRC blocks, or its elements packed under R88 and then their scale bytes. -/
def tensorPayload (s : Shape2) (d : Dev) (frc : Nat) (l : List (View × Piece)) : List Byte :=
  if frc = 0 then
    let es := tensorElems s l
    let w := match es with | e :: _ => e.1.fmt.bits | [] => 8
    let bits := (es.zipIdx).foldl (fun acc p => acc + p.1.1.ptBits d p.1.2.1 * 2 ^ (w * p.2)) 0
    leBytes (packedBytes w es.length) bits ++ (scaleAddrs es).map (fun a => ptByte d a.toNat)
  else
    l.flatMap (fun p => (s.codedRuns p.1.sel p.2.valid).flatMap (fun r =>
      frcRun (frcWidth frc) (r.map (fun e => p.1.ptValue d e.1))))

/-- The writes that lay a payload out as a tensor (R160, R161, R181): KEPT bits as they are, FRC values converted with
SAT = 1; a blocked tensor decoded from FRC takes each block's scale from its lanes (R93). -/
def tensorWrites (s : Shape2) (frc : Nat) (l : List (View × Piece)) (pay : List Byte) : List PtWrite :=
  if frc = 0 then
    let es := tensorElems s l
    let w := match es with | e :: _ => e.1.fmt.bits | [] => 8
    let bits := leNat (pay.take (packedBytes w es.length))
    let scales := pay.drop (packedBytes w es.length)
    let sa := scaleAddrs es
    es.zipIdx.map (fun p =>
      { view := p.1.1, idx := p.1.2.2, off := p.1.2.1, bits := some (field bits (w * p.2 + w - 1) (w * p.2))
        scale := if p.1.1.blocked then some ((scales.getD (sa.idxOf (p.1.1.scaleAddr p.1.2.1)) 0).toNat) else none })
  else
    let vals := (l.foldl (fun (acc : List (View × (Int × List Nat) × Num) × List Byte) p =>
      (s.codedRuns p.1.sel p.2.valid).foldl (fun acc r =>
        let n := frcRunBytes (frcWidth frc) r.length
        (acc.1 ++ (List.zip r (frcUnrun (frcWidth frc) r.length (acc.2.take n))).map (fun q => (p.1, q.1, q.2)), acc.2.drop n))
        acc) ([], pay)).1
    vals.map (fun e =>
      let v := e.1
      if v.blocked then
        let lanes := (vals.filter (fun x => x.1.blocked && x.1.scaleAddr x.2.1.1 == v.scaleAddr e.2.1.1)).map (fun x => x.2.2)
        let sc := blockScale v.fmt true lanes
        { view := v, idx := e.2.1.2, off := e.2.1.1, bits := some (v.fmt.encodeBlocked true sc e.2.2), scale := some sc }
      else { view := v, idx := e.2.1.2, off := e.2.1.1, bits := some (v.fmt.encode true e.2.2), scale := none })

/-- The zeros of the padded part of destination tiles (R121). -/
def padWrites (s : Shape2) (l : List (View × Piece)) (done : List PtWrite) : List PtWrite :=
  l.flatMap (fun p =>
    (s.elems p.1.sel p.2.whole).filterMap (fun e =>
      if done.any (fun w => w.view.base == p.1.base && w.off == e.1) then none
      else
        let mate := done.find? (fun w => p.1.blocked && w.view.base == p.1.base && w.view.scaleAddr w.off == p.1.scaleAddr e.1)
        some { view := p.1, idx := e.2, off := e.1, bits := some 0
               scale := if p.1.blocked then some (match mate with | some w => w.scale.getD 0 | none => 0) else none }))

/-- Runs of values in FRC order, as they are coded. -/
def frcRunsOf (s : Shape2) (d : Dev) (l : List (View × Piece)) : List (List Num) :=
  l.flatMap (fun p => (s.codedRuns p.1.sel p.2.valid).map (fun r => r.map (fun e => p.1.ptValue d e.1)))

/-- Count blocks coded on a core, the non-finite ones among them (R202). -/
def countEncoded (core : Nat) (rs : List (List Num)) (d : Dev) : Dev :=
  let blocks := rs.flatMap (fun r => (List.range (ceilDiv r.length 64)).map (fun i => (r.drop (64 * i)).take 64))
  let bad := (blocks.filter (fun b => b.any (fun v => v.isNan || v.isInf))).length
  d.modCore core (fun c => { c with frcEncoded := c.frcEncoded + blocks.length, frcNonfinite := satAdd 8 c.frcNonfinite bad })

/-- Count blocks decoded on a core (R202). -/
def countDecoded (core : Nat) (s : Shape2) (l : List (View × Piece)) (d : Dev) : Dev :=
  let n := (l.flatMap (fun p => (s.codedRuns p.1.sel p.2.valid).map (fun r => ceilDiv r.length 64))).foldl (· + ·) 0
  d.modCore core (fun c => { c with frcDecoded := c.frcDecoded + n })

/-! ### Entries -/

/-- The bytes an entry occupies (R158). -/
def entrySize (payload : Nat) : Nat := 32 + 32 * ceilDiv payload 32

/-- The bytes of an entry: the payload padded, then the header (R158). -/
def entryBytes (pay : List Byte) (kind frc tag fmt elements index lead hostBytes : Nat) : List Byte :=
  slice pay 0 (32 * ceilDiv pay.length 32) ++
    leBytes 4 pay.length ++ leBytes 1 kind ++ leBytes 1 frc ++ leBytes 2 tag ++ leBytes 4 fmt ++ leBytes 4 elements ++
    leBytes 4 index ++ leBytes 1 lead ++ leBytes 3 0 ++ leBytes 4 hostBytes ++ leBytes 4 0

/-- What holds a push back (R163, R164): a DIRTY unit that must be spilled first, or protected bytes. -/
inductive PushWait where
  | go
  | spill (u : Nat)
  | shielded
  deriving DecidableEq, Repr

/-- Whether a push of `n` bytes at TOP must wait; its own units never wait for each other. -/
def pushWait (b : Barrow) (bellNo n : Nat) (replay : Bool) : PushWait :=
  if !replay && b.isProtected bellNo b.top (b.top + n) then .shielded
  else
    let us := (List.range ((b.top + n - 1) / unit64 + 1 - b.top / unit64)).map (b.top / unit64 + ·)
    match us.findSome? (fun u => match b.at_ u with
      | some w => if w.dirty ∧ w.unit ≠ u ∧ !us.contains w.unit then some w.unit else none
      | none => none) with
    | some u => .spill u
    | none => .go

/-- Make room in the window for a unit of a push: an earlier unit of the same push there is spilled, and a unit that TOP
has entered is fetched. -/
def openUnit (t : CtxId) (k u : Nat) (d : Dev) : Dev :=
  let b := d.bar t k
  if b.holds u then d
  else
    let d := match b.at_ u with | some w => if w.dirty then writeSpill t k w.unit d else d | none => d
    if u * unit64 < b.top then readSpill t k u d else d

/-- Write an entry at TOP (R159): its units become DIRTY, TOP and ENTRIES advance. -/
def pushBytes (t : CtxId) (k : Nat) (l : List Byte) (d : Dev) : Dev :=
  let b := d.bar t k
  let us := (List.range ((b.top + l.length - 1) / unit64 + 1 - b.top / unit64)).map (b.top / unit64 + ·)
  let d := us.foldl (fun d u =>
    let d := openUnit t k u d
    let lo := max b.top (u * unit64)
    let hi := min (b.top + l.length) ((u + 1) * unit64)
    let d := wrBytes (b.winBase + u % b.winUnits * unit64 + lo % unit64) ((l.drop (lo - b.top)).take (hi - lo)) d
    d.modBar t k (fun b => { b with win := Tab.set none b.win (u % b.winUnits) (some { unit := u, dirty := true })
                                    spilling := b.spilling.filter (· ≠ u) })) d
  spillKick t k (d.modBar t k (fun b => { b with top := b.top + l.length, entries := b.entries + 1 }))

/-- Prefetch-backs that fall due after a BPOP (R161, R187). -/
def dueBacks (b : Barrow) : List Armed :=
  b.armed.map (fun a =>
    if a.back = 0 ∧ a.index < b.entries ∧ (b.entries : Int) - 1 - a.index ≤ a.lead then { a with back := if a.acked then 2 else 1 } else a)

/-- Entries that are armed (R159, R162). -/
def Barrow.armedCount (b : Barrow) : Nat := (b.armed.filter (fun a => decide (a.back ≤ 1))).length

/-- The header of the top entry (R158). -/
structure Header where
  payload : Nat
  kind : Nat
  frc : Nat
  tag : Nat
  fmt : Nat
  elements : Nat
  index : Nat
  deriving DecidableEq, Repr

def Header.ofBytes (l : List Byte) : Header :=
  { payload := leAt l 0 4, kind := leAt l 4 1, frc := leAt l 5 1, tag := leAt l 6 2, fmt := leAt l 8 4
    elements := leAt l 12 4, index := leAt l 16 4 }

/-- Take the top entry off (R160 step 3): its range is freed, positions above TOP may empty, due prefetch-backs start and
refills are asked for. -/
def lowerTop (t : CtxId) (k size : Nat) (d : Dev) : Dev :=
  let n := (d.ctx t).bellNo
  let d := d.modBar t k (fun b =>
    let b := { b with top := b.top - size, entries := b.entries - 1, freed := b.freed ++ [(b.top - size, b.top, n)] }
    { (b.empty n) with armed := dueBacks b })
  refillKick t k (spillKick t k d)

/-- A read of BARROW_TRAFFIC (R176): returned and cleared. -/
def barrowTrafficRead (t : CtxId) (k : Nat) (d : Dev) : Dev :=
  let b := d.bar t k
  let (x, d) := shown 32 b.spilled d
  let (y, d) := shown 32 b.refilled d
  answer (x + y * 2 ^ 32) (d.modBar t k (fun b => { b with spilled := 0, refilled := 0 }))

def execBarrowTrafficRead (t : CtxId) (k : SlotId) (s : State) : Res := s.upd (barrowTrafficRead t k.val)

end Sys2Proof.Machine
end

