-- ==== Sys2Proof/Machine/Entries.lean ====
section
/-! DEFINITION. Porter entries and PT operations in progress (12_porter_tiers.md R271, R272; 02 R47, R49): acceptance,
dealing, completion. -/

namespace Sys2Proof.Machine

/-! ### Operations in progress -/

def Dev.op (d : Dev) (n : Nat) : Option PtRec := Tab.get none d.ptOps n
def Dev.modOp (d : Dev) (n : Nat) (f : PtRec → PtRec) : Dev :=
  { d with ptOps := Tab.mod none d.ptOps n (fun r => r.map f) }

/-- The PT slot's fields of an operation. -/
def ptFields : Instr → Option PtOp
  | .copy _ o | .encode _ o | .decode _ o | .ring _ o | .lsend _ o | .rxmax _ o | .rsend _ o | .rgather _ o | .bpush _ o
  | .bpushoff _ o | .bpushrc _ o | .bpop _ o => some o
  | _ => none

def isBarrow : Instr → Bool
  | .bpush .. | .bpushoff .. | .bpushrc .. | .bpop .. => true
  | _ => false

def isLink : Instr → Bool
  | .lsend .. | .rxmax .. | .rsend .. | .rgather .. => true
  | _ => false

/-- A slot's part of an operation. -/
def PtRec.part (r : PtRec) (k : Nat) : Option PtPart := r.parts.find? (fun p => p.at_.k == k)

def PtRec.modPart (k : Nat) (f : PtPart → PtPart) (r : PtRec) : PtRec :=
  { r with parts := r.parts.map (fun p => if p.at_.k = k then f p else p) }

def PtRec.ldesc (r : PtRec) : Nat := match ptFields r.instr with | some o => o.ldesc.toNat | none => 0

/-- An operation that has finished on every core of its mask raises its token once (R49) and is gone. -/
def opDone (n : Nat) (d : Dev) : Dev :=
  match d.op n with
  | none => d
  | some r =>
    if !r.parts.all (·.fin) then d
    else
      let d := { d with ptOps := Tab.set none d.ptOps n none }
      match r.token with
      | some tok => arrive r.ctx tok d
      | none => d

/-- A slot has finished its part; what it wrote goes to the taps that capture the operation (R49, R199, R200). -/
def partDone (n k : Nat) (wrote : Dev → PtRec → Issue → Written) (d : Dev) : Dev :=
  let d := match d.op n with
    | none => d
    | some r => match r.part k with
      | none => d
      | some p =>
        if (d.ctx r.ctx).srep.isNone ∨ r.back.isSome then d
        else tapHold (tapGive r.ctx 2 p.at_.pc (n + 1) k (wrote d r p.at_) d)
  opDone n (d.modOp n (fun r => r.modPart k (fun p => { p with fin := true })))

/-- Nothing was written. -/
def noneWritten (_ : Dev) (_ : PtRec) (_ : Issue) : Written := {}

/-! ### Entries -/

/-- A transfer takes a free entry (R271). -/
def takeEntry (core : Nat) (t : CtxId) (n k step : Nat) (d : Dev) : Option Dev :=
  (d.core core).freeEntry.map (fun e => d.modCore core (fun c =>
    { c with entries := Tab.mod {} c.entries e (fun x => { x with state := 1, ctx := t.val, op := n, slot := k, step := step
                                                                  packets := 0, tokenSent := false, own := 0 }) }))

/-- Waiting transfers take the entries that are free, in the order their operations were accepted (R271). -/
def pullGo (core : Nat) : Nat → Dev → Dev
  | 0, d => d
  | fuel + 1, d =>
    match (d.core core).backlog with
    | [] => d
    | (n, k, st) :: rest =>
      match d.op n with
      | none => pullGo core fuel (d.modCore core (fun c => { c with backlog := rest }))
      | some r =>
        match takeEntry core r.ctx n k st d with
        | some d => pullGo core fuel (d.modCore core (fun c => { c with backlog := rest }))
        | none => d

def pull (core : Nat) (d : Dev) : Dev := pullGo core (d.core core).backlog.length d

/-- An entry is freed; a waiting transfer takes it, or a move that a barrow waits to make (R163, R271). -/
def freeEntry (core e : Nat) (d : Dev) : Dev :=
  kickCore core (pull core ((clearIntent core e d).modCore core (fun c => { c with entries := Tab.mod {} c.entries e Entry.freed })))

/-- The entries that an operation holds for a slot: core and index. -/
def entriesOf (d : Dev) (n k : Nat) : List (Nat × Nat) :=
  d.cores.flatMap (fun (p : Nat × Core) =>
    (p.2.entries.filter (fun (q : Nat × Entry) => q.2.state ≠ 0 && q.2.own == 0 && q.2.op == n && q.2.slot == k)).map (fun (q : Nat × Entry) => (p.1, q.1)))

/-- The transfers of an operation for a slot are dropped: nothing of it moves any more. -/
def dropTransfers (n k : Nat) (d : Dev) : Dev :=
  let d := { d with cores := Tab.modMany {} d.cores ((d.cores : List (Nat × Core)).map Prod.fst) (fun _ (c : Core) =>
    { c with backlog := c.backlog.filter (fun (b : Nat × Nat × Nat) => !(b.1 == n && b.2.1 == k)) }) }
  (entriesOf d n k).foldl (fun d p => freeEntry p.1 p.2 d) d

/-- The accesses of an operation's previous transfer on the same core: transfers go round the serving cores (R128, R271). -/
def earlierAccs (d : Dev) (accs : List Nat → List PtAcc) (s : Shape2) (k step : Nat) : List PtAcc :=
  let n := max 1 (servingCores d k).length
  if step < n then [] else accs (s.tileSteps.getD (step - n) [])

/-- The bundle address of the operation whose transfer holds the entry that a packet's tag names; where no entry does, the bundle that
the task issued last (log entry 73). -/
def tagPc (d : Dev) (k : LinkPacket) : Nat :=
  let hit := d.cores.findSome? (fun (p : Nat × Core) =>
    let y := Tab.get ({} : Entry) p.2.entries k.tagEntry.toNat
    if y.state == 2 && y.own == 0 && y.ctx == k.ctx.val && y.slot == k.tagSlot.val && y.gen == k.tagGen then
      (d.op y.op).bind (fun r => (r.part y.slot).map (·.at_.pc))
    else none)
  hit.getD (d.ctx k.ctx).issuePc % 65536

/-- The task of a packet aborts on the packet's account: `cause` is placed above the bundle address and the slot. -/
def abortPacket (k : LinkPacket) (st : Status) (cause : Nat) (d : Dev) : Dev :=
  let pc := tagPc d k
  abortAt k.ctx k.tagSlot.val 2 pc st (pc + put 16 7 k.tagSlot.val + put 23 3 cause) d

/-! ### Acceptance -/

/-- The porters that take a slot's transfers, first to last: one for a bound slot and for barrow operations, otherwise
the serving cores from the one after the slot's previous transfer (R271). -/
def dealOrder (d : Dev) (c : Instr) (k : Nat) : List Nat :=
  match servingCores d k with
  | [] => []
  | [x] => [x]
  | x :: r =>
    if isBarrow c then [x]
    else
      let l := x :: r
      let j := Tab.get 0 d.lastPorter k % l.length
      l.drop j ++ l.take j

/-- The porters take the first transfers: each slot with a transfer needs a free entry of its first porter (R47, R271). -/
def canAccept (d : Dev) (c : Instr) (ks : List Nat) : Bool :=
  let firsts := ks.filterMap (fun k => (dealOrder d c k).head?)
  firsts.dedup.all (fun core =>
    decide ((firsts.filter (· == core)).length ≤ (which 512 (fun e => (Tab.get {} (d.core core).entries e).state == 0)).length))

/-- Deal a slot's transfers: the first takes an entry at once, the others wait for one (R271). -/
def dealSlot (c : Instr) (n k steps : Nat) (d : Dev) : Dev :=
  let l := dealOrder d c k
  if l.isEmpty ∨ steps = 0 then d
  else
    let d := (List.range steps).foldl (fun d st =>
      let core := l.getD (st % l.length) 0
      d.modCore core (fun c => { c with backlog := c.backlog ++ [(n, k, st)] })) d
    let d := l.dedup.foldl (fun d core => pull core d) d
    if l.length = 1 then d
    else { d with lastPorter := Tab.mod 0 d.lastPorter k (fun j => (j + steps) % l.length) }

/-- Begin an operation: its record, its place in the barrow queues, its transfers. The number of transfers of each slot
is given by `steps`. -/
def beginOp (c : Instr) (t : CtxId) (token : Option Nat) (is : List Issue) (steps : Issue → Nat) (back : Option Nat) (d : Dev) :
    Nat × Dev :=
  let n := d.ptNext
  let barrow := isBarrow c && back.isNone
  let parts := is.map (fun i => ({ at_ := i, steps := steps i, fin := decide (steps i = 0) && !barrow } : PtPart))
  let d := { d with ptNext := n + 1
                    ptOps := Tab.set none d.ptOps n (some { instr := c, ctx := t, token := token, parts := parts, back := back }) }
  let d := if barrow then is.foldl (fun d i => d.modBar t i.k (fun b => { b with queue := b.queue ++ [n] })) d else d
  (n, is.foldl (fun d i => dealSlot c n i.k (steps i) d) d)

/-- A transfer of the slot lands: its entry is freed (R271, R272). -/
def transferDone (core e n k : Nat) (d : Dev) : Dev :=
  freeEntry core e (d.modOp n (fun r => r.modPart k (fun p => { p with landed := p.landed + 1 })))

/-- Count translation misses: descriptors not among the 64 the porter holds; which one a new translation displaces is
open (R279). -/
def translateMiss (core : Nat) (hs : List Nat) (d : Dev) : Dev :=
  hs.foldl (fun d h =>
    let c := d.core core
    if c.tcache.contains h then d
    else if c.tcache.length < 64 then d.modCore core (fun c => { c with tcache := c.tcache ++ [h], misses := c.misses + 1 })
    else
      let (g, d) := useFree 6 d
      d.modCore core (fun c => { c with tcache := c.tcache.set g h, misses := c.misses + 1 })) d

/-- A porter's fault is captured, the first of its task (R286, R290). -/
def capturePorter (core : Nat) (t : CtxId) (addr cause : Nat) (d : Dev) : Dev :=
  d.modCore core (fun c => { c with porterFault := match c.porterFault with
    | some f => some f
    | none => some (addr, cause, t.val) })

/-- An operation stops on a slot (R126, R286). -/
def stopTransfer (core : Nat) (r : PtRec) (i : Issue) (z : Stop) (d : Dev) : Dev :=
  let d := match z with | .pfault cause a => capturePorter core r.ctx a cause d | _ => d
  settleAt i.pc r.ctx 2 r.ldesc [(i.k, z)] d

/-! ### The barrow's own moves -/

/-- The entry of a unit's move is freed. -/
def moveDone (own : Nat) (t : CtxId) (k u : Nat) (d : Dev) : Dev :=
  match moveEntry d own t k u with
  | some (core, e) => freeEntry core e d
  | none => kickSlot t k d

/-- SPILL_DONE (R163). -/
def spillDone (t : CtxId) (k u : Nat) (d : Dev) : Dev :=
  let b := d.bar t k
  if !b.spilling.contains u then d
  else
    let d := d.modBar t k (fun b => { b with spilling := b.spilling.filter (· ≠ u) })
    moveDone 1 t k u (if b.holds u then writeSpill t k u d else d)

def execSpillDone (t : CtxId) (k : SlotId) (unit : Nat) (s : State) : Res := s.upd (spillDone t k.val unit)

/-- REFILL_DONE (R163): the unit lands in its position; a DIRTY unit that a push has placed there meanwhile is spilled first. -/
def refillDone (t : CtxId) (k u : Nat) (d : Dev) : Dev :=
  let b := d.bar t k
  if !b.refilling.contains u then d
  else
    let dirty := match b.at_ u with | some w => w.dirty | none => false
    let d := d.modBar t k (fun b => { b with refilling := b.refilling.filter (· ≠ u) })
    moveDone 2 t k u (if b.holds u || dirty then d else readSpill t k u d)

def execRefillDone (t : CtxId) (k : SlotId) (unit : Nat) (s : State) : Res := s.upd (refillDone t k.val unit)

end Sys2Proof.Machine
end

