-- ==== Sys2Proof/Machine/BarrowOps.lean ====
section
/-! DEFINITION. BPUSH, BPUSHOFF, BPUSHRC and BPOP on a slot (07_backward_pass.md R157 to R164; 08 R185 to R188): start,
effect, prefetch-back. Operations of a slot take effect in issue order; a tensor's bytes move when the last transfer of
its operation lands. -/

namespace Sys2Proof.Machine

/-- The tensor of a barrow operation on a slot: its shape, the pieces with views of A for a push and of C for a pop, and a
pointer list's stop. -/
def barTensor (d : Dev) (i : Issue) (o : PtOp) (pop : Bool) : Shape2 × List (View × Piece) × Option Stop :=
  let s := ptShape d i o.ldesc.toNat
  let (va, vc) := s.views d o.baseSrc.toNat o.baseDst.toNat i
  let (l, z) := s.tensor d (if pop then vc else va) (if pop then 2 else 0)
  (s, l, z)

/-- Views of a popped entry take the format it was pushed in (R160). -/
def popViews (d : Dev) (s : Shape2) (o : PtOp) (fmt : Nat) : List (View × Piece) :=
  let v := viewOf (d.ctx s.i.t) s.x s.i.n .c 2 (s.i.base o.baseDst.toNat) (FmtWord.ofNat fmt)
  (s.tensor d v 2).1

/-- The first stop of a push's reads, and for BPUSHOFF of its host range and landing range (R125, R185). -/
def pushChecks (d : Dev) (s : Shape2) (l : List (View × Piece)) (z : Option Stop) (host : Option (Nat × Nat)) (landing : Option Nat) :
    Option Stop :=
  let es := tensorElems s l
  let reads := es.map (fun e => readAcc e.1 (e.2.1, e.2.2))
  match ptFirst false s d [] { reads := reads } with
  | some (_, z) => some z
  | none =>
    match z with
    | some z => some z
    | none =>
      let lev := faultLevel s.env.runs none []
      let hostStop := match host with
        | some (a, n) => (List.range n).findSome? (fun j =>
            ptCheck false true s.env.prog d ((homeAt d a).map Prod.fst) lev ((a + j : Nat) : Int))
        | none => none
      match hostStop with
      | some z => some z
      | none => match landing with
        | none => none
        | some a => es.findSome? (fun e =>
            let v := { e.1 with base := a, scaleBase := a + (e.1.scaleBase - e.1.base) }
            (readAcc v (e.2.1, e.2.2)).bytes.findSome? (fun b =>
              (engineCheck s.env b).map (fun r => Stop.overflow r (wrapInt 48 b) lev)))

/-- Barrow overflow (R162): resource code 5; the address it would show is open. -/
def barOverflow (core n : Nat) (r : PtRec) (i : Issue) (d : Dev) : Dev :=
  let _ := n
  let (g, d) := useFree 48 d
  let s := ptShape d i r.ldesc
  stopTransfer core r i (.overflow 5 g (faultLevel s.env.runs none [])) d

/-- Kind and payload of a push, with the bytes it sends to the host tier (R158, R185). -/
def pushEntry (c : Instr) (o : PtOp) (s : Shape2) (d : Dev) (l : List (View × Piece)) (index : Nat) : List Byte × List Byte :=
  let frc := o.frc.toNat
  let fmt := s.x.fa.toNat
  let n := (tensorElems s l).length
  let tag := field o.oparg.toNat 11 0
  match c with
  | .bpushoff .. =>
    let data := tensorPayload s d frc l
    (entryBytes (leBytes 8 (s.i.base o.baseDst.toNat) ++ leBytes 8 o.ext.toNat) 2 frc tag fmt n index (field o.oparg.toNat 17 12)
      data.length, data)
  | .bpushrc .. =>
    (entryBytes (leBytes 4 (field o.ext.toNat 31 0) ++ leBytes 4 0) 3 0 tag fmt n index 0 0, [])
  | _ => (entryBytes (tensorPayload s d frc l) (if frc = 0 then 0 else 1) frc tag fmt n index 0 0, [])

/-- The payload bytes of a push before its data are read. -/
def pushPayloadBytes (c : Instr) (o : PtOp) (s : Shape2) (l : List (View × Piece)) : Nat :=
  let es := tensorElems s l
  let tensor := if o.frc.toNat = 0 then
      packedBytes (match es with | e :: _ => e.1.fmt.bits | [] => 8) es.length + (scaleAddrs es).length
    else (l.map (fun p => ((s.codedRuns p.1.sel p.2.valid).map (fun r => frcRunBytes (frcWidth o.frc.toNat) r.length)).foldl (· + ·) 0)).foldl (· + ·) 0
  match c with | .bpushoff .. => 16 | .bpushrc .. => 8 | _ => tensor

/-- Bytes BPUSHOFF sends (R185). -/
def sendBytes (o : PtOp) (s : Shape2) (l : List (View × Piece)) : Nat := pushPayloadBytes (.bpush 0 o) o s l

/-- Start the prefetch-backs that are due and not under way: each is a transfer of the porter (R161, R186). -/
def launchBacks (t : CtxId) (k : Nat) (d : Dev) : Dev :=
  (d.bar t k).armed.foldl (fun d a =>
    let going := d.ptOps.any (fun (p : Nat × Option PtRec) => match p.2 with
      | some r => r.ctx == t && r.back == some a.index && r.parts.any (fun q => q.at_.k == k)
      | none => false)
    if a.back = 2 ∧ !going then (beginOp a.instr t none [a.at_] (fun _ => 1) (some a.index) d).2 else d) d

/-- Whether a barrow operation can start on a slot, or what became of it. -/
inductive BarStart where
  | started (d : Dev)
  | waits (d : Dev)
  | stopped (d : Dev)

/-- Start a push on a slot: checks in order, then what must wait (R159, R162 to R164). -/
def startPush (core n : Nat) (r : PtRec) (o : PtOp) (i : Issue) (d : Dev) : BarStart :=
  let b := d.bar r.ctx i.k
  let off : Bool := match r.instr with | .bpushoff .. => true | _ => false
  if b.winUnits == 0 || (off && decide (256 ≤ b.armedCount)) then .stopped (barOverflow core n r i d)
  else
    let (s, l, z) := barTensor d i o false
    let checks := match r.instr with
      | .bpushrc .. => none
      | _ => pushChecks d s l z (if off then some (i.base o.baseDst.toNat, sendBytes o s l) else none)
          (if off then some o.ext.toNat else none)
    match checks with
    | some z => .stopped (stopTransfer core r i z d)
    | none =>
      let size := entrySize (pushPayloadBytes r.instr o s l)
      if b.capUnits * unit64 < b.top + size then .stopped (barOverflow core n r i d)
      else match pushWait b (d.ctx r.ctx).bellNo size false with
        | .go => .started ((d.modBar r.ctx i.k (fun b => { b with pushWait := false, protectWait := false })).modOp n
            (fun r => r.modPart i.k (fun p => { p with hdr := some (b.top + size - 32) })))
        | .spill u => .waits (spillUnit r.ctx i.k u (d.modBar r.ctx i.k (fun b => { b with pushWait := true, protectWait := false })))
        | .shielded => .waits (d.modBar r.ctx i.k (fun b => { b with protectWait := true, pushWait := false }))

/-- Take an operation out of its slot's barrow queue. -/
def leaveQueue (t : CtxId) (k n : Nat) (d : Dev) : Dev := d.modBar t k (fun b => { b with queue := b.queue.filter (· ≠ n) })

/-- The elements that views hold, as what an operation wrote (R199). -/
def viewsWritten (word : Nat) (s : Shape2) (l : List (View × Piece)) (d : Dev) : Written :=
  packedWritten word ((tensorElems s l).map (fun e => (e.1.fmt.bits, e.1.ptBits d e.2.1)))

/-- The effect of a push (R159): the entry is written; BPUSHOFF arms it and waits for the host (R185, R187). -/
def finishPush (n : Nat) (r : PtRec) (o : PtOp) (i : Issue) (d : Dev) : Dev :=
  let t := r.ctx
  let b := d.bar t i.k
  let (s, l, _) := barTensor d i o false
  let v := veilOn d
  let (bytes, data) := pushEntry r.instr o s v l b.entries
  let moves := match r.instr with | .bpushrc .. => false | _ => o.frc.toNat != 0
  let d := d.took v
  let d := if moves then countEncoded ((coreOfSlot d i.k).getD 0) (frcRunsOf s v l) d else d
  let d := leaveQueue t i.k n (pushBytes t i.k bytes d)
  match r.instr with
  | .bpushoff .. =>
    let d := { d with offSent := d.offSent + data.length }
    d.modBar t i.k (fun b => { b with armed := b.armed ++ [{
      index := b.entries - 1, num := n, lead := field o.oparg.toNat 17 12, host := i.base o.baseDst.toNat, landing := o.ext.toNat
      frc := o.frc.toNat, data := data, instr := r.instr, at_ := i, pushOp := some n }] })
  | .bpush .. => partDone n i.k (fun _ _ _ =>
      { word := s.x.fa.toNat, elements := (tensorElems s l).length, bytes := tensorPayload s v o.frc.toNat l }) d
  | _ => partDone n i.k noneWritten d

/-- Start a pop (R160): the header is read and checked, the entry is taken off, and OFFLOAD and RECOMPUTE act. -/
def startPop (core n : Nat) (r : PtRec) (o : PtOp) (i : Issue) (d : Dev) : BarStart :=
  let t := r.ctx
  let b := d.bar t i.k
  if b.winUnits = 0 ∨ b.entries = 0 then .stopped (barOverflow core n r i d)
  else
    let h := Header.ofBytes (Barrow.bytes d b (b.top - 32) 32)
    let (s, _, z) := barTensor d i o true
    let l := popViews d s o h.fmt
    let count := (tensorElems s l).length
    if field h.tag 11 0 ≠ field o.oparg.toNat 11 0 ∨ h.elements ≠ count then .stopped (stopTransfer core r i .badParam d)
    else
      let hdr := b.top - 32
      let moves := decide (h.kind ≤ 1)
      let pay := Barrow.bytes d b (hdr + 32 - entrySize h.payload) h.payload
      let ws := if moves then tensorWrites s h.frc l pay else []
      let ws := if h.kind = 0 then ws ++ padWrites s l ws else ws
      let stop := if moves then (match z with | some z => some (0, z) | none => ptFirst false s d [] { writes := ws }) else none
      let d := launchBacks t i.k (lowerTop t i.k (entrySize h.payload) d)
      match stop with
      | some (j, z) =>
        let d := match z with | .overflow _ _ _ => makeWrites (ws.take j) d | _ => d
        .stopped (stopTransfer core r i z d)
      | none => .started (d.modOp n (fun r => r.modPart i.k (fun p => { p with hdr := some hdr })))

/-- The views of an armed entry's tensor at its landing address (R185). -/
def landingViews (d : Dev) (a : Armed) : Shape2 × List (View × Piece) :=
  match ptFields a.instr with
  | some o =>
    let (s, l, _) := barTensor d a.at_ o false
    (s, l.map (fun p => ({ p.1 with base := a.landing, scaleBase := a.landing + (p.1.scaleBase - p.1.base) }, p.2)))
  | none => (ptShape d a.at_ 0, [])

/-- What a prefetch-back has written at the landing address (R161, R199). -/
def landedWritten (d : Dev) (a : Armed) : Written :=
  let (s, l) := landingViews d a
  viewsWritten s.x.fa.toNat s l d

/-- The effect of a pop whose last transfer has landed, or of one that moves nothing (R160). -/
def finishPop (core n : Nat) (r : PtRec) (o : PtOp) (i : Issue) (hdr : Nat) (d : Dev) : Dev :=
  let t := r.ctx
  let b := d.bar t i.k
  let h := Header.ofBytes (Barrow.bytes d b hdr 32)
  let d := leaveQueue t i.k n d
  if h.kind ≤ 1 then
    let (s, _, _) := barTensor d i o true
    let l := popViews d s o h.fmt
    let pay := Barrow.bytes d b (hdr + 32 - entrySize h.payload) h.payload
    let ws := tensorWrites s h.frc l pay
    let ws := if h.kind = 0 then ws ++ padWrites s l ws else ws
    match ptMedia d { writes := ws } with
    | some z => stopTransfer core r i z d
    | none =>
      let d := if h.frc = 0 then d else countDecoded core s l d
      partDone n i.k (fun d _ _ => viewsWritten h.fmt s l d) (makeWrites ws d)
  else if h.kind = 2 then
    match b.armed.find? (fun a => a.index == h.index) with
    | none => partDone n i.k noneWritten d
    | some a =>
      if a.back = 3 then partDone n i.k (fun d _ _ => landedWritten d a) (d.modBar t i.k (fun b => { b with armed := b.armed.filter (fun x => x.index ≠ h.index) }))
      else launchBacks t i.k (d.modBar t i.k (fun b => { b with armed := b.armed.map (fun x =>
        if x.index = h.index then { x with popOp := some n, back := if x.back = 0 then (if x.acked then 2 else 1) else x.back } else x) }))
  else partDone n i.k noneWritten d

/-- A pop whose header shows OFFLOAD or RECOMPUTE moves nothing through its own transfers. -/
def popMoves (d : Dev) (t : CtxId) (k hdr : Nat) : Bool := decide ((Header.ofBytes (Barrow.bytes d (d.bar t k) hdr 32)).kind ≤ 1)

/-- Start the operation at the head of a slot's queue on porter `core`. -/
def barrowStart (core n : Nat) (r : PtRec) (i : Issue) (d : Dev) : BarStart :=
  match r.instr with
  | .bpush _ o | .bpushoff _ o | .bpushrc _ o => startPush core n r o i d
  | .bpop _ o => startPop core n r o i d
  | _ => .waits d

/-- The effect of an operation of a slot that has started. An operation that a solo replay has carried out in its place
only ends (R58). -/
def barrowFinish (core n : Nat) (r : PtRec) (i : Issue) (hdr : Nat) (d : Dev) : Dev :=
  if !(d.bar r.ctx i.k).queue.contains n then
    (if (d.bar r.ctx i.k).armed.any (fun a => a.pushOp == some n || a.popOp == some n) then d else partDone n i.k noneWritten d)
  else match r.instr with
    | .bpush _ o | .bpushoff _ o | .bpushrc _ o => finishPush n r o i d
    | .bpop _ o => finishPop core n r o i hdr d
    | _ => d

/-- Operations at the head of a slot's queue that have no transfer take effect as their turn comes (R159). -/
def barrowNext (t : CtxId) (k : Nat) : Nat → Dev → Dev
  | 0, d => d
  | fuel + 1, d =>
    match (d.bar t k).queue with
    | [] => d
    | n :: _ =>
      match d.op n with
      | none => barrowNext t k fuel (leaveQueue t k n d)
      | some r =>
        match r.part k with
        | none => barrowNext t k fuel (leaveQueue t k n d)
        | some p =>
          if p.steps ≠ 0 then d
          else
            let core := (coreOfSlot d k).getD 0
            match barrowStart core n r p.at_ d with
            | .started d =>
              let hdr := match (d.op n).bind (fun r => r.part k) with | some p => p.hdr.getD 0 | none => 0
              barrowNext t k fuel (barrowFinish core n r p.at_ hdr d)
            | .waits d => d
            | .stopped d => d

/-- Let the head of the queue act where it needs no transfer. -/
def barrowTurn (t : CtxId) (k : Nat) (d : Dev) : Dev := barrowNext t k (d.bar t k).queue.length d

/-! ### In a solo replay (R58, R164, R165) -/

/-- The operation issued before the replay that this one repeats and that has not taken effect. -/
def orphanOp (d : Dev) (t : CtxId) (c : Instr) (k : Nat) : Option Nat :=
  (d.ptOps.find? (fun (p : Nat × Option PtRec) => match p.2 with
    | some r => r.ctx == t && r.instr == c && r.back.isNone && r.parts.any (fun q => q.at_.k == k && !q.fin && q.hdr.isNone)
    | none => false)).map Prod.fst

/-- Carry out a barrow operation on a replayed slot at once: no wait for protected bytes (R164), no second send or
prefetch-back of what has been acknowledged or has landed (R165), no token (R58); blocks are coded again, and counted (R202). -/
def replayBarrow (c : Instr) (t : CtxId) (o : PtOp) (i : Issue) (d : Dev) : Dev :=
  let b := d.bar t i.k
  if b.winUnits = 0 then d
  else match c with
    | .bpop .. =>
      if b.entries = 0 then d
      else
        let h := Header.ofBytes (Barrow.bytes d b (b.top - 32) 32)
        let (s, _, _) := barTensor d i o true
        let l := popViews d s o h.fmt
        let pay := Barrow.bytes d b (b.top - entrySize h.payload) h.payload
        let ws := if h.kind ≤ 1 then tensorWrites s h.frc l pay else []
        let ws := if h.kind = 0 then ws ++ padWrites s l ws else ws
        let d := makeWrites ws (lowerTop t i.k (entrySize h.payload) d)
        let d := if h.kind ≤ 1 ∧ h.frc ≠ 0 then countDecoded ((coreOfSlot d i.k).getD 0) s l d else d
        if h.kind = 2 then
          launchBacks t i.k (d.modBar t i.k (fun b => { b with armed := (b.armed.filter (fun x => x.index ≠ h.index || x.back ≠ 3)).map (fun x =>
            if x.index = h.index then
              { x with popOp := x.popOp.orElse (fun _ => orphanOp d t c i.k)
                       back := if x.back = 0 then (if x.acked then 2 else 1) else x.back }
            else x) }))
        else d
    | _ =>
      let (s, l, _) := barTensor d i o false
      let v := veilOn d
      let (bytes, data) := pushEntry c o s v l b.entries
      let core := (coreOfSlot d i.k).getD 0
      let moves := match c with | .bpushrc .. => false | _ => o.frc.toNat != 0
      let d := if moves then countEncoded core (frcRunsOf s v l) (d.took v) else d.took v
      let d := pushBytes t i.k bytes d
      match c with
      | .bpushoff .. =>
        d.modBar t i.k (fun b =>
          match b.before.find? (fun a => a.index + 1 == b.entries && a.instr == c && !b.armed.any (fun x => x.num == a.num)) with
          | some a => { b with armed := b.armed ++ [a] }
          | none =>
            let n := orphanOp d t c i.k
            { b with armed := b.armed ++ [{
              index := b.entries - 1, num := n.getD d.ptNext, lead := field o.oparg.toNat 17 12, host := i.base o.baseDst.toNat
              landing := o.ext.toNat, frc := o.frc.toNat, data := data, instr := c, at_ := i, pushOp := n, acked := n.isNone, back := if n.isNone then 3 else 0 }] })
      | _ => d

/-! ### Events of the barrow -/

/-- PUSH_RESUME (R163): the position that a waiting push needs has been spilled. -/
def pushResume (t : CtxId) (k : Nat) (d : Dev) : Dev :=
  let b := d.bar t k
  if !b.pushWait then d
  else match b.queue with
    | [] => d
    | n :: _ => match (d.op n).bind (fun r => r.part k) with
      | none => d
      | some p =>
        let r := (d.op n).getD { instr := .moveUnit, ctx := t, token := none, parts := [] }
        match barrowStart ((coreOfSlot d k).getD 0) n r p.at_ d with
        | .started d => if p.steps = 0 then barrowTurn t k (d.modOp n (fun r => r.modPart k (fun p => { p with hdr := none }))) else d
        | .waits d => d
        | .stopped d => d

def execPushResume (t : CtxId) (k : SlotId) (s : State) : Res := s.upd (pushResume t k.val)

/-- PROTECT_RELEASE (R164): the snapshot that protected the bytes is discarded, and the waiting push proceeds. -/
def protectRelease (t : CtxId) (k : Nat) (d : Dev) : Dev :=
  let b := d.bar t k
  if !b.protectWait then d
  else match b.queue with
    | [] => d
    | n :: _ => match (d.op n).bind (fun r => r.part k) with
      | none => d
      | some p =>
        let r := (d.op n).getD { instr := .moveUnit, ctx := t, token := none, parts := [] }
        let d := d.modBar t k (Barrow.empty (d.ctx t).bellNo)
        match barrowStart ((coreOfSlot d k).getD 0) n r p.at_ d with
        | .started d => if p.steps = 0 then barrowTurn t k (d.modOp n (fun r => r.modPart k (fun p => { p with hdr := none }))) else d
        | .waits d => d
        | .stopped d => d

def execProtectRelease (t : CtxId) (k : SlotId) (s : State) : Res := s.upd (protectRelease t k.val)

/-- HOST_WRITE_ACK (R159, R187, R349): the host tier has the last byte of an entry's data; the push's token is raised, and a
prefetch-back that was due starts. -/
def hostWriteAck (t : CtxId) (k index : Nat) (d : Dev) : Dev :=
  match (d.bar t k).armed.find? (fun a => a.index == index && !a.acked) with
  | none => d
  | some a =>
    let d := (a.data.zipIdx).foldl (fun d p => wrByte (physical d (a.host + p.2)) p.1 d) d
    let d := match coreOfSlot d k with
      | some core => d.modCore core (fun c => { c with writtenBytes := c.writtenBytes + a.data.length })
      | none => d
    let d := d.modBar t k (fun b => { b with armed := b.armed.map (fun x =>
      if x.index = index ∧ !x.acked then { x with acked := true, back := if x.back = 1 then 2 else x.back, pushOp := none } else x) })
    let d := match a.pushOp with
      | some n => partDone n k (fun d r i => match ptFields r.instr with
          | some o =>
            let (s, l, _) := barTensor d i o false
            { word := s.x.fa.toNat, elements := (tensorElems s l).length, bytes := a.data }
          | none => {}) d
      | none => d
    if (d.ctx t).phase == .running || (d.ctx t).phase == .ready then launchBacks t k d else d

def execHostWriteAck (t : CtxId) (k : SlotId) (index : Nat) (s : State) : Res := s.upd (hostWriteAck t k.val index)

/-- PREFETCH_BACK_LANDED (R161, R185): the tensor lands at its landing address in its pushed format and layout; a BPOP that
waits for it finishes. -/
def prefetchBackLanded (t : CtxId) (k index : Nat) (d : Dev) : Dev :=
  match (d.bar t k).armed.find? (fun a => a.index == index && a.back == 2),
      d.ptOps.find? (fun (p : Nat × Option PtRec) => match p.2 with
        | some r => r.ctx == t && r.back == some index && r.parts.any (fun q => q.at_.k == k) | none => false) with
  | some a, some (n, some r) =>
    match entriesOf d n k with
    | [] => d
    | (core, e) :: _ =>
      let (s, l) := landingViews d a
      let data := (List.range a.data.length).map (fun j => ptByte d (a.host + j))
      let ws := tensorWrites s a.frc l data
      match ptMedia d { writes := ws } with
      | some z => stopTransfer core r a.at_ z d
      | none =>
        let d := makeWrites ws d
        let d := { d with offFetched := d.offFetched + a.data.length }
        let d := d.modCore core (fun c => { c with readBytes := c.readBytes + a.data.length })
        let d := if a.frc = 0 then d else countDecoded core s l d
        let d := partDone n k noneWritten (transferDone core e n k d)
        match a.popOp with
        | some m =>
          partDone m k (fun d _ _ => landedWritten d a) (d.modBar t k (fun b => { b with armed := b.armed.filter (fun x => x.index ≠ index) }))
        | none => d.modBar t k (fun b => { b with armed := b.armed.map (fun x => if x.index = index then { x with back := 3 } else x) })
  | _, _ => d

def execPrefetchBackLanded (t : CtxId) (k : SlotId) (index : Nat) (s : State) : Res := s.upd (prefetchBackLanded t k.val index)

/-- HOST_OFFLOAD (R201): MiB sent by BPUSHOFF and fetched by prefetch-back, returned and cleared. -/
def hostOffloadRead (d : Dev) : Dev :=
  let (x, d) := shown 32 (d.offSent / 2 ^ 20) d
  let (y, d) := shown 32 (d.offFetched / 2 ^ 20) d
  answer (x + y * 2 ^ 32) { d with offSent := 0, offFetched := 0 }

def execHostOffloadRead (s : State) : Res := s.upd hostOffloadRead

end Sys2Proof.Machine
end

