-- ==== Sys2Proof/Machine/Fabric.lean ====
section
/-! DEFINITION. The package fabric (13_fabric.md): wiring, routes, ports, lanes and flits, bring-up, joining and leaving. -/

namespace Sys2Proof.Machine

def Dev.port (d : Dev) (p : Nat) : Port := Tab.get {} d.ports p
def Dev.modPort (d : Dev) (p : Nat) (f : Port → Port) : Dev := { d with ports := Tab.mod {} d.ports p f }
def Dev.modFabric (d : Dev) (f : Fabric → Fabric) : Dev := { d with fabric := f d.fabric }
def Dev.linkCfg (d : Dev) (p : Nat) : LinkCfg := Tab.get {} d.cfg.links p

/-- A coordinate's component in a dimension. -/
def axis (c : Nat × Nat × Nat) : Nat → Nat
  | 0 => c.1
  | 1 => c.2.1
  | _ => c.2.2

/-- A coordinate with one component replaced. -/
def setAxis (c : Nat × Nat × Nat) (i v : Nat) : Nat × Nat × Nat :=
  match i with
  | 0 => (v, c.2.1, c.2.2)
  | 1 => (c.1, v, c.2.2)
  | _ => (c.1, c.2.1, v)

/-! ### The fabric table (R307, R309) -/

def tableTopo (l : List Byte) : Nat := leAt l 4 1
def tableDim (l : List Byte) : Nat × Nat × Nat := (leAt l 5 1, leAt l 6 1, leAt l 7 1)
def tableCount (l : List Byte) : Nat := leAt l 12 2
def tableEntry (l : List Byte) (i : Nat) : Nat := leAt l (64 + 32 * i) 32

/-- A table is valid (R297, R307). -/
def tableValid (l : List Byte) : Bool :=
  let t := tableTopo l
  let (x, y, z) := tableDim l
  let sizes := [x, y, z]
  decide (leAt l 0 4 = 0x54424146) && decide (1 ≤ t) && decide (t ≤ 3) &&
    (sizes.take t).all (fun s => decide (2 ≤ s) && decide (s ≤ 24 / t + 1)) && (sizes.drop t).all (· == 1) &&
    decide (tableCount l = x * y * z) && decide (tableCount l ≤ 729) &&
    decide (leAt l 60 4 = (crc32c (slice l 0 60)).toNat) && decide (l.length = 64 + 32 * tableCount l)

/-- The coordinate of index `i` (R307). -/
def coordAt (l : List Byte) (i : Nat) : Nat × Nat × Nat :=
  let (x, y, _) := tableDim l
  (i % x, i / x % y, i / (x * y))

/-- The index of a coordinate. -/
def coordIndex (l : List Byte) (c : Nat × Nat × Nat) : Nat :=
  let (x, y, _) := tableDim l
  c.1 + x * (c.2.1 + y * c.2.2)

/-- The indices whose entry is this package's identity hash (R309). -/
def ownIndices (d : Dev) (l : List Byte) : List Nat := which (tableCount l) (fun i => decide (tableEntry l i = d.sec.identity.toNat))

/-- Topology, sizes and own coordinate by the table in force, where the package finds itself in it once (R309). -/
def placed (d : Dev) : Option (Nat × (Nat × Nat × Nat) × (Nat × Nat × Nat)) :=
  let l := d.fabric.table
  if !tableValid l then none
  else match ownIndices d l with
    | [i] => some (tableTopo l, tableDim l, coordAt l i)
    | _ => none

/-- The digest of the table in force (R307). -/
def tableDigest (d : Dev) : BitVec 256 := sha3 d.fabric.table

/-- Coordinates that are not vacant. -/
def population (d : Dev) : List Nat := which (tableCount d.fabric.table) (fun i => tableEntry d.fabric.table i != 0)

/-! ### Wiring (R297) -/

/-- Dimension, rank, link index, offset and use of a port, and the rank at its peer. -/
structure Wire where
  /-- rank of the port at the other end of the cable -/
  peerRank : Nat := 0
  dim : Nat
  rank : Nat
  link : Nat
  off : Nat
  used : Bool
  deriving DecidableEq, Repr

/-- The wiring rule of a port in a fabric. -/
def wireIn (topo : Nat) (sizes : Nat × Nat × Nat) (p : Nat) : Wire :=
  let q := 24 / topo
  let i := p % 6
  let dim := i % topo
  let r := 6 / topo * (p / 6) + i / topo
  let s := axis sizes dim
  { peerRank := r / (s - 1) * (s - 1) + (s - 2 - r % (s - 1)), dim := dim, rank := r, link := r / (s - 1), off := 1 + r % (s - 1)
    used := decide (2 ≤ s) && decide (r / (s - 1) < q / (s - 1)) }

/-- The wiring of a port of this package; an unused port before it has found its coordinate. -/
def wireOf (d : Dev) (p : Nat) : Wire :=
  match placed d with
  | some (t, s, _) => wireIn t s p
  | none => { dim := 0, rank := 0, link := 0, off := 0, used := false }

/-- The coordinate a port is cabled to (R297). -/
def peerOf (d : Dev) (p : Nat) : Option (Nat × Nat × Nat) :=
  match placed d with
  | some (t, s, c) =>
    let w := wireIn t s p
    if w.used then some (setAxis c w.dim ((axis c w.dim + w.off) % axis s w.dim)) else none
  | none => none

/-- This package's coordinate. -/
def ownCoord (d : Dev) : Nat × Nat × Nat := match placed d with | some (_, _, c) => c | none => (0, 0, 0)

/-- The used ports of a dimension, ascending. -/
def portsOfDim (d : Dev) (dim : Nat) : List Nat := which 24 (fun p => (wireOf d p).used && (wireOf d p).dim == dim)

/-! ### Port registers -/

/-- A port is UP or HALF (R311). -/
def portUp (d : Dev) (p : Nat) : Bool := (d.port p).state == 4 || (d.port p).state == 5

/-- LINK_STATUS (R315). -/
def linkStatus (d : Dev) (p : Nat) : Nat :=
  let x := d.port p
  let w := wireOf d p
  x.state % 8 + put 3 1 (b2n x.spareUsed) + put 4 4 x.lanes + put 8 2 w.dim + put 10 5 w.rank + put 15 5 w.link +
    (match x.peer with | some c => put 20 5 c.1 + put 25 5 c.2.1 + put 30 5 c.2.2 + put 35 1 1 | none => 0)

/-- FABRIC_STATUS (R316). -/
def fabricStatus (d : Dev) : Nat :=
  let f := d.fabric
  f.state + put 3 10 f.present.length + put 13 10 f.absent.length + put 23 1 (b2n ((List.range 24).any (fun p => (d.port p).state == 3))) +
    put 24 8 f.rounds + put 32 32 f.version

/-- Raise the fabric event (R428). -/
def fabricEvent (d : Dev) : Dev := raiseEvent 68 (fabricStatus d % 2 ^ 32) d

/-- PORTS_UP follows the ports (R22, R311). -/
def publishPorts (d : Dev) : Dev :=
  publishShape (fun s => { s with portsUp := BitVec.ofNat 24 ((which 24 (portUp d)).foldl (fun acc p => acc + 2 ^ p) 0) }) d

/-- Move a port to a state: the port's event, and PORTS_UP (R311, R428). -/
def setPort (p st : Nat) (d : Dev) : Dev :=
  let lanes := fun (x : Port) => if st = 4 then 10 else if st = 5 then 5 else if st = 6 then x.lanes else 0
  let d := d.modPort p (fun x => { x with state := st, lanes := lanes x })
  publishPorts (raiseEvent (304 + p) (linkStatus d p % 2 ^ 32) d)

/-! ### Routes (R302, R303) -/

/-- Ports of a dimension and offset that are up. -/
def linksTo (d : Dev) (dim off : Nat) : List Nat :=
  (portsOfDim d dim).filter (fun p => (wireOf d p).off == off && portUp d p)

/-- The cabled line from one coordinate to another of a dimension is known to be down. -/
def lineDown (d : Dev) (dim : Nat) (a b : Nat × Nat × Nat) : Bool :=
  d.fabric.down.any (fun l => l.dim.val == dim && ((l.here == a && l.there == b) || (l.here == b && l.there == a)))

/-- Dimension and offset of the next hop towards `t`: the direct link, or the lowest intermediate (R303). -/
def nextHop (d : Dev) (t : Nat × Nat × Nat) : Option (Nat × Nat) :=
  match placed d with
  | none => none
  | some (topo, s, c) =>
    match (List.range topo).find? (fun i => axis c i ≠ axis t i) with
    | none => none
    | some dim =>
      let n := axis s dim
      let off := (axis t dim + n - axis c dim) % n
      if !(linksTo d dim off).isEmpty then some (dim, off)
      else
        ((List.range n).drop 1).findSome? (fun o =>
          let via := setAxis c dim ((axis c dim + o) % n)
          let target := setAxis c dim (axis t dim)
          if o ≠ off ∧ !(linksTo d dim o).isEmpty ∧ !lineDown d dim via target then some (dim, o) else none)

/-- The port a packet for `t` goes out on, dealt round-robin over the links to the peer that are up (R302). -/
def routeOut (t : Nat × Nat × Nat) (d : Dev) : Option Nat × Dev :=
  match nextHop d t with
  | none => (none, d)
  | some (dim, off) =>
    let ls := linksTo d dim off
    let key := 32 * dim + off
    let j := Tab.get 0 d.fabric.turn key
    (ls[j % ls.length]?, d.modFabric (fun f => { f with turn := Tab.set 0 f.turn key ((j + 1) % ls.length) }))

/-- A package can be reached: it is in the fabric, not absent, and a route leads to it (R306, R313). -/
def reachable (d : Dev) (t : Nat × Nat × Nat) : Bool := !d.fabric.absent.contains (coordIndex d.fabric.table t) && (nextHop d t).isSome

/-- One bit of the CRC with the polynomial of ECMA-182 (R293). -/
def crc64Bit (c : BitVec 64) : BitVec 64 := if c.msb then (c <<< 1) ^^^ 0x42F0E1EBA9EA3693 else c <<< 1

/-- The 64-bit CRC of a flit's bytes (R293), most significant bit first and from zero (DESIGN CHOICE, log entry 45). -/
def crc64 (l : List Byte) : BitVec 64 :=
  l.foldl (fun c b => (List.range 8).foldl (fun c _ => crc64Bit c) (c ^^^ BitVec.shiftLeft (b.setWidth 64) 56)) 0

/-- The 256 bytes of a flit (R293): sequence numbers, credit, 242 packet bytes, the CRC of the first 248. -/
def flitBytes (seq ack : Nat) (nak : Bool) (vc credit creditVc : Nat) (payload : List Byte) : List Byte :=
  let l := leBytes 2 (seq % 4096) ++ leBytes 2 (ack % 4096 + put 12 1 (b2n nak) + put 13 3 vc) ++
    leBytes 2 (credit % 4096 + put 12 4 creditVc) ++ slice payload 0 242
  l ++ leBytes 8 (crc64 l).toNat

/-- A received flit passes its CRC (R293, R294): what FLIT_RECEIVE says of it. -/
def flitIntact (l : List Byte) : Bool := decide (l.length = 256) && decide ((crc64 (slice l 0 248)).toNat = leAt l 248 8)

/-- The flits that a packet begins on a port whose last flit holds so many packet bytes: packets run across flits without gaps
(R293). -/
def flitsOf (fill : Nat) (k : LinkPacket) : Nat :=
  ceilDiv (fill + 32 + k.payload.length) 242 - ceilDiv fill 242

/-- Put a packet's flits on a port (R294): they stay in the retry buffer until acknowledged; the port counts the bytes. -/
def putOnPort (p : Nat) (k : LinkPacket) (mine : Bool) (d : Dev) : Dev :=
  d.modPort p (fun x =>
    let n := flitsOf x.txFill k
    let seqs := (List.range n).map (fun j => (x.txSeq + j) % 4096)
    { x with
      txSeq := (x.txSeq + n) % 4096, txFill := (x.txFill + 32 + k.payload.length) % 242, retry := (x.retry ++ seqs).drop ((x.retry.length + n) - 1024)
      sentBytes := x.sentBytes + (if mine then 32 + k.payload.length else 0)
      forwardedBytes := x.forwardedBytes + (if mine then 0 else 32 + k.payload.length) })

/-- Send a packet of this package; it is kept until its acknowledgement arrives (R301). -/
def sendPacket (k : OutPkt) (d : Dev) : Dev :=
  let (p, d) := routeOut k.link.dest d
  let d := match p with | some p => putOnPort p k.link true d | none => d
  d.modFabric (fun f => { f with outbox := f.outbox ++ [{ k with port := p }] })

/-- The bytes that writes lay down, by address, zeros where nothing of a byte is written. -/
def stampWrites (l : List PtWrite) (d : Dev) : List (Nat × Byte) × Dev :=
  let addrs := (l.flatMap (fun w => w.acc.bytes.map Int.toNat)).dedup.mergeSort (fun a b => decide (a ≤ b))
  let (m, d) := l.foldl (fun (acc : Tab Byte × Dev) w =>
    let (b, d) := match w.bits with | some b => (b, acc.2) | none => useFree w.view.fmt.bits acc.2
    let sh := (w.view.bitPos w.off % 8).toNat
    let as_ := w.view.byteAddrs w.off
    let old := leNat (as_.map (fun a => Tab.get 0 acc.1 a.toNat))
    let new := old % 2 ^ sh + (b % 2 ^ w.view.fmt.bits) * 2 ^ sh + (old / 2 ^ (sh + w.view.fmt.bits)) * 2 ^ (sh + w.view.fmt.bits)
    let m := (List.zip as_ (leBytes as_.length new)).foldl (fun m p => Tab.set 0 m p.1.toNat p.2) acc.1
    let m := match w.scale with | some s => Tab.set 0 m (w.view.scaleAddr w.off).toNat (BitVec.ofNat 8 s) | none => m
    (m, d)) ([], d)
  (addrs.map (fun a => (a, Tab.get 0 m a)), d)

/-- Runs of consecutive addresses inside one 4 KiB-aligned block each (R300): start and bytes. -/
def blockRuns (l : List (Nat × Byte)) : List (Nat × List Byte) :=
  l.foldl (fun acc p =>
    match acc.getLast? with
    | some (a, bs) =>
      if p.1 = a + bs.length ∧ p.1 / 4096 = a / 4096 then acc.dropLast ++ [(a, bs ++ [p.2])] else acc ++ [(p.1, [p.2])]
    | none => [(p.1, [p.2])]) []

/-- The operation's record, the slot's part of it and the tile step of the transfer whose entry sent a packet. -/
def senderOf (d : Dev) (k : LinkPacket) : Option (PtRec × PtPart × Nat) :=
  d.cores.findSome? (fun (p : Nat × Core) =>
    let y := Tab.get ({} : Entry) p.2.entries k.tagEntry.toNat
    if y.state == 2 && y.own == 0 && y.ctx == k.ctx.val && y.slot == k.tagSlot.val && y.gen == k.tagGen then
      (d.op y.op).bind (fun r => (r.part y.slot).map (fun q => (r, q, y.step)))
    else none)

/-- What an LSEND's packet carries when its payload is read from the source again (R301); unchanged where the source no longer gives
such a packet, or leaves a value open. -/
def rereadPayload (d : Dev) (k : LinkPacket) : List Byte :=
  match senderOf d k with
  | some (r, q, step) =>
    match r.instr with
    | .lsend _ o =>
      let s := ptShape d q.at_ o.ldesc.toNat
      let w := copyWork s d (s.tileSteps.getD step []) o.baseSrc.toNat o.baseDst.toNat q.at_ false
      if w.stop.isSome || w.writes.any (fun y => y.bits.isNone) then k.payload
      else match (blockRuns (stampWrites w.writes d).1).find? (fun z => z.1 == k.addr.toNat && z.2.length == k.payload.length) with
        | some z => z.2
        | none => k.payload
    | _ => k.payload
  | none => k.payload

/-- Send a packet again (R301). -/
def resend (x : OutPkt) (d : Dev) : Dev :=
  sendPacket (if x.kind = 0 then { x with link := { x.link with payload := rereadPayload d x.link } } else x) d

/-- A task whose packet cannot be sent aborts with PREFETCH_FAULT cause 6 (R306). -/
def unreachable (k : LinkPacket) (d : Dev) : Dev :=
  abortPacket k .prefetchFault 6 d

/-- After a change of routes, unacknowledged packets whose port is not up are sent again on their new route, and those for
a package that cannot be reached fail (R301, R303, R313). -/
def reroute (d : Dev) : Dev :=
  let l := d.fabric.outbox
  let stuck := l.filter (fun k => match k.port with | some p => !portUp d p && (d.port p).state != 6 | none => true)
  let lost := (l.filter (fun k => !reachable d k.link.dest && (stuck.contains k || d.fabric.absent.contains (coordIndex d.fabric.table k.link.dest))))
  let again := stuck.filter (fun k => !lost.contains k)
  let d := d.modFabric (fun f => { f with outbox := f.outbox.filter (fun k => !again.contains k && !lost.contains k) })
  let d := again.foldl (fun d k => resend k d) d
  lost.foldl (fun d k => unreachable k.link d) d

/-! ### A port down, a peer absent -/

/-- Flood a notice. -/
def flood (n : Notice) (d : Dev) : Dev := d.modFabric (fun f => { f with notices := f.notices ++ [n] })

/-- The line between this package and a port's peer. -/
def lineOf (d : Dev) (p : Nat) : Option LinkLine :=
  match peerOf d p with
  | some c => some { dim := ⟨(wireOf d p).dim % 3, by omega⟩, here := ownCoord d, there := c }
  | none => none

/-- Declare a package absent (R313). -/
def declareAbsent (c : Nat × Nat × Nat) (d : Dev) : Dev :=
  let j := coordIndex d.fabric.table c
  if d.fabric.absent.contains j then d
  else fabricEvent (d.modFabric (fun f => { f with absent := f.absent ++ [j], present := f.present.filter (· ≠ j) }))

/-- A peer to which every link and every detour is lost is declared absent, and that is flooded (R313). -/
def checkPeer (c : Nat × Nat × Nat) (d : Dev) : Dev :=
  if d.fabric.state = 3 ∧ (nextHop d c).isNone ∧ c ≠ ownCoord d ∧ !d.fabric.absent.contains (coordIndex d.fabric.table c) then
    flood (.absent c) (declareAbsent c d)
  else d

/-- A port leaves service (R296, R303), by a fault or by an order: its retry buffer is dropped, both lines are told, and traffic
reroutes. A package whose every port is down has left (R313). A fault leaves its record (R452). -/
def portLeaves (fault : Bool) (p : Nat) (d : Dev) : Dev :=
  if (d.port p).state = 0 ∨ (d.port p).state = 7 then d
  else
    let carried := portUp d p || (d.port p).state == 6
    let d := setPort p 0 (d.modPort p (fun x => { x with lane := none, second := none, retry := [], rxSeq := none, replaySeq := none, txFill := 0
                                                         replayRuns := 0, peer := none, peerId := none }))
    let d := if d.fabric.state = 2 ∧ !d.fabric.roundsRestarted then
        d.modFabric (fun f => { f with rounds := 0, roundsRestarted := true }) else d
    if !carried then d
    else match lineOf d p with
      | none => d
      | some l =>
        let gone := (linksTo d l.dim.val (wireOf d p).off).isEmpty
        let d := flood (.down l) (if gone then d.modFabric (fun f => { f with down := if f.down.contains l then f.down else f.down ++ [l] }) else d)
        let d := if fault then
            errReport { cls := 6, level := 3, action := 10, loc := errLoc p 0 none, detail := linkStatus d p % 2 ^ 32
                        die := some (dieOfPort p) } d
          else d
        reroute (checkPeer l.there d)

/-- PORT_DOWN (R296, R303): a port fails. -/
def portDown (p : Nat) (d : Dev) : Dev := portLeaves true p d

def execPortDown (p : PortId) (s : State) : Res := s.upd (portDown p.val)

/-- LINK_DOWN_NOTICE (R303): the line is known to be down. -/
def linkDownNotice (l : LinkLine) (d : Dev) : Dev :=
  let d := if d.fabric.down.contains l then d else d.modFabric (fun f => { f with down := f.down ++ [l] })
  reroute (checkPeer l.there (checkPeer l.here d))

def execLinkDownNotice (l : LinkLine) (s : State) : Res := s.upd (linkDownNotice l)

/-- PORT_RETURN_NOTICE (R303): routes revert; packets already on the detour are not recalled. -/
def portReturnNotice (l : LinkLine) (d : Dev) : Dev :=
  d.modFabric (fun f => { f with down := f.down.filter (fun x =>
    !(x.dim == l.dim && ((x.here == l.here && x.there == l.there) || (x.here == l.there && x.there == l.here)))) })

def execPortReturnNotice (l : LinkLine) (s : State) : Res := s.upd (portReturnNotice l)

/-- ABSENT_NOTICE (R313): packets for the package are no longer sent. -/
def execAbsentNotice (c : Nat × Nat × Nat) (s : State) : Res := s.upd (fun d => reroute (declareAbsent c d))

/-- LEAVE_NOTICE (R313): the package has left; packets passing through it go on other routes. -/
def execLeaveNotice (c : Nat × Nat × Nat) (s : State) : Res := s.upd (fun d => reroute (declareAbsent c d))

/-! ### Flits and lanes (R293 to R296) -/

/-- The sender resends from a flit; the eighth replay in a row of one flit takes the port down (R294). -/
def flitNak (p seq : Nat) (d : Dev) : Dev :=
  let x := d.port p
  if !(portUp d p || x.state == 6) ∨ !x.retry.contains seq then d
  else
    let runs := if x.replaySeq = some seq then x.replayRuns + 1 else 1
    let d := d.modPort p (fun x => { x with replays := satAdd 16 x.replays 1, replaySeq := some seq, replayRuns := runs })
    if 8 ≤ runs then portDown p d else d

def execFlitNak (p : PortId) (seq : BitVec 12) (s : State) : Res := s.upd (flitNak p.val seq.toNat)

/-- FLIT_RECEIVE (R293, R294): a flit that fails its CRC is answered with NAK; its ACK frees retry-buffer flits; a flit
accepted before is dropped; one out of order is answered with NAK. -/
def flitReceive (p seq ack : Nat) (nak : Bool) (credit : Nat) (crcOk : Bool) (d : Dev) : Dev :=
  let x := d.port p
  if !(portUp d p || x.state == 6) then d
  else
    let expected := match x.rxSeq with | some r => (r + 1) % 4096 | none => seq
    if !crcOk then d.modPort p (fun x => { x with flitReplies := x.flitReplies ++ [(expected, true)] })
    else
      let d := d.modPort p (fun x =>
        let keep := x.retry.filter (fun s => decide (2048 ≤ (ack + 4096 - s) % 4096))
        { x with retry := keep, credits := x.credits + credit % 4096
                 replaySeq := x.replaySeq.filter (fun s => keep.contains s) })
      let d := if seq = expected then d.modPort p (fun x => { x with rxSeq := some seq, flitReplies := x.flitReplies ++ [(seq, false)] })
        else if (expected + 4096 - 1 - seq) % 4096 < 2048 then d
        else d.modPort p (fun x => { x with flitReplies := x.flitReplies ++ [(expected, true)] })
      if nak then flitNak p ((ack + 1) % 4096) d else d

def execFlitReceive (p : PortId) (seq ack : BitVec 12) (nak : Bool) (credit : BitVec 12) (payload : List Byte) (crcOk : Bool)
    (s : State) : Res :=
  let _ := payload
  s.upd (flitReceive p.val seq.toNat ack.toNat nak credit.toNat crcOk)

/-- A lane of a port fails (R295, R296, R314): to the spare, to half width, or down; a failure during a swap follows it. -/
def laneFail (p lane : Nat) (d : Dev) : Dev :=
  let x := d.port p
  if x.state = 4 then setPort p 6 (d.modPort p (fun x => { x with lane := some lane, second := none }))
  else if x.state = 5 then portDown p d
  else if x.state = 6 then d.modPort p (fun x => { x with second := some lane })
  else d

def execLaneFail (p : PortId) (lane : Fin 11) (s : State) : Res := s.upd (laneFail p.val lane.val)

/-- LANE_SWAP_DONE (R295, R296): the spare carries the failed lane, or the port runs at half width; unacknowledged flits
are resent and the port resumes. A lane that failed meanwhile is then dealt with (R314). -/
def laneSwapDone (p : Nat) (d : Dev) : Dev :=
  let x := d.port p
  if x.state ≠ 6 then d
  else
    let half := x.spareUsed
    let d := d.modPort p (fun x => { x with spareUsed := true, swaps := satAdd 8 x.swaps 1, lane := none, second := none })
    let d := setPort p (if half then 5 else 4) d
    let d := errReport { cls := 5, level := 3, action := if half then 9 else 8, loc := errLoc p (x.lane.getD 0) none
                         detail := linkStatus d p % 2 ^ 32, spare := if half then 0 else 2, die := some (dieOfPort p) } d
    match x.second with
    | some lane => laneFail p lane d
    | none => d

def execLaneSwapDone (p : PortId) (s : State) : Res := s.upd (laneSwapDone p.val)

/-! ### Bring-up (R308 to R312) -/

/-- A port may train: it is used, enabled, of a die that runs and of a package that has found its coordinate and is awake (R297,
R309, R315, R463, R469). -/
def trainable (d : Dev) (p : Nat) : Bool :=
  (wireOf d p).used && (d.linkCfg p).enable && !d.fabric.leaving && d.pwr.asleep == 0 && !Tab.get false d.pwr.dieDown (dieOfPort p)

/-- PORT_RETRAIN_TIMER (R296): a port that is down retrains every 1 s. -/
def execPortRetrainTimer (p : PortId) (s : State) : Res :=
  s.upd (fun d => if (d.port p.val).state = 0 ∧ trainable d p.val then setPort p.val 1 d else d)

/-- LINK_TRAINING_DONE (R308): a lane that failed training is replaced by the spare; more than the spare can replace leaves
the port down. -/
def linkTrainingDone (p failed : Nat) (d : Dev) : Dev :=
  if (d.port p).state ≠ 1 ∨ !trainable d p then d
  else
    let spare := (d.port p).spareUsed
    if 1 < failed ∨ (spare ∧ failed ≠ 0) then setPort p 0 d
    else setPort p 2 (d.modPort p (fun x => { x with spareUsed := spare || failed == 1 }))

def execLinkTrainingDone (p : PortId) (failedLanes : Nat) (s : State) : Res := s.upd (linkTrainingDone p.val failedLanes)

/-- The two conditions of R309 on a port's authenticated peer. -/
def peerMatches (d : Dev) (p : Nat) : Bool :=
  match (d.port p).peerId, peerOf d p with
  | some (h, g), some c => decide (tableEntry d.fabric.table (coordIndex d.fabric.table c) = h.toNat) && decide (g = tableDigest d)
  | _, _ => false

/-- A port that has passed its checks carries traffic (R309, R312): its line is up again, and that is told (R303). -/
def portService (p : Nat) (d : Dev) : Dev :=
  let d := d.modPort p (fun x => { x with peer := peerOf d p })
  let d := setPort p 4 d
  let d := if d.fabric.state = 2 ∧ !d.fabric.roundsRestarted ∧ d.fabric.rounds ≠ 0 then
      d.modFabric (fun f => { f with rounds := 0, roundsRestarted := true }) else d
  match lineOf d p with
  | some l => flood (.back l) (d.modFabric (fun f => { f with
      down := f.down.filter (fun x => !(x.dim == l.dim && x.here == l.here && x.there == l.there))
      known := if f.known.contains l then f.known else f.known ++ [l] }))
  | none => d

/-- IDENTITY_EXCHANGE (R309, R310, R489): a peer that fails is REFUSED with a record, as every exchange fails while ID_BAD (R486);
a valid one is checked against the fabric table and HELD where it does not match, until a later exchange shows the same table at
both ends (R314). While the fabric runs, the port then waits to join (R312). -/
def identityExchange (p : Nat) (chainOk sigOk : Bool) (peer digest : BitVec 256) (d : Dev) : Dev :=
  if (d.port p).state ≠ 2 ∧ (d.port p).state ≠ 3 then d
  else if !chainOk || !sigOk || d.sec.idBad then
    let d := setPort p 7 d
    let d := { d with sec := { d.sec with authFails := d.sec.authFails + 1 } }
    errReport { cls := 6, level := 3, action := 15, status := Status.code .authFail, loc := errLoc p 0 none
                detail := linkStatus d p % 2 ^ 32, die := some (dieOfPort p) } d
  else
    let d := d.modPort p (fun x => { x with peerId := some (peer, digest) })
    if !peerMatches d p then fabricEvent (setPort p 3 d)
    else if d.fabric.state = 3 then (if (d.port p).state = 3 then setPort p 2 d else d)
    else portService p d

def execIdentityExchange (p : PortId) (chainOk sigOk : Bool) (peer digest : BitVec 256) (s : State) : Res :=
  s.upd (identityExchange p.val chainOk sigOk peer digest)

/-- PORT_JOIN (R312): a port that came up while the fabric runs carries traffic; an absent package joins where AUTOJOIN
is 1. -/
def portJoin (p : Nat) (d : Dev) : Dev :=
  if (d.port p).state ≠ 2 ∨ d.fabric.state ≠ 3 ∨ !peerMatches d p then d
  else match peerOf d p with
    | none => d
    | some c =>
      let j := coordIndex d.fabric.table c
      if d.fabric.absent.contains j ∧ !d.cfg.autojoin then d
      else
        let d := portService p d
        d.modFabric (fun f => { f with absent := f.absent.filter (· ≠ j), present := if f.present.contains j then f.present else f.present ++ [j] })

def execPortJoin (p : PortId) (s : State) : Res := s.upd (portJoin p.val)

/-- Every non-vacant coordinate has announced ready (R311). -/
def checkReady (d : Dev) : Dev :=
  if d.fabric.state ≠ 1 ∧ d.fabric.state ≠ 2 then d
  else if (population d).all (fun j => d.fabric.present.contains j) ∧ d.fabric.readySent then
    let d := d.modFabric (fun f => { f with state := 3 })
    raiseEvent 69 d.fabric.present.length d
  else d

/-- When its rounds are done and its stacks are trained, the package floods ready (R311). -/
def announceReady (d : Dev) : Dev :=
  match placed d with
  | some (t, _, c) =>
    if d.fabric.readySent ∨ d.fabric.state ≠ 2 ∨ d.fabric.rounds < t ∨ !d.fabric.stacksReady then d
    else
      let j := coordIndex d.fabric.table c
      checkReady (flood (.ready c (tableDigest d)) (d.modFabric (fun f => { f with
        readySent := true, present := if f.present.contains j then f.present else f.present ++ [j] })))
  | none => d

/-- A link fits the wiring rule: two coordinates of the fabric that differ in its dimension alone (R297, R309). -/
def linkFits (sizes : Nat × Nat × Nat) (l : LinkLine) : Bool :=
  (List.range 3).all (fun i =>
    decide (axis l.here i < axis sizes i) && decide (axis l.there i < axis sizes i) &&
      (if i = l.dim.val then axis l.here i != axis l.there i else axis l.here i == axis l.there i))

/-- COORD_ROUND (R309): the round sends the verified links that are known, and links received are checked; a mismatch holds the
ports concerned and raises the fabric event. After D rounds the coordinate is verified and the shape table's fabric fields are
written. -/
def coordRound (links : List LinkLine) (d : Dev) : Dev :=
  match placed d with
  | none => d
  | some (t, sizes, c) =>
    if d.fabric.state ≠ 1 ∧ d.fabric.state ≠ 2 then d
    else
      let bad := links.filter (fun l => !linkFits sizes l)
      let ps := which 24 (fun p => portUp d p && bad.any (fun l => (d.port p).peer == some l.here || (d.port p).peer == some l.there))
      let d := ps.foldl (fun d p => setPort p 3 d) d
      let d := d.modFabric (fun f => { f with
        state := 2, rounds := min 255 (f.rounds + 1), known := f.known ++ (links.filter (linkFits sizes)).filter (fun l => !f.known.contains l) })
      let d := flood (.links d.fabric.known) (if bad.isEmpty then d else fabricEvent d)
      let d := if d.fabric.rounds = t then
          publishShape (fun s => { s with topology := t, dim := sizes, coord := c }) d
        else d
      announceReady d

def execCoordRound (links : List LinkLine) (s : State) : Res := s.upd (coordRound links)

/-- READY_NOTICE (R311): recorded; another digest marks a table conflict. -/
def readyNotice (c : Nat × Nat × Nat) (digest : BitVec 256) (d : Dev) : Dev :=
  if (placed d).isNone then d
  else if digest ≠ tableDigest d then fabricEvent (d.modFabric (fun f => { f with state := 6 }))
  else
    let j := coordIndex d.fabric.table c
    if tableCount d.fabric.table ≤ j then d
    else checkReady (d.modFabric (fun f => { f with
      present := if f.present.contains j then f.present else f.present ++ [j], absent := f.absent.filter (· ≠ j) }))

def execReadyNotice (c : Nat × Nat × Nat) (digest : BitVec 256) (s : State) : Res := s.upd (readyNotice c digest)

/-- FABRIC_WAIT_EXPIRY (R311): fabric-ready is raised and the missing coordinates are absent. -/
def fabricWaitExpiry (d : Dev) : Dev :=
  if d.fabric.state ≠ 1 ∧ d.fabric.state ≠ 2 then d
  else
    let d := d.modFabric (fun f => { f with
      state := 3, absent := f.absent ++ (population d).filter (fun j => !f.present.contains j && !f.absent.contains j) })
    raiseEvent 69 d.fabric.present.length d

def execFabricWaitExpiry (s : State) : Res := s.upd fabricWaitExpiry

/-- Adopt the table as the one in force (R309): no valid table, own identity not found once, or linking; without a coordinate every
port is HELD. -/
def fabricStart (d : Dev) : Dev :=
  let st := if !tableValid d.fabric.table then 4 else if (placed d).isNone then 5 else 1
  let d := d.modFabric (fun f => { f with
    state := st, rounds := 0, roundsRestarted := false, leaving := false, present := [], absent := [], readySent := false, known := [], down := []
    version := if st = 1 then leAt f.table 8 4 else 0 })
  if st = 1 then d
  else
    let d := (which 24 (fun p => (d.port p).state != 7)).foldl (fun d p => setPort p 3 d) d
    fabricEvent (publishShape (fun s => { s with topology := 0, dim := (1, 1, 1), coord := (0, 0, 0) }) d)

/-- The whole table that FABRIC_TABLE holds (R307): COUNT entries, what nothing has written reading as zeros. -/
def wholeTable (l : List Byte) : List Byte := slice l 0 (64 + (if 729 < tableCount l then 0 else 32 * tableCount l))

/-- FABRIC_RESOLVE (R307, R314): the table written is adopted; a port whose peer does not match it is HELD, and one that
does carries traffic. Carried out from the host without EXPERT too. -/
def fabricResolve (src : Source) (d : Dev) : Dev :=
  writeFrom src true (fun _ => false) (fun d =>
    let d := fabricStart (d.modFabric (fun f => { f with table := wholeTable f.written }))
    (List.range 24).foldl (fun d p =>
      let x := d.port p
      if x.state ∈ [3, 4, 5, 6] then
        if !(wireOf d p).used then setPort p 0 d
        else if x.state = 3 ∧ x.peerId.isNone then setPort p (if trainable d p then 1 else 0) d
        else if !peerMatches d p then (if x.state = 3 then d else setPort p 3 d)
        else if x.state = 3 then portService p d
        else d.modPort p (fun x => { x with peer := peerOf d p })
      else d) d) d

def execFabricResolve (src : Source) (s : State) : Res := s.upd (fabricResolve src)

/-- FABRIC_LEAVE (R313): a leave notice is flooded and no new packet for its contexts is accepted. Only the leading hub
complex may write it. -/
def fabricLeave (src : Source) (d : Dev) : Dev :=
  writeFrom src false (fun _ => false) (fun d => flood (.leave (ownCoord d)) (d.modFabric (fun f => { f with leaving := true }))) d

def execFabricLeave (src : Source) (s : State) : Res := s.upd (fabricLeave src)

/-- LEAVE_FORWARD_END (R313): the ports go down. -/
def leaveForwardEnd (d : Dev) : Dev :=
  if !d.fabric.leaving then d
  else
    let d := (List.range 24).foldl (fun d p => portLeaves false p d) d
    d.modFabric (fun f => { f with state := 0, readySent := false, present := [] })

def execLeaveForwardEnd (s : State) : Res := s.upd leaveForwardEnd

/-- The port is taken down and trains (R310). -/
def retrainPort (p : Nat) (d : Dev) : Dev :=
  let d := portLeaves false p d
  if trainable d p then setPort p 1 d else setPort p 0 d

/-- LINK_RETRAIN (R310, R315): from the leading hub complex or the die's own crier. -/
def execLinkRetrain (src : Source) (p : PortId) (s : State) : Res :=
  s.upd (dieOwnWrite (.linkRetrain src p) src (dieOfPort p.val) (retrainPort p.val))

/-! ### Forwarding and counters -/

/-- PACKET_FORWARD (R302): a packet for another package goes out on its route, one hop on; memory is not touched. -/
def packetForward (p hops : Nat) (k : LinkPacket) (d : Dev) : Dev :=
  if k.dest = ownCoord d ∨ !portUp d p ∨ 6 ≤ hops then d
  else
    let (o, d) := routeOut k.dest d
    match o with
    | some q => putOnPort q k false (d.modFabric (fun f => { f with passed := f.passed ++ [(q, k)] }))
    | none => d

def execPacketForward (p : PortId) (hops : BitVec 3) (k : LinkPacket) (s : State) : Res := s.upd (packetForward p.val hops.toNat k)

/-- LINK_ERRORS (R315): the saturating counts are returned and cleared; SWAPS stays. -/
def linkErrorsRead (p : Nat) (d : Dev) : Dev :=
  let x := d.port p
  answer (min x.corrected (2 ^ 24 - 1) + put 24 16 (min x.uncorrected 65535) + put 40 16 x.replays + put 56 8 x.swaps)
    (d.modPort p (fun x => { x with corrected := 0, uncorrected := 0, replays := 0 }))

def execLinkErrorsRead (p : PortId) (s : State) : Res := s.upd (linkErrorsRead p.val)

/-- LINK_TRAFFIC (R315), in MiB. -/
def linkTrafficRead (p : Nat) (d : Dev) : Dev :=
  let (x, d) := shown 32 ((d.port p).sentBytes / 2 ^ 20) d
  let (y, d) := shown 32 ((d.port p).forwardedBytes / 2 ^ 20) d
  answer (x + 2 ^ 32 * y) (d.modPort p (fun x => { x with sentBytes := 0, forwardedBytes := 0 }))

def execLinkTrafficRead (p : PortId) (s : State) : Res := s.upd (linkTrafficRead p.val)

/-- LINK_REFUSED (R315). -/
def linkRefusedRead (p : Nat) (d : Dev) : Dev :=
  let (a, d) := shown 16 (d.port p).stale d
  let (b, d) := shown 16 (d.port p).window d
  let (c, d) := shown 16 (d.port p).ahead d
  let (e, d) := shown 16 (d.port p).full d
  answer (a + 2 ^ 16 * b + 2 ^ 32 * c + 2 ^ 48 * e) (d.modPort p (fun x => { x with stale := 0, window := 0, ahead := 0, full := 0 }))

def execLinkRefusedRead (p : PortId) (s : State) : Res := s.upd (linkRefusedRead p.val)

end Sys2Proof.Machine
end

