-- ==== Sys2Proof/Machine/Layout.lean ====
section
/-! DEFINITION. Reduction descriptors, layouts, and which of a reduction's chunks are in place (14_reduction.md R323 to R329,
R342). -/

namespace Sys2Proof.Machine

/-! ### Descriptors and layouts -/

/-- A reduction descriptor (R326). -/
structure RedDesc where
  elements : Nat
  xbase : Nat
  rbase : Nat
  rfmt : FmtWord
  deadline : Nat
  xtoken : Nat
  htoken : Nat
  rtoken : Nat
  owners : List Nat

def RedDesc.ofBytes (l : List Byte) : RedDesc :=
  { elements := leAt l 0 8, xbase := field (leAt l 8 8) 47 0, rbase := field (leAt l 16 8) 47 0, rfmt := FmtWord.ofNat (leAt l 24 4)
    deadline := leAt l 28 4, xtoken := field (leAt l 32 2) 11 0, htoken := field (leAt l 34 2) 11 0, rtoken := field (leAt l 36 2) 11 0
    owners := which 128 (bit (leAt l 48 16)) }

/-- Descriptor `r` of the program in a context. -/
def redDesc (d : Dev) (t : CtxId) (r : Nat) : RedDesc := RedDesc.ofBytes (slice (d.ctx t).theProg.reductions (64 * r) 64)

/-- Chunks of a tensor (R325). -/
def RedDesc.chunks (x : RedDesc) : Nat := ceilDiv x.elements 768

def Dev.redCtx (d : Dev) (t : CtxId) : RedCtx := Tab.get {} d.red t.val
def Dev.modRed (d : Dev) (t : CtxId) (f : RedCtx → RedCtx) : Dev := { d with red := Tab.mod {} d.red t.val f }

def RedLayout.mask (l : RedLayout) : Nat → BitVec 32
  | 0 => l.maskX
  | 1 => l.maskY
  | _ => l.maskZ

/-- The member coordinates of a dimension, ascending; one stage each where there is more than one (R323, R324). -/
def RedLayout.members_ (l : RedLayout) (dim : Nat) : List Nat := which 32 (fun v => (l.mask dim).getLsbD v)

/-- The dimensions that are stages (R324). -/
def RedLayout.stages (l : RedLayout) : List Nat := [0, 1, 2].filter (fun i => decide (1 < (l.members_ i).length))

/-- A package's rank in stage `σ`. -/
def RedLayout.rank (l : RedLayout) (c : Nat × Nat × Nat) (dim : Nat) : Nat := ((l.members_ dim).filter (fun v => decide (v < axis c dim))).length

/-- The package is a member (R323). -/
def RedLayout.member (l : RedLayout) (c : Nat × Nat × Nat) : Bool :=
  [0, 1, 2].all (fun i => l.mask i == 0 || (l.mask i).getLsbD (axis c i))

/-- The member index of a coordinate (R324). -/
def RedLayout.index (l : RedLayout) (c : Nat × Nat × Nat) : Nat :=
  (l.stages.foldr (fun dim acc => l.rank c dim + (l.members_ dim).length * acc) 0)

/-- The member of rank `r` on a coordinate's line in a dimension. -/
def RedLayout.onLine (l : RedLayout) (c : Nat × Nat × Nat) (dim r : Nat) : Nat × Nat × Nat :=
  setAxis c dim ((l.members_ dim).getD r (axis c dim))

/-- Every member's coordinate, for one package's line of sight. -/
def RedLayout.everyone (l : RedLayout) (own : Nat × Nat × Nat) : List (Nat × Nat × Nat) :=
  let vs := fun (i : Nat) => if l.mask i = 0 then [axis own i] else l.members_ i
  (vs 0).flatMap (fun x => (vs 1).flatMap (fun y => (vs 2).map (fun z => (x, y, z))))

/-- The sub-range of rank `j` of `s` in [a, b) (R325). -/
def subRange (a b s j : Nat) : Nat × Nat := (a + ceilDiv (j * (b - a)) s, a + ceilDiv ((j + 1) * (b - a)) s)

/-- The range a package holds before stage `n` (R325). -/
def RedLayout.rangeAt (l : RedLayout) (c : Nat × Nat × Nat) (total n : Nat) : Nat × Nat :=
  (l.stages.take n).foldl (fun (r : Nat × Nat) dim => subRange r.1 r.2 (l.members_ dim).length (l.rank c dim)) (0, total)

/-- The rank in stage `n` that keeps a chunk of the package's range (R325). -/
def RedLayout.keeper (l : RedLayout) (c : Nat × Nat × Nat) (total n chunk : Nat) : Nat :=
  let (a, b) := l.rangeAt c total n
  let s := match l.stages[n]? with | some dim => (l.members_ dim).length | none => 1
  ((List.range s).find? (fun j => let (x, y) := subRange a b s j; decide (x ≤ chunk) && decide (chunk < y))).getD 0

/-- The owned range (R325). -/
def RedLayout.owned (l : RedLayout) (c : Nat × Nat × Nat) (total : Nat) : Nat × Nat := l.rangeAt c total l.stages.length

/-- An owner slot's share of the owned range (R325). -/
def slotRange (l : RedLayout) (c : Nat × Nat × Nat) (x : RedDesc) (k : Nat) : Nat × Nat :=
  let (a, b) := l.owned c x.chunks
  if x.owners.contains k then subRange a b x.owners.length (x.owners.filter (· < k)).length else (0, 0)

/-- The port whose bank gathers a chunk at a stage (R331). -/
def gatherPort (d : Dev) (l : RedLayout) (stage chunk : Nat) : Nat :=
  match l.stages[stage]? with
  | some dim => let ps := portsOfDim d dim; ps.getD (chunk / 128 % ps.length) 0
  | none => chunk / 128 % 24

/-! ### Runs -/

def Dev.run (d : Dev) (t : CtxId) (r : Nat) : Option RedRun := Tab.get none (d.redCtx t).runs r
/-- Change a reduction's state; it opens if it was not (R342). -/
def Dev.modRun (d : Dev) (t : CtxId) (r : Nat) (f : RedRun → RedRun) : Dev :=
  d.modRed t (fun c => { c with runs := Tab.mod none c.runs r (fun x => some (f (x.getD {}))) })

def Dev.adderBank (d : Dev) (p : Nat) : Bank2 := Tab.get {} d.banks p
def Dev.modBank (d : Dev) (p : Nat) (f : Bank2 → Bank2) : Dev := { d with banks := Tab.mod {} d.banks p f }

/-- A reduction is open on this package (R342). -/
def redOpen (d : Dev) (t : CtxId) (r : Nat) : Bool :=
  match d.run t r with
  | none => false
  | some x =>
    let l := (d.redCtx t).layout
    let desc := redDesc d t r
    let (a, b) := l.owned d.shape.coord desc.chunks
    !(decide (b - a ≤ x.handed.length) && x.rtoken && (List.range 24).all (fun p => (d.adderBank p).chunks.all (fun c => !(c.ctx == t && c.red == r))) &&
      d.fabric.outbox.all (fun k => !(k.kind == 3 && k.link.ctx == t && (match k.red with | some q => q.reduction.toNat == r | none => false))))

/-- Reductions open on the package, all contexts. -/
def openCount (d : Dev) : Nat :=
  (allCtx.map (fun t => ((d.redCtx t).runs.filter (fun (p : Nat × Option RedRun) => redOpen d t p.1)).length)).foldl (· + ·) 0

/-! ### Proposals and parameters in place (R329, R338) -/

/-- Every chunk of a list of `n` is there. -/
def allChunks (n : Nat) (l : List Nat) : Bool := (List.range n).all (fun c => l.contains c)

/-- XTOKEN arrives once when the whole proposal array is final (R329). -/
def checkX (t : CtxId) (r : Nat) (d : Dev) : Dev :=
  let x := redDesc d t r
  match d.run t r with
  | some z => if !z.xtoken && allChunks x.chunks z.proposals then arrive t x.xtoken (d.modRun t r (fun z => { z with xtoken := true })) else d
  | none => d

/-- RTOKEN arrives once when all chunks are in place; owned ones count when the owner slots' RGATHERs have raised their
TOKEN (R329). -/
def checkR (t : CtxId) (r : Nat) (d : Dev) : Dev :=
  let x := redDesc d t r
  let l := (d.redCtx t).layout
  match d.run t r with
  | some z =>
    let (a, b) := l.owned d.shape.coord x.chunks
    let mine := !l.member d.shape.coord || x.owners.all (fun k =>
      let (lo, hi) := slotRange l d.shape.coord x k
      decide (hi ≤ lo) || z.gathered.contains k)
    let own := fun (c : Nat) => l.member d.shape.coord && decide (a ≤ c) && decide (c < b)
    if !z.rtoken && mine && (List.range x.chunks).all (fun c => own c || z.params.contains c) then
      arrive t x.rtoken (d.modRun t r (fun z => { z with rtoken := true }))
    else d
  | none => d

/-- A slot whose RGATHER has raised its TOKEN (R329). -/
def gatherDone (t : CtxId) (red k : Nat) (d : Dev) : Dev :=
  checkR t red (d.modRun t red (fun z => { z with gathered := if z.gathered.contains k then z.gathered else z.gathered ++ [k] }))

/-- A slot's part of a link operation ends (R49, R300, R329). -/
def linkPartDone (n k : Nat) (d : Dev) : Dev :=
  match d.op n with
  | none => d
  | some r =>
    let d := partDone n k (fun d r i => dataWritten r.instr [] i d) d
    match r.instr with
    | .rgather _ o => gatherDone r.ctx (field o.oparg.toNat 10 0) k d
    | _ => d

end Sys2Proof.Machine
end

