-- ==== Sys2Proof/Machine/Links.lean ====
section
/-! DEFINITION. Link packets (13_fabric.md R299 to R306): what LSEND sends, how a receiving context accepts a packet, and
what acknowledgements and refusals do. -/

namespace Sys2Proof.Machine

/-- The layout epoch of a context (R323). -/
def ctxEpoch (d : Dev) (t : CtxId) : BitVec 64 := (Tab.get ({} : RedCtx) d.red t.val).layout.epoch

/-! ### LSEND -/

/-- The destination of an LSEND (R300); none where an absolute coordinate lies outside FABRIC_DIM. -/
def lsendDest (d : Dev) (o : PtOp) : Option (Nat × Nat × Nat) :=
  let a := o.oparg.toNat
  let (x, y, z) := (field a 4 0, field a 9 5, field a 14 10)
  let (sx, sy, sz) := d.shape.dim
  let (cx, cy, cz) := d.shape.coord
  if bit a 15 then some ((cx + x) % sx, (cy + y) % sy, (cz + z) % sz)
  else if x < sx ∧ y < sy ∧ z < sz then some (x, y, z) else none

/-- An LSEND whose destination is this package runs as COPY (R300). -/
def selfSend (d : Dev) : Instr → Bool
  | .lsend _ o => lsendDest d o == some d.shape.coord
  | _ => false

/-- The header of a packet that entry `e` sends (R299). -/
def headerOf (d : Dev) (t : CtxId) (k : Nat) (e : Nat) (gen : BitVec 4) (dest : Nat × Nat × Nat) : LinkPacket :=
  { ctx := t, dest := dest, src := d.shape.coord, epoch := ctxEpoch d t, step := (d.ctx t).step
    tagSlot := ⟨k % 128, by omega⟩, tagEntry := BitVec.ofNat 9 e, tagGen := gen, remoteToken := 0, addr := 0, payload := [] }

/-- LSEND's destination cannot be reached (R306): the transfer fails. -/
def stopUnreachable (core : Nat) (r : PtRec) (i : Issue) (d : Dev) : Dev :=
  let (g, d) := useFree 48 d
  stopTransfer core r i (.pfault 6 g) d

/-- A transfer of LSEND is sent (R300): its source is read and checked, and it is cut into packets. -/
def lsendTransfer (core e : Nat) (x : Entry) (r : PtRec) (o : PtOp) (i : Issue) (steps : List Nat) (d : Dev) : Dev :=
  let s := ptShape d i o.ldesc.toNat
  let v := veilOn d
  let w := copyWork s v steps o.baseSrc.toNat o.baseDst.toNat i false
  let lev := faultLevel s.env.runs none []
  let wrap := (w.writes.flatMap (fun z => z.acc.bytes)).find? (fun a => decide (a < 0) || decide ((2 ^ 48 : Int) ≤ a))
  match (ptFirst true s d (earlierAccs d (fun st => (copyWork s d st o.baseSrc.toNat o.baseDst.toNat i false).reads) s i.k x.step) { reads := w.reads }).map Prod.snd |>.orElse (fun _ => w.stop) |>.orElse (fun _ =>
      wrap.map (fun a => Stop.overflow 1 (wrapInt 48 a) lev)) |>.orElse (fun _ => ptMedia d { reads := w.reads }) with
  | some z => stopTransfer core r i z d
  | none =>
    match lsendDest d o with
    | none => stopUnreachable core r i d
    | some dest =>
      if !reachable d dest then stopUnreachable core r i d
      else
        let (bytes, d) := stampWrites w.writes (d.took v)
        let runs := blockRuns bytes
        let h := headerOf d r.ctx i.k e x.gen dest
        let d := d.modCore core (fun c => { c with
          entries := Tab.mod {} c.entries e (fun y => { y with state := 2, packets := runs.length })
          readBytes := c.readBytes + tierBytes w.reads })
        runs.foldl (fun d p => sendPacket { port := none, kind := 0, link := { h with addr := BitVec.ofNat 48 p.1, payload := p.2 } } d) d

/-- A slot's remote token, if the operation enables one (R300). -/
def remoteToken (c : Instr) : Option (BitVec 12) :=
  match c with
  | .lsend _ o => if o.ext.getLsbD 12 then some (o.ext.setWidth 12) else none
  | _ => none

/-- Every packet of an entry's transfer is acknowledged (R300): the entry is freed; after a slot's last transfer of an
LSEND the token packet goes out on the last entry, and its acknowledgement ends the slot's part. -/
def entryAcked (core e : Nat) (d : Dev) : Dev :=
  let x := Tab.get ({} : Entry) (d.core core).entries e
  match d.op x.op with
  | none => d
  | some r =>
    match r.part x.slot with
    | none => d
    | some p =>
      let last := decide (p.steps ≤ p.landed + 1)
      match r.instr, remoteToken r.instr with
      | .lsend _ o, some tok =>
        if last ∧ !x.tokenSent then
          let h := headerOf d r.ctx x.slot e x.gen ((lsendDest d o).getD (0, 0, 0))
          sendPacket { port := none, kind := 5, link := { h with remoteToken := tok } }
            (d.modCore core (fun c => { c with entries := Tab.mod {} c.entries e (fun y => { y with tokenSent := true, packets := 1 }) }))
        else
          let d := transferDone core e x.op x.slot d
          if last then linkPartDone x.op x.slot d else d
      | _, _ =>
        let d := transferDone core e x.op x.slot d
        if last then linkPartDone x.op x.slot d else d

/-- A slot whose share of an LSEND is empty has every packet acknowledged at once (R123, R300): its token packet goes out. -/
def lsendEmpty (core e : Nat) (r : PtRec) (o : PtOp) (i : Issue) (d : Dev) : Dev :=
  match lsendDest d o with
  | none => stopUnreachable core r i d
  | some dest =>
    if !reachable d dest then stopUnreachable core r i d
    else entryAcked core e (d.modCore core (fun c => { c with
      entries := Tab.mod {} c.entries e (fun y => { y with state := 2, packets := 0 }) }))

/-- LINK_WRITE_ACK (R300, R301): the packet is released; the acknowledged entry's transfer may be complete. A chunk that a
bank forwarded is freed (R333). -/
def linkWriteAck (t : CtxId) (k e : Nat) (token : Bool) (d : Dev) : Dev :=
  let hit := fun (x : OutPkt) => x.link.ctx == t && x.link.tagSlot.val == k && x.link.tagEntry.toNat == e && (x.kind == 5) == token
  match d.fabric.outbox.find? hit with
  | none => d
  | some x =>
    let d := d.modFabric (fun f => { f with outbox := f.outbox.erase x })
    if x.bank then
      match x.red with
      | some q =>
        if x.mode ≤ 1 ∧ q.stage.val ≠ 0 then
          { d with banks := Tab.modMany {} d.banks (List.range 24) (fun _ (b : Bank2) =>
              let hit := fun (c : Chunk) => c.ctx == t && c.red == q.reduction.toNat && c.chunk == q.chunk && c.stage + 1 == q.stage.val &&
                c.add == (x.mode == 0) && c.phase == 1
              { b with full := b.full && !b.chunks.any hit, chunks := b.chunks.filter (fun c => !hit c)
                       freed := b.freed ++ (b.chunks.filter hit).map (fun c => (c.ctx, c.red, c.chunk, c.stage, c.add)) }) }
        else d
      | none => d
    else
      match ((servingCores d k ++ List.range 144).find? (fun core =>
          let y := Tab.get ({} : Entry) (d.core core).entries e
          y.state == 2 && y.ctx == t.val && y.slot == k && y.gen == x.link.tagGen && y.packets != 0)) with
      | none => d
      | some core =>
        let d := d.modCore core (fun c => { c with entries := Tab.mod {} c.entries e (fun y => { y with packets := y.packets - 1 }) })
        if (Tab.get ({} : Entry) (d.core core).entries e).packets = 0 then entryAcked core e d else d

def execLinkWriteAck (p : PortId) (t : CtxId) (k : SlotId) (entry : BitVec 9) (token : Bool) (s : State) : Res :=
  let _ := p
  s.upd (linkWriteAck t k.val entry.toNat token)

/-- LINK_REFUSAL (R304 to R306): reasons 1 and 2 abort the sending task with PREFETCH_FAULT cause 5; reason 3 keeps the
packet for another try; reason 4 aborts with the check that failed, cause 1 for population. -/
def linkRefusal (t : CtxId) (k e reason resource : Nat) (d : Dev) : Dev :=
  let hit := fun (x : OutPkt) =>
    x.link.ctx == t && x.link.tagSlot.val == k && x.link.tagEntry.toNat == e && !(reason == 3 && x.full)
  match d.fabric.outbox.find? hit with
  | none => d
  | some x =>
    if reason = 3 then
      d.modFabric (fun f => { f with outbox := f.outbox.map (fun y => if y = x then { y with full := true } else y) })
    else
      let d := d.modFabric (fun f => { f with outbox := f.outbox.erase x })
      if reason = 4 then
        if resource = 0 then abortPacket x.link .prefetchFault 1 d else abortPacket x.link .resourceOverflow resource d
      else if x.mode = 3 ∧ x.kind = 3 then d
      else abortPacket x.link .prefetchFault 5 d

def execLinkRefusal (p : PortId) (t : CtxId) (k : SlotId) (entry : BitVec 9) (reason : BitVec 8) (resource : BitVec 3) (s : State) : Res :=
  let _ := p
  s.upd (linkRefusal t k.val entry.toNat reason.toNat resource.toNat)

/-- HELD_PACKET_RESEND (R301, R304): a packet that the peer had no room for is sent again. -/
def heldPacketResend (p : Nat) (d : Dev) : Dev :=
  let l := d.fabric.outbox.filter (fun x => x.full && x.port == some p)
  let d := d.modFabric (fun f => { f with outbox := f.outbox.filter (fun x => !l.contains x) })
  l.foldl (fun d x => resend { x with full := false } d) d

def execHeldPacketResend (p : PortId) (s : State) : Res := s.upd (heldPacketResend p.val)

/-! ### Acceptance (R304) -/

/-- What a receiving context does with a packet. -/
inductive Verdict where
  | refuse (reason : Nat)
  | hold
  | land
  deriving DecidableEq, Repr

/-- The first matching row of R304. -/
def verdict (d : Dev) (t : CtxId) (epoch : BitVec 64) (step : BitVec 32) : Verdict :=
  let c := d.ctx t
  if c.prog.isNone ∨ epoch ≠ ctxEpoch d t then .refuse 1
  else match c.curStep with
    | none => .hold
    | some cur =>
      if cur < step then .hold
      else if step < cur ∨ c.phase = .idle ∨ c.phase = .aborting ∨ c.phase = .starting then .refuse 2
      else .land

/-- Bytes a held packet takes in the landing buffer. -/
def HeldPkt.bytes (h : HeldPkt) : Nat := 32 + h.link.payload.length

/-- Answer a packet through a port. -/
def reply (p kind : Nat) (k : LinkPacket) (reason resource : Nat) (d : Dev) : Dev :=
  d.modFabric (fun f => { f with replies := f.replies ++ [{ port := p, kind := kind, ctx := k.ctx, slot := k.tagSlot.val
                                                            entry := k.tagEntry.toNat, reason := reason, resource := resource }] })

/-- Refuse a packet and count it (R304, R305, R315). -/
def refuse (p : Nat) (k : LinkPacket) (reason resource : Nat) (d : Dev) : Dev :=
  let d := d.modPort p (fun x => match reason with
    | 1 | 2 => { x with stale := x.stale + 1 }
    | 3 => { x with full := x.full + 1 }
    | _ => { x with window := x.window + 1 })
  reply p 2 k reason resource d

/-- Hold a packet in the port's 2 MiB landing buffer, or refuse it with reason 3 (R304). -/
def holdPacket (p : Nat) (h : HeldPkt) (d : Dev) : Dev :=
  let used := ((d.port p).landing.map HeldPkt.bytes).foldl (· + ·) 0
  if 2 ^ 21 < used + h.bytes then refuse p h.link 3 0 d
  else d.modPort p (fun x => { x with landing := x.landing ++ [h], ahead := x.ahead + 1 })

/-- The resource code of the first failing check of R305, 0 for population; none where the write may land. -/
def landCheck (d : Dev) (t : CtxId) (a n : Nat) : Option Nat :=
  let p := (d.ctx t).theProg
  let obj := (homeAt d a).map Prod.fst
  (List.range n).findSome? (fun j =>
    let b := a + j
    match placeOf b with
    | .localStore _ => if inLocalWindow p b then none else some 1
    | .shared _ => if inSharedWindow p b then none else some 2
    | .acc _ => none
    | _ =>
      if isName b then
        match homeAt d b with
        | none => some 5
        | some (h, x) => if obj ≠ some h then some 5 else if populated d (x.addr (b - x.name)) then none else some 0
      else some 0)

/-- Land bytes at an address of this package (R305, R279). -/
def landBytes (t : CtxId) (a : Nat) (l : List Byte) (d : Dev) : Dev :=
  let ws := l.zipIdx.map (fun q => ({ view := bytesView .c 2 a, idx := [], off := (q.2 : Nat), bits := some q.1.toNat, scale := none } : PtWrite))
  match ptMedia d { writes := ws } with
  | some (.block b) => abortTask t .checksumMismatch (blockDetail b) d
  | some (.ecc b) => abortTask t .checksumMismatch (3 * 2 ^ 30 + b / 8 % 2 ^ 30) d
  | _ => makeWrites ws d

/-- A write packet lands (R305). -/
def landWrite (p : Nat) (k : LinkPacket) (d : Dev) : Dev :=
  match landCheck d k.ctx k.addr.toNat k.payload.length with
  | some r => refuse p k 4 r d
  | none => reply p 1 k 0 0 (landBytes k.ctx k.addr.toNat k.payload d)

/-- A token packet lands: one arrival, counted once for its source and tag (R300, R301, R305). -/
def landToken (p : Nat) (k : LinkPacket) (d : Dev) : Dev :=
  let key := (k.ctx, k.src, k.tagSlot.val, k.tagEntry.toNat, k.tagGen.toNat, k.step.toNat)
  let d := reply p 1 k 0 0 d
  if d.fabric.seenTokens.contains key then d
  else arrive k.ctx k.remoteToken.toNat (d.modFabric (fun f => { f with seenTokens := f.seenTokens ++ [key] }))

/-- A packet for this package arrives on a port in service; a package that leaves takes none (R313). -/
def takes (d : Dev) (p : Nat) (k : LinkPacket) : Bool := k.dest == d.shape.coord && portUp d p && !d.fabric.leaving

/-- LINK_WRITE_PACKET (R304, R305). -/
def linkWritePacket (p : Nat) (k : LinkPacket) (d : Dev) : Dev :=
  if !takes d p k then d
  else match verdict d k.ctx k.epoch k.step with
    | .refuse r => refuse p k r 0 d
    | .hold => holdPacket p { kind := 0, link := k } d
    | .land => landWrite p k d

def execLinkWritePacket (p : PortId) (k : LinkPacket) (s : State) : Res := s.upd (linkWritePacket p.val k)

/-- LINK_TOKEN_PACKET (R300, R301, R304). -/
def linkTokenPacket (p : Nat) (k : LinkPacket) (d : Dev) : Dev :=
  if !takes d p k then d
  else match verdict d k.ctx k.epoch k.step with
    | .refuse r => refuse p k r 0 d
    | .hold => holdPacket p { kind := 5, link := k } d
    | .land => landToken p k d

def execLinkTokenPacket (p : PortId) (k : LinkPacket) (s : State) : Res := s.upd (linkTokenPacket p.val k)

end Sys2Proof.Machine
end

