-- ==== Sys2Proof/Machine/Reduce.lean ====
section
/-! DEFINITION. Gradient reduction and parameter return (14_reduction.md R317 to R346): layouts, the reduction operations,
adder banks, tallies, backups, the return pass. -/

namespace Sys2Proof.Machine

/-! ### Arithmetic (R317 to R321, R334) -/

/-- The modulus of tallies. -/
def tallyMod : Nat := 2 ^ 61 - 1

/-- The tally of integers (R334). -/
def tallyOf (l : List Int) : Nat := (l.foldl (fun (acc : Int) i => acc + i) 0 % (tallyMod : Int)).toNat

/-- The proposal of a block (R319). -/
def proposal (l : List Num) : Nat :=
  if l.any (fun x => x.isNan || x.isInf) then 255
  else match amaxOf l with
    | .fin _ m e => if m = 0 then 0 else (min 254 (max 1 (ilog2 m e + 127))).toNat
    | _ => 255

/-- The BLK40 integer of an element under a common proposal (R320); a value that the block's range cannot hold, which only
stale proposals bring (R328), is open. -/
def blk40Int (x : Nat) (v : Num) (d : Dev) : Int × Dev :=
  if x = 0 ∨ x = 255 then (0, d)
  else match v with
    | .fin s m e =>
      let i := roundInt s m (e + 155 - (x : Int))
      if -(2 ^ 39 : Int) ≤ i ∧ i < 2 ^ 39 then (i, d)
      else let (g, d) := useFree 40 d; (sext 40 g, d)
    | _ => let (g, d) := useFree 40 d; (sext 40 g, d)

/-! ### Packets -/

/-- The payload bytes of a reduction packet (R330). -/
def redPayload (mode : Nat) (q : RedPacket) : List Byte :=
  leBytes 1 q.rank ++ leBytes 1 (b2n q.what) ++ leBytes 2 q.count ++ leBytes 4 0 ++ leBytes 8 q.tally ++
    (match mode with
     | 0 => q.elems.flatMap (fun i => leBytes 5 (wrapInt 40 i)) ++ q.scales
     | 3 => q.scales
     | _ => q.data)

/-- Send a reduction packet (R330); one that a bank or the port logic sends carries slot 0 and the chunk's number. -/
def sendRed (mode : Nat) (dest : Nat × Nat × Nat) (q : RedPacket) (bank : Bool) (d : Dev) : Dev :=
  let h : LinkPacket := {
    ctx := q.ctx, dest := dest, src := q.src, epoch := q.epoch, step := q.step, tagSlot := q.tagSlot, tagEntry := q.tagEntry
    tagGen := q.tagGen, remoteToken := 0
    addr := BitVec.ofNat 48 (q.reduction.toNat + put 11 25 q.chunk + put 36 2 q.stage.val + put 38 2 mode + put 40 1 (b2n q.substitute))
    payload := redPayload mode q }
  if reachable d dest then sendPacket { port := none, kind := 3, link := h, mode := mode, red := some q, bank := bank } d
  else if mode = 3 then d
  else unreachable h d

/-- A packet of this package's context for a chunk. -/
def redHeader (d : Dev) (t : CtxId) (r chunk stage : Nat) : RedPacket :=
  { ctx := t, src := d.shape.coord, epoch := ctxEpoch d t, step := (d.ctx t).step, tagSlot := 0, tagEntry := BitVec.ofNat 9 (chunk % 512)
    tagGen := 0, reduction := BitVec.ofNat 11 r, chunk := chunk, stage := ⟨stage % 3, by omega⟩, substitute := false, rank := 0
    what := false, count := 1, tally := 0, elems := [], scales := [], data := [] }

/-! ### Mismatches (R335) -/

/-- The task aborts with TALLY_MISMATCH. -/
def tallyAbort (t : CtxId) (r stage : Nat) (own : Bool) (d : Dev) : Dev :=
  abortTask t .tallyMismatch (r % 2048 + put 11 2 stage + put 13 1 (b2n own)) d

/-- The error record of an adder bank: a group added again (R332, class 0), or an escape that the tally caught (R442). Its place and
DETAIL, which R452 gives no port of these classes, are the port's and an open value (DESIGN CHOICE, log entry 7). -/
def bankRecord (p cls action : Nat) (st : Status) (t : CtxId) (d : Dev) : Dev :=
  let (g, d) := useFree 32 d
  errReport { cls := cls, level := 3, action := action, status := st.code, loc := errLoc p 0 none, detail := g, ctx := some t
              die := some (dieOfPort p) } d

/-- A bank finds a mismatch: it is captured and recorded, every member is told, and this package's task aborts. -/
def bankMismatch (p : Nat) (t : CtxId) (r chunk stage : Nat) (d : Dev) : Dev :=
  let d := d.modBank p (fun b => { b with fault := match b.fault with | some f => some f | none => some (r, chunk, stage, t.val) })
  let d := bankRecord p 15 13 .tallyMismatch t { d with redMismatch := d.redMismatch + 1 }
  tallyAbort t r stage true (flood (.mismatch t r stage) d)

/-- TALLY_ABORT_NOTICE (R335). -/
def execTallyAbortNotice (t : CtxId) (reduction : BitVec 11) (stage : BitVec 2) (s : State) : Res :=
  s.upd (tallyAbort t reduction.toNat stage.toNat false)

/-! ### Chunk images (R330) -/

/-- Bytes of a chunk's elements and of its scales in RFMT (R326, R330). -/
def rfmtBytes (x : RedDesc) : Nat × Nat := if x.rfmt.blocked then (768, 24) else (1536, 0)

/-- Where the return buffer's scale array starts (R92). -/
def returnScales (x : RedDesc) : Nat := x.rbase + roundUp x.elements 4096

/-- The valid element and scale bytes of a chunk. -/
def validBytes (x : RedDesc) (c : Nat) : Nat × Nat :=
  let n := min 768 (x.elements - 768 * c)
  if x.rfmt.blocked then (n, ceilDiv n 32) else (2 * n, 0)

/-- A chunk's image in RFMT as it stands in the return buffer; padding past the tensor is zero. -/
def chunkImage (d : Dev) (x : RedDesc) (c : Nat) : List Byte :=
  let (e, s) := rfmtBytes x
  let (ve, vs) := validBytes x c
  let rd := fun (a n : Nat) => (List.range n).map (fun j => ptByte d (a + j))
  rd (x.rbase + e * c) ve ++ List.replicate (e - ve) 0 ++ rd (returnScales x + s * c) vs ++ List.replicate (s - vs) 0

/-- Chunks that one RETURN packet holds (R330). -/
def returnCount (x : RedDesc) (what : Bool) : Nat :=
  if what then 128 else let (e, s) := rfmtBytes x; 4080 / (e + s)

/-- Runs of consecutive chunks within one group of 128, at most `n` long. -/
def chunkRuns (n : Nat) (l : List Nat) : List (Nat × Nat) :=
  l.foldl (fun acc c =>
    match acc.getLast? with
    | some (a, m) => if c = a + m ∧ c / 128 = a / 128 ∧ m < n then acc.dropLast ++ [(a, m + 1)] else acc ++ [(c, 1)]
    | none => [(c, 1)]) []

/-- RETURN data of consecutive chunks (R330). -/
def returnData (d : Dev) (x : RedDesc) (what : Bool) (a n : Nat) : List Byte :=
  (List.range n).flatMap (fun j =>
    if what then (List.range 24).map (fun i => ptByte d (x.xbase + 24 * (a + j) + i)) else chunkImage d x (a + j))

/-- Send chunks to the other members of the line of return stage `σ` (R338). -/
def returnStage (t : CtxId) (r stage : Nat) (what bank : Bool) (tag : Option (Nat × Nat × BitVec 4)) (cs : List Nat) (d : Dev) : Dev × Nat :=
  let x := redDesc d t r
  let l := (d.redCtx t).layout
  match l.stages[stage]? with
  | none => (d, 0)
  | some dim =>
    let own := l.rank d.shape.coord dim
    let peers := (List.range (l.members_ dim).length).filter (· ≠ own)
    let runs := chunkRuns (returnCount x what) cs
    let d := peers.foldl (fun d j => runs.foldl (fun d (p : Nat × Nat) =>
      let q := { redHeader d t r p.1 stage with what := what, count := p.2, rank := own, data := returnData d x what p.1 p.2 }
      let q := match tag with
        | some (k, e, g) => { q with tagSlot := ⟨k % 128, by omega⟩, tagEntry := BitVec.ofNat 9 e, tagGen := g }
        | none => q
      sendRed 2 (l.onLine d.shape.coord dim j) q bank d) d) d
    (d, peers.length * runs.length)

/-- A piece that is in place is forwarded to the lines of the stages below `n` (R338). -/
def returnForward (t : CtxId) (r n : Nat) (what : Bool) (cs : List Nat) (d : Dev) : Dev :=
  (List.range n).foldl (fun d σ => (returnStage t r σ what true none cs d).1) d

/-! ### Adder banks (R331 to R333) -/

/-- An arrival at a bank. -/
structure Arrival where
  t : CtxId
  red : Nat
  chunk : Nat
  stage : Nat
  add : Bool
  rank : Nat
  tally : Nat
  ints : List Int
  scales : List Byte
  data : List Byte

/-- The key of a chunk in a bank. -/
def Chunk.is (c : Chunk) (t : CtxId) (r chunk stage : Nat) (add : Bool) : Bool :=
  c.ctx == t && c.red == r && c.chunk == chunk && c.stage == stage && c.add == add

/-- Free a chunk's slot; later arrivals for it are LATE (R333). -/
def freeChunk (p : Nat) (c : Chunk) (d : Dev) : Dev :=
  d.modBank p (fun b => { b with full := false, chunks := b.chunks.filter (fun x => !x.is c.ctx c.red c.chunk c.stage c.add)
                                 freed := b.freed ++ [(c.ctx, c.red, c.chunk, c.stage, c.add)] })

/-- A frame is released to the adder bank (R135). -/
def frameFree (d : Dev) (k f : Nat) : Bool :=
  let x := Tab.get ({} : Frame) d.frames (128 * k + f)
  !x.full || (match x.readAt with | some (t, bell) => decide (bell + 2 ≤ (d.ctx t).bellNo) | none => false)

/-- The bytes of a chunk's frame (R318). -/
def frameBytes (x : RedDesc) (c : Chunk) : List Byte :=
  c.ints.flatMap (fun i => leBytes 5 (wrapInt 40 i)) ++ c.scales ++ leBytes 8 c.tally ++ leBytes 4 c.chunk ++ leBytes 2 c.red ++
    leBytes 2 (min 768 (x.elements - 768 * c.chunk)) ++ List.replicate 216 0

/-- HTOKEN waves that are complete and have not been counted (R329). -/
def raiseWaves (t : CtxId) (r : Nat) (d : Dev) : Dev :=
  let x := redDesc d t r
  let l := (d.redCtx t).layout
  match d.run t r with
  | none => d
  | some z =>
    let sizes := x.owners.map (fun k => let (a, b) := slotRange l d.shape.coord x k; (k, b - a))
    let waves := (sizes.map Prod.snd).foldl max 0
    let whole := fun (w : Nat) => sizes.all (fun p => decide (p.2 ≤ w) || z.handed.contains (p.1, w))
    let ready := (List.range waves).filter (fun w => whole w)
    let n := ready.length - z.waves
    (List.range n).foldl (fun d _ => arrive t x.htoken d) (d.modRun t r (fun z => { z with waves := z.waves + n }))

/-- Write a complete ADD chunk to its owner slot's hand-off area, once its frame is released (R135, R333). -/
def handOff (p : Nat) (c : Chunk) (d : Dev) : Dev :=
  let x := redDesc d c.ctx c.red
  let l := (d.redCtx c.ctx).layout
  match x.owners.find? (fun k => let (a, b) := slotRange l d.shape.coord x k; decide (a ≤ c.chunk) && decide (c.chunk < b)) with
  | none => freeChunk p c d
  | some k =>
    let (a, _) := slotRange l d.shape.coord x k
    let n := c.chunk - a
    let f := n % 128
    if !frameFree d k f then
      d.modBank p (fun b => { b with chunks := b.chunks.map (fun y => if y.is c.ctx c.red c.chunk c.stage c.add then { y with phase := 2 } else y) })
    else
      let d := { d with handoff := Tab.setMany 0 d.handoff (524288 * k + 4096 * f) (frameBytes x c)
                        frames := Tab.set {} d.frames (128 * k + f) { full := true, readAt := none, owner := some c.ctx } }
      let d := d.modRun c.ctx c.red (fun z => { z with handed := z.handed ++ [(k, n)], role1 := some ((z.role1.getD 0 + c.tally) % tallyMod) })
      raiseWaves c.ctx c.red (freeChunk p c d)

/-- Write a complete MAX chunk's proposals to XBASE and start their RETURN pass (R333, R338). -/
def settleMax (p : Nat) (c : Chunk) (d : Dev) : Dev :=
  let x := redDesc d c.ctx c.red
  let l := (d.redCtx c.ctx).layout
  let n := ceilDiv (min 768 (x.elements - 768 * c.chunk)) 32
  let d := landBytes c.ctx (x.xbase + 24 * c.chunk) (c.scales.take n) d
  let d := d.modRun c.ctx c.red (fun z => { z with proposals := if z.proposals.contains c.chunk then z.proposals else z.proposals ++ [c.chunk] })
  let d := freeChunk p c d
  checkX c.ctx c.red (returnForward c.ctx c.red l.stages.length true [c.chunk] d)

/-- The sum of two integers stays in 40 bits (R321). -/
def fits40 (l : List Int) : Bool := l.all (fun i => decide (-(2 ^ 39 : Int) ≤ i) && decide (i < 2 ^ 39))

/-- An arrival at the gathering bank of port `p` (R332), and what completing a chunk does (R333). `fuel` counts the stages
that may follow on this package. -/
def bankTake : Nat → Nat → Arrival → Dev → Dev
  | 0, _, _, d => d
  | fuel + 1, p, a, d =>
    let b := d.adderBank p
    let l := (d.redCtx a.t).layout
    let size := match l.stages[a.stage]? with | some dim => (l.members_ dim).length | none => 1
    let d := d.modRun a.t a.red id
    if b.freed.contains (a.t, a.red, a.chunk, a.stage, a.add) then d.modBank p (fun b => { b with late := b.late + 1 })
    else
      let held := b.chunks.find? (fun c => c.is a.t a.red a.chunk a.stage a.add)
      let old := held.getD { ctx := a.t, red := a.red, chunk := a.chunk, stage := a.stage, add := a.add
                             ints := List.replicate 768 0, scales := if a.add then a.scales else List.replicate 24 0 }
      if a.add && (a.tally != tallyOf a.ints || a.scales != old.scales) then bankMismatch p a.t a.red a.chunk a.stage d
      else if old.ranks.contains a.rank then
        let same := if a.add then old.tallies.contains (a.rank, a.tally) else old.copies.contains (a.rank, a.data)
        let d := d.modBank p (fun b => { b with duplicates := b.duplicates + 1 })
        if same then d else bankMismatch p a.t a.red a.chunk a.stage d
      else
        let sum := List.zipWith (· + ·) old.ints a.ints
        let d := if b.inject && a.add then
            bankRecord p 0 1 .ok a.t (d.modBank p (fun b => { b with inject := false, retries := satAdd 8 b.retries 1 }))
          else d
        if a.add && !fits40 sum then
          bankMismatch p a.t a.red a.chunk a.stage (d.modBank p (fun b => { b with retries := satAdd 8 b.retries 1 }))
        else
          let new : Chunk := if a.add then
              { old with ints := sum, ranks := old.ranks ++ [a.rank], tally := (old.tally + a.tally) % tallyMod
                         tallies := old.tallies ++ [(a.rank, a.tally)] }
            else
              { old with scales := List.zipWith (fun (x y : Byte) => if x.toNat < y.toNat then y else x) old.scales (a.data ++ List.replicate (24 - a.data.length) 0)
                         ranks := old.ranks ++ [a.rank], copies := old.copies ++ [(a.rank, a.data)] }
          let d := d.modBank p (fun b => { b with
            chunks := if held.isSome then b.chunks.map (fun c => if c.is a.t a.red a.chunk a.stage a.add then new else c) else b.chunks ++ [new]
            addedBytes := b.addedBytes + (if a.add then 3880 else 16 + a.data.length) })
          if new.ranks.length < size then d
          else if a.add && new.tally != tallyOf new.ints then bankMismatch p a.t a.red a.chunk a.stage d
          else if l.stages.length ≤ a.stage + 1 then (if a.add then handOff p new d else settleMax p new d)
          else
            let total := (redDesc d a.t a.red).chunks
            let next := l.keeper d.shape.coord total (a.stage + 1) a.chunk
            let dim := l.stages.getD (a.stage + 1) 0
            let me := l.rank d.shape.coord dim
            if next = me then
              let d := freeChunk p new d
              bankTake fuel (gatherPort d l (a.stage + 1) a.chunk)
                { a with stage := a.stage + 1, rank := me, tally := new.tally, ints := new.ints, scales := new.scales, data := new.scales } d
            else
              let q := { redHeader d a.t a.red a.chunk (a.stage + 1) with
                rank := me, tally := if a.add then new.tally else 0, elems := if a.add then new.ints else []
                scales := if a.add then new.scales else [], data := if a.add then [] else new.scales }
              let d := d.modBank p (fun b => { b with chunks := b.chunks.map (fun c => if c.is a.t a.red a.chunk a.stage a.add then { c with phase := 1 } else c) })
              sendRed (if a.add then 0 else 1) (l.onLine d.shape.coord dim next) q true d

/-- An arrival goes to its gathering bank. -/
def gather (a : Arrival) (d : Dev) : Dev := bankTake 4 (gatherPort d (d.redCtx a.t).layout a.stage a.chunk) a d

/-- HANDOFF_FRAME_WRITE (R135, R333): a chunk that waited for its frame is written there. -/
def handoffFrameWrite (t : CtxId) (r chunk : Nat) (d : Dev) : Dev :=
  match (List.range 24).findSome? (fun p =>
      ((d.adderBank p).chunks.find? (fun c => c.ctx == t && c.red == r && c.chunk == chunk && c.add && c.phase == 2)).map (fun c => (p, c))) with
  | some (p, c) => handOff p c d
  | none => d

def execHandoffFrameWrite (t : CtxId) (reduction : BitVec 11) (chunk : Nat) (s : State) : Res :=
  s.upd (handoffFrameWrite t reduction.toNat chunk)

/-! ### Arriving packets -/

/-- The link header of a reduction packet, as far as an answer needs it. -/
def redLink (q : RedPacket) (dest : Nat × Nat × Nat) : LinkPacket :=
  { ctx := q.ctx, dest := dest, src := q.src, epoch := q.epoch, step := q.step, tagSlot := q.tagSlot, tagEntry := q.tagEntry
    tagGen := q.tagGen, remoteToken := 0, addr := 0, payload := [] }

/-- The armed operations of a backup that stand in for the member and reduction of a request, slot by slot (R336). -/
def armedFor (d : Dev) (q : RedPacket) (add : Bool) : List Standby :=
  let l := (d.redCtx q.ctx).layout
  let late := match l.stages[0]? with | some dim => l.onLine q.src dim q.rank | none => q.src
  (d.redCtx q.ctx).armed.filter (fun a =>
    a.member == l.index late && (match a.instr, add with
      | .rxmax _ o, false => field o.oparg.toNat 10 0 == q.reduction.toNat
      | .rsend _ o, true => field o.oparg.toNat 10 0 == q.reduction.toNat
      | _, _ => false))

/-- The first of them. -/
def findArmed (d : Dev) (q : RedPacket) (add : Bool) : Option Standby := (armedFor d q add).head?

/-- A gathering bank that has no slot for new chunks among `cs`: none of its 4,096 is free for them (R331, R333). -/
def bankFull (d : Dev) (t : CtxId) (r stage : Nat) (add : Bool) (cs : List Nat) : Option Nat :=
  let l := (d.redCtx t).layout
  ((cs.map (gatherPort d l stage)).dedup).find? (fun p =>
    let b := d.adderBank p
    let new := (cs.filter (fun c => gatherPort d l stage c == p && !b.freed.contains (t, r, c, stage, add) &&
      !b.chunks.any (fun y => y.is t r c stage add))).length
    decide (0 < new) && decide (4096 < b.chunks.length + new))

/-- The bank holds its senders (R333, R346). -/
def holdSenders (p : Nat) (d : Dev) : Dev := d.modBank p (fun b => { b with full := true })

/-! ### RXMAX and RSEND -/

/-- The whole-operation index of an element (R328). -/
def wholeOff (rs : List Run) (idx : List Nat) : Int :=
  (List.zipWith (fun (r : Run) (i : Nat) => ((i + (if r.lv.split then r.lo else 0) : Nat) : Int) * r.lv.strideC) rs idx).foldl (· + ·) 0

/-- The elements of a reduction operation on a slot: tile step, index in the tensor, view and offset in A. -/
def redElems (d : Dev) (i : Issue) (o : PtOp) : Shape2 × List (Nat × Int × View × Int × List Nat) :=
  let s := ptShape d i o.ldesc.toNat
  let (va, _) := s.views d o.baseSrc.toNat o.baseDst.toNat i
  let es := s.tileSteps.zipIdx.flatMap (fun st =>
    (s.pieces d st.1).1.flatMap (fun p => p.valid.map (fun idx =>
      (st.2, wholeOff s.env.runs idx, va.rebase p.handles[0]?, offsetOf s.env.runs .a idx, idx))))
  (s, es)

/-- The indices a slot generates form whole chunks of the tensor (R328). -/
def wholeChunks (x : RedDesc) (offs : List Int) : Bool :=
  let ns := (offs.map Int.toNat).dedup
  offs.all (fun e => decide (0 ≤ e) && decide (e < (x.elements : Int))) &&
    ((ns.map (· / 768)).dedup).all (fun c =>
      (List.range (min 768 (x.elements - 768 * c))).all (fun j => ns.contains (768 * c + j)))

/-- The values of a chunk's 768 lanes, padding zero. -/
def chunkValues (d : Dev) (x : RedDesc) (es : List (Nat × Int × View × Int × List Nat)) (c : Nat) : List Num :=
  (List.range 768).map (fun j =>
    if x.elements ≤ 768 * c + j then .zero
    else match es.find? (fun e => e.2.1 == ((768 * c + j : Nat) : Int)) with
      | some e => e.2.2.1.ptValue d e.2.2.2.1
      | none => .zero)

/-- The proposals of a chunk's blocks (R319). -/
def chunkProposals (vs : List Num) : List Byte := (List.range 24).map (fun b => BitVec.ofNat 8 (proposal ((vs.drop (32 * b)).take 32)))

/-- A chunk converted under scale bytes (R320): integers, and the device with the open values taken. -/
def chunkInts (vs : List Num) (scales : List Byte) (d : Dev) : List Int × Dev :=
  vs.zipIdx.foldl (fun (acc : List Int × Dev) p =>
    let (i, d) := blk40Int (scales.getD (p.2 / 32) 0).toNat p.1 acc.2
    (acc.1 ++ [i], d)) ([], d)

/-- A member's contribution of a chunk: to its own bank, or to the stage-0 owner on its line (R325, R331). Answers whether
a packet was sent. -/
def contribute (t : CtxId) (r chunk : Nat) (add : Bool) (k e : Nat) (gen : BitVec 4) (ints : List Int) (scales data : List Byte) (d : Dev) :
    Dev × Bool :=
  let l := (d.redCtx t).layout
  let total := (redDesc d t r).chunks
  let dim := l.stages.getD 0 0
  let me := if l.stages.isEmpty then 0 else l.rank d.shape.coord dim
  let keep := if l.stages.isEmpty then 0 else l.keeper d.shape.coord total 0 chunk
  let tally := if add then tallyOf ints else 0
  let d := if add then d.modRun t r (fun z => { z with role0 := some ((z.role0.getD 0 + tally) % tallyMod) }) else d
  if keep = me then
    (gather { t := t, red := r, chunk := chunk, stage := 0, add := add, rank := me, tally := tally, ints := ints, scales := scales, data := data } d,
      false)
  else
    let q := { redHeader d t r chunk 0 with
      tagSlot := ⟨k % 128, by omega⟩, tagEntry := BitVec.ofNat 9 e, tagGen := gen, rank := me, tally := tally, elems := ints
      scales := if add then scales else [], data := data }
    (sendRed (if add then 0 else 1) (l.onLine d.shape.coord dim keep) q false d, true)

/-- A transfer of RXMAX or RSEND (R327, R328): the chunks whose last element its tile step holds are formed and sent; where this
package gathers one and its bank has no slot, the transfer waits (R333). -/
def redTransfer (core e : Nat) (y : Entry) (r : PtRec) (o : PtOp) (i : Issue) (add : Bool) (d : Dev) : Dev :=
  let red := field o.oparg.toNat 10 0
  let x := redDesc d r.ctx red
  let (s, es) := redElems d i o
  let here := es.filter (fun z => z.1 == y.step)
  let reads := here.map (fun z => readAcc z.2.2.1 (z.2.2.2.1, z.2.2.2.2))
  match (ptFirst false s d ((es.filter (fun z => decide (z.1 < y.step))).map (fun z => readAcc z.2.2.1 (z.2.2.2.1, z.2.2.2.2))) { reads := reads }).map Prod.snd |>.orElse (fun _ => (s.pieces d (s.tileSteps.getD y.step [])).2) |>.orElse
      (fun _ => ptMedia d { reads := reads }) with
  | some z => stopTransfer core r i z d
  | none =>
    let cs := (here.map (fun z => z.2.1.toNat / 768)).dedup.filter (fun c =>
      es.all (fun z => decide (z.2.1.toNat / 768 ≠ c) || decide (z.1 ≤ y.step)))
    let l := (d.redCtx r.ctx).layout
    let own := cs.filter (fun c => l.stages.isEmpty || l.keeper d.shape.coord x.chunks 0 c == l.rank d.shape.coord (l.stages.getD 0 0))
    match bankFull d r.ctx red 0 add own with
    | some p => holdSenders p d
    | none =>
    let d := d.modRun r.ctx red id
    let d := d.modCore core (fun c => { c with
      entries := Tab.mod {} c.entries e (fun z => { z with state := 2 }), readBytes := c.readBytes + tierBytes reads })
    let (d, n) := cs.foldl (fun (acc : Dev × Nat) c =>
      let v := veilOn acc.1
      let vs := chunkValues v x es c
      let d := acc.1.took v
      let (d, sent) :=
        if add then
          let scales := (List.range 24).map (fun b => ptByte d (x.xbase + 24 * c + b))
          let (ints, d) := chunkInts vs scales d
          contribute r.ctx red c true i.k e y.gen ints scales [] d
        else contribute r.ctx red c false i.k e y.gen [] [] (chunkProposals vs) d
      (d, acc.2 + b2n sent)) (d, 0)
    let d := d.modCore core (fun c => { c with entries := Tab.mod {} c.entries e (fun z => { z with packets := n }) })
    if n = 0 then entryAcked core e d else d

/-! ### RGATHER -/

/-- Chunks that one transfer of RGATHER covers: at most 64 KiB of images (R271). -/
def gatherChunks (x : RedDesc) : Nat := let (e, s) := rfmtBytes x; 65536 / (e + s)

/-- The first byte of chunks' images in the return buffer that RGATHER may not read, or that cannot be corrected (R125, R251, R279,
R440); it has no loop level to show. -/
def gatherStop (d : Dev) (t : CtxId) (x : RedDesc) (cs : List Nat) : Option Stop :=
  let (e, s) := rfmtBytes x
  let parts := cs.flatMap (fun c => let (ve, vs) := validBytes x c; [(x.rbase + e * c, ve), (returnScales x + s * c, vs)])
  (parts.findSome? (fun p => (List.range p.2).findSome? (fun j =>
    ptCheck false false (d.ctx t).theProg d ((homeAt d p.1).map Prod.fst) 0 ((p.1 + j : Nat) : Int)))).orElse (fun _ =>
  parts.findSome? (fun p => (List.range p.2).findSome? (fun j =>
    let a := physical d (p.1 + j)
    if d.badSram.contains (wordOf a) then some (.ecc a) else if blockBad d a then some (.block a) else none)))

/-- A transfer of RGATHER (R327, R338): the first return stage from its entry, the later ones by the port logic. -/
def gatherTransfer (core e : Nat) (y : Entry) (r : PtRec) (o : PtOp) (i : Issue) (d : Dev) : Dev :=
  let red := field o.oparg.toNat 10 0
  let x := redDesc d r.ctx red
  let l := (d.redCtx r.ctx).layout
  let (a, b) := slotRange l d.shape.coord x i.k
  let n := gatherChunks x
  let cs := (List.range (b - a)).map (a + ·) |>.filter (fun c => (c - a) / n == y.step)
  let last := l.stages.length - 1
  match gatherStop d r.ctx x cs with
  | some z => stopTransfer core r i z d
  | none =>
  let d := d.modCore core (fun c => { c with entries := Tab.mod {} c.entries e (fun z => { z with state := 2 }) })
  let (d, sent) := if l.stages.isEmpty then (d, 0) else returnStage r.ctx red last false false (some (i.k, e, y.gen)) cs d
  let d := returnForward r.ctx red last false cs d
  let d := d.modCore core (fun c => { c with entries := Tab.mod {} c.entries e (fun z => { z with packets := sent }) })
  if sent = 0 then entryAcked core e d else d

/-! ### Packets of the passes -/

/-- An ADD or MAX contribution that has been accepted (R332): every chunk of it goes to its bank, and the packet is
acknowledged. -/
def landContribution (p mode : Nat) (q : RedPacket) (d : Dev) : Dev :=
  let d := (List.range (if mode = 0 then 1 else q.count)).foldl (fun d j =>
    gather { t := q.ctx, red := q.reduction.toNat, chunk := q.chunk + j, stage := q.stage.val, add := mode == 0, rank := q.rank
             tally := q.tally, ints := q.elems, scales := q.scales, data := (q.data.drop (24 * j)).take 24 } d) d
  reply p 1 (redLink q d.shape.coord) 0 0 d

/-- A RETURN packet that has been accepted (R338): a write, checked under R305, landed at its place and forwarded. -/
def landReturn (p : Nat) (q : RedPacket) (d : Dev) : Dev :=
  let t := q.ctx
  let r := q.reduction.toNat
  let x := redDesc d t r
  let d := d.modRun t r id
  let cs := (List.range q.count).map (q.chunk + ·)
  let (e, s) := rfmtBytes x
  let parts := cs.zipIdx.flatMap (fun c =>
    if q.what then [(x.xbase + 24 * c.1, (q.data.drop (24 * c.2)).take (ceilDiv (min 768 (x.elements - 768 * c.1)) 32))]
    else
      let img := (q.data.drop ((e + s) * c.2)).take (e + s)
      let (ve, vs) := validBytes x c.1
      [(x.rbase + e * c.1, img.take ve), (returnScales x + s * c.1, (img.drop e).take vs)])
  match parts.findSome? (fun z => landCheck d t z.1 z.2.length) with
  | some res => refuse p (redLink q d.shape.coord) 4 res d
  | none =>
    let d := parts.foldl (fun d z => landBytes t z.1 z.2 d) d
    let d := reply p 1 (redLink q d.shape.coord) 0 0 d
    let fresh := fun (l : List Nat) => l ++ cs.filter (fun c => !l.contains c)
    let new := match d.run t r with
      | some z => cs.filter (fun c => !(if q.what then z.proposals else z.params).contains c) | none => cs
    let d := d.modRun t r (fun z => if q.what then { z with proposals := fresh z.proposals } else { z with params := fresh z.params })
    let d := returnForward t r q.stage.val q.what new d
    if q.what then checkX t r d else checkR t r d

/-- A REQUEST that has been accepted (R336): the armed operation answers under its own context's epoch and STEP. -/
def landRequest (p : Nat) (add : Bool) (q : RedPacket) (d : Dev) : Dev :=
  let d := reply p 1 (redLink q d.shape.coord) 0 0 d
  let x := redDesc d q.ctx q.reduction.toNat
  let ops := (armedFor d q add).filterMap (fun a => (ptFields a.instr).map (fun o => (redElems d a.at_ o).2))
  (List.range q.count).foldl (fun d j =>
    let c := q.chunk + j
    match ops.find? (fun es => es.any (fun z => z.2.1.toNat / 768 == c)) with
    | none => d
    | some es =>
      let vs := chunkValues d x es c
      let h := { redHeader d q.ctx q.reduction.toNat c 0 with substitute := true, rank := q.rank }
      if add then
        let scales := (q.scales.drop (24 * j)).take 24
        let (ints, d) := chunkInts vs scales d
        sendRed 0 q.src { h with tally := tallyOf ints, elems := ints, scales := scales } true d
      else sendRed 1 q.src { h with data := chunkProposals vs } true d) d

/-- Land a packet of any kind that its context has accepted. -/
def landHeld (p : Nat) (h : HeldPkt) (d : Dev) : Dev :=
  match h.kind, h.red with
  | 0, _ => landWrite p h.link d
  | 5, _ => landToken p h.link d
  | _, some q =>
    match h.mode with
    | 0 | 1 => landContribution p h.mode q d
    | 2 => landReturn p q d
    | m => landRequest p (m == 4) q d
  | _, none => d

/-- A reduction packet arrives (R304): mode 4 stands here for the REQUEST of an ADD. A contribution for which the gathering bank has
no slot stays with its sender (R333). -/
def redPacket (p mode : Nat) (q : RedPacket) (d : Dev) : Dev :=
  if !portUp d p ∨ d.fabric.leaving then d
  else
    let k := redLink q d.shape.coord
    let h : HeldPkt := { kind := 3, link := { k with payload := redPayload mode q }, mode := mode, red := some q }
    match verdict d q.ctx q.epoch q.step with
    | .refuse r => refuse p k r 0 d
    | .hold => holdPacket p h d
    | .land =>
      match (if mode ≤ 1 then bankFull d q.ctx q.reduction.toNat q.stage.val (mode == 0)
          ((List.range (if mode = 0 then 1 else q.count)).map (q.chunk + ·)) else none) with
      | some b => holdSenders b d
      | none => landHeld p h d

def execReductionAddPacket (p : PortId) (k : RedPacket) (s : State) : Res := s.upd (redPacket p.val 0 k)
def execReductionMaxPacket (p : PortId) (k : RedPacket) (s : State) : Res := s.upd (redPacket p.val 1 k)
def execReductionReturnPacket (p : PortId) (k : RedPacket) (s : State) : Res := s.upd (redPacket p.val 2 k)
def execReductionRequest (p : PortId) (k : RedPacket) (add : Bool) (s : State) : Res := s.upd (redPacket p.val (if add then 4 else 3) k)

/-- When the task of a step starts, packets held for it land in arrival order, and those of lower steps are refused with
reason 2 (R304). -/
def deliverHeld (t : CtxId) (step : BitVec 32) (d : Dev) : Dev :=
  (List.range 24).foldl (fun d p =>
    let l := (d.port p).landing.filter (fun h => h.link.ctx == t && decide (h.link.step ≤ step))
    let d := d.modPort p (fun x => { x with landing := x.landing.filter (fun h => !(h.link.ctx == t && decide (h.link.step ≤ step))) })
    l.foldl (fun d h => if h.link.step = step then landHeld p h d else refuse p h.link 2 0 d) d) d

/-- STAGE_DEADLINE (R336): requests go to the backups of the ranks that are missing. -/
def stageDeadline (p : Nat) (t : CtxId) (r chunk : Nat) (add : Bool) (d : Dev) : Dev :=
  let x := redDesc d t r
  let l := (d.redCtx t).layout
  match (d.adderBank p).chunks.find? (fun c => c.is t r chunk 0 add && c.phase == 0), l.stages[0]? with
  | some c, some dim =>
    if (x.deadline = 0 ∧ d.cfg.redDeadline = 0) ∨ !d.cfg.substEn then d
    else
      let missing := (List.range (l.members_ dim).length).filter (fun j => !c.ranks.contains j && !c.asked.contains j)
      missing.foldl (fun d j =>
        match l.backups.getD (l.index (l.onLine d.shape.coord dim j)) none with
        | none => d
        | some b =>
          let q := { redHeader d t r chunk 0 with rank := j, scales := if add then c.scales else [] }
          let d := { d with redSubst := d.redSubst + 1 }
          let d := d.modBank p (fun z => { z with chunks := z.chunks.map (fun y => if y.is t r chunk 0 add then { y with asked := y.asked ++ [j] } else y) })
          sendRed 3 b q true d) d
  | _, _ => d

def execStageDeadline (p : PortId) (t : CtxId) (reduction : BitVec 11) (chunk : Nat) (add : Bool) (s : State) : Res :=
  s.upd (stageDeadline p.val t reduction.toNat chunk add)

/-! ### RESHARD and registers -/

/-- The conditions of R341 under which RESHARD is refused with BAD_PARAM. -/
def layoutBad (d : Dev) (old : BitVec 64) (l : Layout) : Bool :=
  let dims := d.shape.dim
  let own := d.shape.coord
  let m : RedLayout := { epoch := l.epoch, maskX := l.maskX, maskY := l.maskY, maskZ := l.maskZ, members := l.members, backups := l.backups }
  decide (l.epoch ≤ old) || [0, 1, 2].any (fun i => (m.members_ i).any (fun v => decide (axis dims i ≤ v))) ||
    (!m.member own && !l.backups.contains (some own)) ||
    decide (729 < l.members) || decide (l.members ≠ ([0, 1, 2].map (fun i => max 1 (m.members_ i).length)).foldl (· * ·) 1) ||
    l.backups.any (fun b => match b with
      | some c => [0, 1, 2].any (fun i => decide (axis dims i ≤ axis c i)) | none => false)

/-- The layout table at a package address (R323). -/
def layoutAt (d : Dev) (a : Nat) : Layout :=
  let head := hubRd d a 32
  let n := leAt head 20 2
  let words := hubRd d (a + 32) (4 * n)
  { epoch := BitVec.ofNat 64 (leAt head 0 8), maskX := BitVec.ofNat 32 (leAt head 8 4), maskY := BitVec.ofNat 32 (leAt head 12 4)
    maskZ := BitVec.ofNat 32 (leAt head 16 4), members := n
    backups := (List.range n).map (fun i =>
      let w := leAt words (4 * i) 4
      if field w 15 15 = 1 then some (field w 4 0, field w 9 5, field w 14 10) else none) }

/-- RESHARD (R341). -/
def reshard (t : CtxId) (at_ : Nat) (d : Dev) : Dev :=
  let l := layoutAt d at_
  if !executing d mgmtTill 0x0012 then d
  else if layoutBad d (ctxEpoch d t) l then finish mgmtTill .badParam none none d
  else
    let opens := ((d.redCtx t).runs.filter (fun (p : Nat × Option RedRun) => redOpen d t p.1)).length
    let run := (d.ctx t).started
    let held := (List.range 24).any (fun p => (d.port p).landing.any (fun h => h.link.ctx == t))
    if opens ≠ 0 ∨ run ∨ held then finish mgmtTill .busy (some (opens % 65536 + put 16 1 (b2n run) + put 17 1 (b2n held))) none d
    else
      let d := d.modRed t (fun c => { c with runs := [], layout := {
        epoch := l.epoch, maskX := l.maskX, maskY := l.maskY, maskZ := l.maskZ, members := l.members, backups := l.backups } })
      finish mgmtTill .ok none (some (l.epoch.toNat % 2 ^ 32)) (mirror d)

def execReshard (context : CtxId) (layout : BitVec 64) (s : State) : Res := s.upd (reshard context layout.toNat)

/-- RED_STATUS (R345). -/
def redStatusRead (d : Dev) : Dev :=
  let (a, d) := shown 16 d.redSubst d
  let (b, d) := shown 16 d.redMismatch d
  let (o, d) := shown 16 (openCount d) d
  answer (o + 2 ^ 32 * a + 2 ^ 48 * b) { d with redSubst := 0, redMismatch := 0 }

def execRedStatusRead (s : State) : Res := s.upd redStatusRead

/-- RED_BANK_COUNT (R346). -/
def redBankCountRead (p : Nat) (d : Dev) : Dev :=
  let b := d.adderBank p
  let (x, d) := shown 32 (b.addedBytes / 2 ^ 20) d
  let (y, d) := shown 16 b.duplicates d
  let (z, d) := shown 16 b.late d
  answer (x + 2 ^ 32 * y + 2 ^ 48 * z) (d.modBank p (fun b => { b with addedBytes := 0, duplicates := 0, late := 0 }))

def execRedBankCountRead (p : PortId) (s : State) : Res := s.upd (redBankCountRead p.val)

/-- A write of RED_BANK_CTRL.INJECT (R346): only from the leading hub complex while no reduction is open on the bank. -/
def bankInject (p : Nat) (d : Dev) : Dev :=
  if (d.adderBank p).chunks.isEmpty then d.modBank p (fun b => { b with inject := true }) else logIgnored d

def execBankInject (src : Source) (p : PortId) (s : State) : Res :=
  s.upd (dieLeadWrite (.bankInject src p) src (dieOfPort p.val) (bankInject p.val))

end Sys2Proof.Machine
end

