-- ==== Sys2Proof/Machine/Porter.lean ====
section
/-! DEFINITION. The porter: issue of PT operations, their transfers' issue, landing and faults, cancellation, the porter's
registers (02 R47, R49, R58; 12_porter_tiers.md R271 to R276, R286 to R290; 13 R300; 14 R327, R328, R341). -/

namespace Sys2Proof.Machine

/-! ### Issue -/

/-- LSEND to its own package is a COPY (R300); every other operation is itself. -/
def asData (d : Dev) (c : Instr) : Instr :=
  match c with
  | .lsend t o => if selfSend d c then .copy t o else c
  | _ => c

/-- The operation moves data between addresses of the package. -/
def movesData : Instr → Bool
  | .copy .. | .encode .. | .decode .. | .ring .. => true
  | _ => false

/-- A STANDBY reduction operation (R327). -/
def isStandby : Instr → Bool
  | .rxmax _ o | .rsend _ o => o.oparg.getLsbD 11
  | _ => false

/-- The transfers of a PT operation on a slot: one for each tile step (R271); RGATHER reads its share of the owned range
alone, BPUSHRC moves no tensor, and an LSEND whose share of a slot is empty still sends the slot's remote token (R123, R300). -/
def ptSteps (d : Dev) (c : Instr) (i : Issue) : Nat :=
  match c with
  | .bpushrc .. => 0
  | .rgather _ o =>
    let x := redDesc d i.t (field o.oparg.toNat 10 0)
    let l := (d.redCtx i.t).layout
    let (a, b) := slotRange l d.shape.coord x i.k
    if l.member d.shape.coord then ceilDiv (b - a) (gatherChunks x) else 0
  | .lsend _ o =>
    let n := (ptShape d i o.ldesc.toNat).tileSteps.length
    if n = 0 ∧ (remoteToken c).isSome ∧ !selfSend d c then 1 else n
  | _ => match ptFields c with
    | some o => (ptShape d i o.ldesc.toNat).tileSteps.length
    | none => 0

/-- What RXMAX and RSEND check at issue on a slot: whole chunks (R328), and on a package that is only a backup STANDBY with
a member that it backs up (R341). -/
def redRefused (d : Dev) (c : Instr) (o : PtOp) (i : Issue) : Bool :=
  let l := (d.redCtx i.t).layout
  let x := redDesc d i.t (field o.oparg.toNat 10 0)
  let named := isStandby c && (l.backups.getD (field o.ext.toNat 9 0) none == some d.shape.coord)
  (!l.member d.shape.coord && !named) || !wholeChunks x ((redElems d i o).2.map (fun e => e.2.1))

/-- The stops that a PT operation meets at issue (R124, R328, R341). -/
def ptStops (d : Dev) (c : Instr) (o : PtOp) (i : Issue) : Option Stop :=
  match c with
  | .rgather .. => none
  | .rxmax .. | .rsend .. =>
    (planStop d i o.ldesc.toNat o.baseSrc.toNat
      ((d.ctx i.t).theProg.descs.getD o.ldesc.toNat {}).plistBase).orElse (fun _ => if redRefused d c o i then some .badParam else none)
  | _ => planStop d i o.ldesc.toNat o.baseSrc.toNat ((d.ctx i.t).theProg.descs.getD o.ldesc.toNat {}).plistBase

/-- A tile step of an operation by number. -/
def stepOf (d : Dev) (c : Instr) (i : Issue) (n : Nat) : List Nat :=
  match ptFields c with
  | some o => (ptShape d i o.ldesc.toNat).tileSteps.getD n []
  | none => []

/-- Blocks coded or decoded by a transfer are counted (R202). -/
def countCoded (core : Nat) (c : Instr) (i : Issue) (step : List Nat) (d : Dev) : Dev :=
  match c with
  | .encode _ o =>
    let s := ptShape d i o.ldesc.toNat
    let (va, _) := s.views d o.baseSrc.toNat o.baseDst.toNat i
    countEncoded core (frcRunsOf s d ((s.pieces d step).1.map (fun p => (va.rebase p.handles[0]?, p)))) d
  | .decode _ o =>
    let s := ptShape d i o.ldesc.toNat
    let (_, vc) := s.views d o.baseSrc.toNat o.baseDst.toNat i
    countDecoded core s ((s.pieces d step).1.map (fun p => (vc.rebase p.handles[2]?, p))) d
  | _ => d

/-- A replayed slot sends the packets of a link operation that its port has not seen acknowledged again (R58). -/
def resendPackets (c : Instr) (t : CtxId) (k : Nat) (d : Dev) : Dev :=
  let ops := (d.ptOps.filter (fun (p : Nat × Option PtRec) => match p.2 with
    | some r => r.ctx == t && r.instr == c && r.parts.any (fun q => q.at_.k == k && !q.fin) | none => false)).map Prod.fst
  let tags := ops.flatMap (fun n => (entriesOf d n k).map (fun p => (Tab.get ({} : Entry) (d.core p.1).entries p.2).gen.toNat * 512 + p.2))
  let mine := d.fabric.outbox.filter (fun x => x.link.ctx == t && x.link.tagSlot.val == k &&
    tags.contains (x.link.tagGen.toNat * 512 + x.link.tagEntry.toNat))
  let d := d.modFabric (fun f => { f with outbox := f.outbox.filter (fun x => !mine.contains x) })
  mine.foldl (fun d x => resend { x with full := false } d) d

/-- A replayed slot repeats its operation at once: what stays on the package, blocks coded again being counted (R202), and of a link
operation the transfers that are not acknowledged (R58). -/
def ptReplay (c : Instr) (t : CtxId) (o : PtOp) (all : List Issue) (i : Issue) (d : Dev) : Dev :=
  let c := asData d c
  if isBarrow c then replayBarrow c t o i d
  else if movesData c then
    (List.range (ptSteps d c i)).foldl (fun d n =>
      let v := veilOn d
      makeWrites (ptWork c all i (stepOf d c i n) v).writes
        (veilOff d (countCoded ((coreOfSlot d i.k).getD 0) c i (stepOf d c i n) v))) d
  else resendPackets c t i.k d

/-- A STEP_REPLAY of LOCAL scope runs in the context (R196). -/
def localReplay (d : Dev) (t : CtxId) : Bool := match (d.ctx t).srep with | some r => !r.fabric | none => false

/-- A link operation under LOCAL scope sends nothing; an RSEND's tallies are still computed (R196). -/
def ptSuppressed (c : Instr) (t : CtxId) (o : PtOp) (is : List Issue) (d : Dev) : Dev :=
  let d := match c with
    | .rsend .. =>
      if isStandby c then d
      else
        let red := field o.oparg.toNat 10 0
        let x := redDesc d t red
        is.foldl (fun d i =>
          let (_, es) := redElems d i o
          ((es.map (fun z => z.2.1.toNat / 768)).dedup).foldl (fun d ch =>
            let scales := (List.range 24).map (fun b => ptByte d (x.xbase + 24 * ch + b))
            let (ints, d) := chunkInts (chunkValues d x es ch) scales d
            d.modRun t red (fun z => { z with role0 := some ((z.role0.getD 0 + tallyOf ints) % tallyMod) })) d) d
    | _ => d
  if o.tokenEn then arrive t o.token.toNat d else d

/-- RXMAX, RSEND and RGATHER open their reduction (R342). -/
def openReduction (c : Instr) (t : CtxId) (o : PtOp) (d : Dev) : Dev :=
  match c with
  | .rxmax .. | .rsend .. | .rgather .. => d.modRun t (field o.oparg.toNat 10 0) id
  | _ => d

/-- Begin a PT operation that its porters accept (R47, R49, R271). -/
def ptStart (c : Instr) (t : CtxId) (o : PtOp) (is : List Issue) (d : Dev) : Dev :=
  let d := openReduction c t o d
  let pc := (d.ctx t).issuePc
  let d := tapOpen t 2 pc (d.ptNext + 1) 0 (is.map (·.k)) d
  let d := { d with seq := { d.seq with tapOn := false } }
  let idle := fun (i : Issue) => !isBarrow c && ptSteps d c i == 0
  let d' := is.foldl (fun d i =>
    if idle i then
      let d := tapGive t 2 pc (d.ptNext + 1) i.k {} d
      match remoteToken c with | some tok => arrive t tok.toNat d | none => d
    else d) d
  let (n, d) := beginOp c t (if o.tokenEn then some o.token.toNat else none) is (ptSteps d c) none d'
  let d := tapHold (opDone n d)
  if isBarrow c then is.foldl (fun d i => barrowTurn t i.k d) d else d

/-- Arm a STANDBY operation (R329): its TOKEN arrives, and it stays armed until its task ends. -/
def armStandby (c : Instr) (t : CtxId) (o : PtOp) (is : List Issue) (d : Dev) : Dev :=
  let d := d.modRed t (fun r => { r with
    armed := r.armed ++ is.map (fun i => { instr := c, at_ := i, member := field o.ext.toNat 9 0 }) })
  if o.tokenEn then arrive t o.token.toNat d else d

/-- An absolute coordinate outside FABRIC_DIM (R300): PREFETCH_FAULT with cause 6; the address that PORTER_FAULT shows is
open. -/
def badDest (t : CtxId) (o : PtOp) (ks : List Nat) (d : Dev) : Dev :=
  let (g, d) := useFree 48 d
  let d := ks.foldl (fun d k => match coreOfSlot d k with | some core => capturePorter core t g 6 d | none => d) d
  settleStops t 2 o.ldesc.toNat (ks.map (fun k => (k, .pfault 6 g))) d

/-- Issue a PT operation (R44, R47, R58, R124, R271). Where a porter has no free entry the sequencers hold (R47). -/
def ptIssue (c : Instr) (t : CtxId) (o : PtOp) (d : Dev) : Dev :=
  let ks := actingSlots d t o.mask.toNat
  let is := ks.map (issueOf d t o.mask.toNat)
  if ks.isEmpty then d
  else if replaying d then
    let all := (maskSlots (d.ctx t) o.mask.toNat).map (issueOf d t o.mask.toNat)
    is.foldl (fun d i => ptReplay c t o all i d) d
  else
    let stops := is.filterMap (fun i => (ptStops d c o i).map (fun z => (i.k, z)))
    if stops ≠ [] then settleStops t 2 o.ldesc.toNat stops d
    else if (match c with | .lsend .. => (lsendDest d o).isNone | _ => false) then badDest t o ks d
    else if localReplay d t && isLink c && !selfSend d c then ptSuppressed c t o is d
    else if isStandby c then armStandby c t o is d
    else if canAccept d c ((is.filter (fun i => ptSteps d c i ≠ 0)).map (·.k)) then ptStart c t o is d
    else { d with ptHeld := some c, seq := { d.seq with mode := .hold, ptHold := true } }

/-- The meaning of a PT operation whose fields the spec gives a meaning: it issues when its task does. -/
def ptMeaning (c : Instr) (t : CtxId) (o : PtOp) (s : State) : Res :=
  s.upd (fun d => if issuing d t then ptIssue c t o d else d)

/-- Reserved field values of COPY, ENCODE, DECODE and RING: OPARG is zero (R274), FRC as R275 says. -/
def dataReserved (coded : Bool) (o : PtOp) : Bool :=
  o.oparg != 0 || (if coded then !(decide (1 ≤ o.frc.toNat) && decide (o.frc.toNat ≤ 4)) else o.frc != 0)

/-- Reserved field values of LSEND (R300). -/
def lsendReserved (o : PtOp) : Bool := o.frc != 0 || field o.oparg.toNat 17 16 != 0 || field o.ext.toNat 47 13 != 0

/-- Reserved field values of the reduction operations (R327). -/
def redReserved (o : PtOp) : Bool :=
  o.frc != 0 || field o.oparg.toNat 17 12 != 0 || (o.oparg.getLsbD 11 && field o.ext.toNat 47 10 != 0)

/-- COPY (R274, R275). -/
def execCopy (t : CtxId) (o : PtOp) (s : State) : Res :=
  if dataReserved false o then .fault .reservedEncoding else ptMeaning (.copy t o) t o s

/-- ENCODE (R183, R274, R275). -/
def execEncode (t : CtxId) (o : PtOp) (s : State) : Res :=
  if dataReserved true o then .fault .reservedEncoding else ptMeaning (.encode t o) t o s

/-- DECODE (R181, R183, R274, R275). -/
def execDecode (t : CtxId) (o : PtOp) (s : State) : Res :=
  if dataReserved true o then .fault .reservedEncoding else ptMeaning (.decode t o) t o s

/-- RING (R276). -/
def execRing (t : CtxId) (o : PtOp) (s : State) : Res :=
  if dataReserved false o then .fault .reservedEncoding else ptMeaning (.ring t o) t o s

/-- LSEND (R300). -/
def execLsend (t : CtxId) (o : PtOp) (s : State) : Res :=
  if lsendReserved o then .fault .reservedEncoding else ptMeaning (.lsend t o) t o s

/-- RXMAX (R327, R328). -/
def execRxmax (t : CtxId) (o : PtOp) (s : State) : Res :=
  if redReserved o then .fault .reservedEncoding else ptMeaning (.rxmax t o) t o s

/-- RSEND (R327, R328). -/
def execRsend (t : CtxId) (o : PtOp) (s : State) : Res :=
  if redReserved o then .fault .reservedEncoding else ptMeaning (.rsend t o) t o s

/-- RGATHER (R327). -/
def execRgather (t : CtxId) (o : PtOp) (s : State) : Res :=
  if redReserved o then .fault .reservedEncoding else ptMeaning (.rgather t o) t o s

/-- BPUSH (R157, R159). -/
def execBpush (t : CtxId) (o : PtOp) (s : State) : Res :=
  if 4 < o.frc.toNat then .fault .reservedEncoding else ptMeaning (.bpush t o) t o s

/-- BPUSHOFF (R157, R185). -/
def execBpushoff (t : CtxId) (o : PtOp) (s : State) : Res :=
  if 4 < o.frc.toNat then .fault .reservedEncoding else ptMeaning (.bpushoff t o) t o s

/-- BPUSHRC (R157). -/
def execBpushrc (t : CtxId) (o : PtOp) (s : State) : Res :=
  if 4 < o.frc.toNat then .fault .reservedEncoding else ptMeaning (.bpushrc t o) t o s

/-- BPOP (R157, R160). -/
def execBpop (t : CtxId) (o : PtOp) (s : State) : Res :=
  if 4 < o.frc.toNat then .fault .reservedEncoding else ptMeaning (.bpop t o) t o s

/-! ### Transfers -/

def Dev.entry (d : Dev) (core e : Nat) : Entry := Tab.get {} (d.core core).entries e
def Dev.modEntry (core e : Nat) (f : Entry → Entry) (d : Dev) : Dev :=
  d.modCore core (fun c => { c with entries := Tab.mod {} c.entries e f })

/-- Transfers of an operation on a slot are sent in generation order (R272): no earlier one waits. -/
def earlierWaits (d : Dev) (x : Entry) : Bool :=
  d.cores.any (fun (p : Nat × Core) =>
    p.2.entries.any (fun (q : Nat × Entry) => q.2.state == 1 && q.2.op == x.op && q.2.slot == x.slot && decide (q.2.step < x.step)) ||
    p.2.backlog.any (fun b => b.1 == x.op && b.2.1 == x.slot && decide (b.2.2 < x.step)))

/-- The package addresses that a transfer writes. -/
def writtenAddrs (d : Dev) (w : PtWork) : List Nat := w.writes.flatMap (fun x => x.acc.bytes.map (fun a => physical d a.toNat))

/-- The writes of a BPOP's transfer enter the write-intent tables (R255): those of its tile step. -/
def popIntent (core e : Nat) (x : Entry) (i : Issue) (o : PtOp) (d : Dev) : Dev :=
  let s := ptShape d i o.ldesc.toNat
  let (_, vc) := s.views d o.baseSrc.toNat o.baseDst.toNat i
  let l := (s.pieces d (s.tileSteps.getD x.step [])).1.flatMap (fun p =>
    let v := vc.rebase p.handles[2]?
    (s.elems .c p.whole).flatMap (fun e => (readAcc v e).bytes.map (fun a => physical d a.toNat)))
  enterIntent core e l d

/-- The request of a data-moving transfer is sent: its addresses are checked (R125, R126, R275, R279, R286). -/
def issueData (core e : Nat) (x : Entry) (r : PtRec) (i : Issue) (c : Instr) (o : PtOp) (d : Dev) : Dev :=
  let s := ptShape d i o.ldesc.toNat
  let w := ptWork c (r.parts.map (·.at_)) i (stepOf d c i x.step) d
  let d := translateMiss core (homesTouched d w) d
  let is := r.parts.map (·.at_)
  let before := earlierAccs d (fun st => let w := ptWork c is i st d; w.reads ++ w.writes.map PtWrite.acc) s i.k x.step
  match ptFirst (isCopy c) s d before w with
  | some (n, z) =>
    let d := match z with | .overflow _ _ _ => makeWrites (w.writes.take (n - w.reads.length)) d | _ => d
    stopTransfer core r i z d
  | none => match w.stop with
    | some z => stopTransfer core r i z d
    | none => enterIntent core e (writtenAddrs d w) (d.modEntry core e (fun y => { y with state := 2 }))

/-- The request of a barrow operation's transfer is sent, once the operation is the slot's next (R159). -/
def issueBarrow (core e : Nat) (x : Entry) (r : PtRec) (p : PtPart) (d : Dev) : Dev :=
  let t := r.ctx
  let q := (d.bar t x.slot).queue
  if !q.contains x.op ∨ p.hdr.isSome then
    let d := d.modEntry core e (fun y => { y with state := 2 })
    match r.instr, p.hdr with
    | .bpop _ o, some hdr => if popMoves d t x.slot hdr then popIntent core e x p.at_ o d else d
    | _, _ => d
  else if q.head? ≠ some x.op then d
  else match barrowStart core x.op r p.at_ d with
    | .waits d => d
    | .stopped d => d
    | .started d =>
      match ((d.op x.op).bind (fun r => r.part x.slot)).bind (fun p => p.hdr), r.instr with
      | some hdr, .bpop .. =>
        if popMoves d t x.slot hdr then
          (match ptFields r.instr with | some o => popIntent core e x p.at_ o | none => id) (d.modEntry core e (fun y => { y with state := 2 }))
        else barrowTurn t x.slot (barrowFinish core x.op r p.at_ hdr (dropTransfers x.op x.slot d))
      | _, _ => d.modEntry core e (fun y => { y with state := 2 })

/-- TRANSFER_ISSUE (R271, R272, R286): a WAITING entry's request is sent. -/
def transferIssue (core e : Nat) (d : Dev) : Dev :=
  let x := d.entry core e
  if x.state ≠ 1 ∨ earlierWaits d x then d
  else match d.op x.op with
    | none => d
    | some r =>
      match r.part x.slot, ptFields r.instr with
      | some p, some o =>
        let c := asData d r.instr
        if r.back.isSome then d.modEntry core e (fun y => { y with state := 2 })
        else if isBarrow c then issueBarrow core e x r p d
        else match c with
          | .lsend .. =>
            if (ptShape d p.at_ o.ldesc.toNat).tileSteps.length ≤ x.step then lsendEmpty core e r o p.at_ d
            else lsendTransfer core e x r o p.at_ (stepOf d c p.at_ x.step) d
          | .rxmax .. => redTransfer core e x r o p.at_ false d
          | .rsend .. => redTransfer core e x r o p.at_ true d
          | .rgather .. => gatherTransfer core e x r o p.at_ d
          | _ => issueData core e x r p.at_ c o d
      | _, _ => d

def execTransferIssue (c : CoreId) (e : EntryId) (s : State) : Res := s.upd (transferIssue c.val e.val)

/-- A data-moving transfer lands (R251, R271, R440): its bytes move, and its slot's part may be complete (R49). -/
def landData (core e : Nat) (x : Entry) (r : PtRec) (p : PtPart) (c : Instr) (d : Dev) : Dev :=
  let step := stepOf d c p.at_ x.step
  let v := veilOn d
  let w := ptWork c (r.parts.map (·.at_)) p.at_ step v
  match ptMedia d w with
  | some z => stopTransfer core r p.at_ z d
  | none =>
    let rd := tierBytes w.reads
    let wr := tierBytes (w.writes.map PtWrite.acc)
    let d := makeWrites w.writes (veilOff d (countCoded core c p.at_ step v))
    let d := d.modCore core (fun c => { c with readBytes := c.readBytes + rd, writtenBytes := c.writtenBytes + wr })
    let d := transferDone core e x.op x.slot d
    if p.landed + 1 < p.steps then d
    else
      let d := partDone x.op x.slot (fun d r i => dataWritten c (r.parts.map (·.at_)) i d) d
      match remoteToken r.instr with
      | some tok => arrive r.ctx tok.toNat d
      | none => d

/-- A barrow operation's transfer lands; the last one brings the operation's effect (R159, R160). -/
def landBarrow (core e : Nat) (x : Entry) (r : PtRec) (p : PtPart) (d : Dev) : Dev :=
  let d := transferDone core e x.op x.slot d
  if p.landed + 1 < p.steps then d
  else barrowTurn r.ctx x.slot (barrowFinish core x.op r p.at_ (p.hdr.getD 0) d)

/-- The operation codes or decodes FRC blocks (R184). -/
def codesFrc (c : Instr) : Bool :=
  match c with
  | .encode .. | .decode .. | .bpop .. => true
  | .bpush _ o | .bpushoff _ o => o.frc != 0
  | _ => false

/-- TRANSFER_LANDED (R184, R255, R271, R272): the last byte of an ISSUED transfer is written, after so many blocks that the FRC unit
coded again. Prefetch-backs land by PREFETCH_BACK_LANDED, link transfers by their acknowledgements, a barrow's own moves by SPILL_DONE
and REFILL_DONE; a partial write that waits for a write-intent entry has not landed. -/
def transferLanded (core e recoded : Nat) (d : Dev) : Dev :=
  let x := d.entry core e
  if x.state ≠ 2 ∨ x.own ≠ 0 ∨ waitsIntent d core e then d
  else match d.op x.op with
    | none => d
    | some r =>
      match r.part x.slot with
      | none => d
      | some p =>
        let c := asData d r.instr
        if r.back.isSome || isLink c then d
        else
          let d := if isBarrow c then landBarrow core e x r p d else landData core e x r p c d
          if codesFrc c then retries 4 core recoded d else d

def execTransferLanded (c : CoreId) (x : Landing) (s : State) : Res := s.upd (transferLanded c.val x.entry.val x.recoded)

/-- The first host-tier address that a transfer reads or writes. -/
def hostAddr (d : Dev) (x : Entry) (r : PtRec) (p : PtPart) : Option Nat :=
  let inHost := fun (a : Nat) => let q := physical d a; if hostBase ≤ q then some q else none
  let c := asData d r.instr
  match ptFields r.instr with
  | none => none
  | some o =>
    match r.back, c with
    | some idx, _ => ((d.bar r.ctx x.slot).armed.find? (fun a => a.index == idx)).bind (fun a => inHost a.host)
    | none, .bpushoff .. => inHost (p.at_.base o.baseDst.toNat)
    | none, .rgather .. => inHost (redDesc d r.ctx (field o.oparg.toNat 10 0)).rbase
    | none, _ =>
      let s := ptShape d p.at_ o.ldesc.toNat
      let w := if movesData c then ptWork c (r.parts.map (·.at_)) p.at_ (stepOf d c p.at_ x.step) d
        else copyWork s d (stepOf d c p.at_ x.step) o.baseSrc.toNat o.baseDst.toNat p.at_ false
      let w := if isLink c then w.reads else w.reads ++ w.writes.map PtWrite.acc
      w.findSome? (fun a => a.bytes.findSome? (fun b => inHost b.toNat))

/-- A host-tier transfer fails (R286, R289). -/
def hostFault (core e cause : Nat) (d : Dev) : Dev :=
  let x := d.entry core e
  if x.state = 3 then d.modCore core (fun c => { c with discarded := c.discarded + 1 })
  else if x.state ≠ 2 ∨ x.own ≠ 0 then d
  else match d.op x.op with
    | none => d
    | some r =>
      match r.part x.slot with
      | none => d
      | some p =>
        match hostAddr d x r p with
        | some a => stopTransfer core r p.at_ (.pfault cause a) d
        | none => d

/-- TRANSFER_FAULT (R286): a CXL completion error, or poisoned data returned by the host. -/
def execTransferFault (c : CoreId) (e : EntryId) (poisoned : Bool) (s : State) : Res :=
  s.upd (hostFault c.val e.val (if poisoned then 3 else 2))

/-- HOST_TIMEOUT (R286): no response within HOME_CTRL.HOST_TIMEOUT. -/
def hostTimeout (core e : Nat) (d : Dev) : Dev :=
  if (d.entry core e).state = 2 then hostFault core e 4 d else d

def execHostTimeout (c : CoreId) (e : EntryId) (s : State) : Res := s.upd (hostTimeout c.val e.val)

/-- RESPONSE_DISCARD (R271, R288): a response whose generation is not its entry's goes to the discard sink. -/
def responseDiscard (core e : Nat) (gen : BitVec 4) (d : Dev) : Dev :=
  if (d.entry core e).gen = gen then d else d.modCore core (fun c => { c with discarded := c.discarded + 1 })

def execResponseDiscard (c : CoreId) (e : EntryId) (gen : BitVec 4) (s : State) : Res := s.upd (responseDiscard c.val e.val gen)

/-- The place at which a write is accepted or dropped whole (R287): a stack block of 4 KiB, elsewhere the element. -/
def drainKey (d : Dev) (w : PtWrite) : Nat :=
  let a := physical d ((w.acc.bytes.headD 0).toNat)
  if isStack a then a / 4096 * 4096 else a

/-- Which of several places had been accepted when the Sweep ended: open, one by one. -/
def acceptedOf (keys : List Nat) (d : Dev) : List Nat × Dev :=
  keys.foldl (fun acc k => let (g, d) := useFree 1 acc.2; (if g = 1 then acc.1 ++ [k] else acc.1, d)) ([], d)

/-- The write drain of one cancelled transfer (R287): the writes already accepted complete, a stack block whole or not at all, every
other one is dropped. Which had been accepted is open (DESIGN CHOICE, log entry 83). -/
def drainOne (x : Drain) (d : Dev) : Dev :=
  match x.op with
  | none =>
    if x.was.own = 1 then
      let (g, d) := useFree 1 d
      if g = 1 then writeSpill (Fin.ofNat 16 x.was.ctx) x.was.slot x.was.step d else d
    else d
  | some r =>
    match r.part x.was.slot with
    | none => d
    | some p =>
      let c := asData d r.instr
      if !movesData c || r.back.isSome then d
      else
        let v := veilOn d
        let w := ptWork c (r.parts.map (·.at_)) p.at_ (stepOf d c p.at_ x.was.step) v
        if (ptMedia d w).isSome then d
        else
          let (ks, d) := acceptedOf ((w.writes.map (drainKey d)).dedup) (veilOff d v)
          makeWrites (w.writes.filter (fun y => ks.contains (drainKey d y))) d

/-- CANCEL_COMPLETE (R287): the write drain ends, and the Release phase. -/
def cancelComplete (t : CtxId) (d : Dev) : Dev :=
  let d := (d.drains.filter (fun x => x.was.ctx == t.val && (d.entry x.core x.entry).state == 3)).foldl (fun d x => drainOne x d)
    { d with drains := d.drains.filter (fun x => x.was.ctx ≠ t.val) }
  let cores := ((d.cores : List (Nat × Core)).filter (fun p => p.2.cancelling == some t)).map Prod.fst
  cores.foldl (fun d core =>
    let mine := ((d.core core).entries.filter (fun (p : Nat × Entry) => p.2.state == 3 && p.2.ctx == t.val)).map Prod.fst
    let d := mine.foldl (fun d e => clearIntent core e d) d
    pull core (d.modCore core (fun c => { c with
      entries := Tab.modMany {} c.entries mine (fun _ e => e.freed), cancelling := none, cancels := c.cancels + 1 }))) d

def execCancelComplete (t : CtxId) (s : State) : Res := s.upd (cancelComplete t)

/-! ### Registers -/

/-- PORTER_BYTES (R290): MiB since the last read. -/
def porterBytesRead (core : Nat) (d : Dev) : Dev :=
  let c := d.core core
  let (a, d) := shown 32 (c.readBytes / 2 ^ 20) d
  let (b, d) := shown 32 (c.writtenBytes / 2 ^ 20) d
  answer (a + put 32 32 b) (d.modCore core (fun c => { c with readBytes := 0, writtenBytes := 0 }))

def execPorterBytesRead (c : CoreId) (s : State) : Res := s.upd (porterBytesRead c.val)

/-- PORTER_DISCARD (R290). -/
def porterDiscardRead (core : Nat) (d : Dev) : Dev :=
  let c := d.core core
  let (a, d) := shown 32 c.discarded d
  let (b, d) := shown 16 c.cancels d
  answer (a + put 32 16 b) (d.modCore core (fun c => { c with discarded := 0, cancels := 0 }))

def execPorterDiscardRead (c : CoreId) (s : State) : Res := s.upd (porterDiscardRead c.val)

/-- PORTER_HOMEMISS (R290). -/
def porterHomemissRead (core : Nat) (d : Dev) : Dev :=
  let c := d.core core
  let (a, d) := shown 32 c.misses d
  let (b, d) := shown 32 c.heldCycles d
  answer (a + put 32 32 b) (d.modCore core (fun c => { c with misses := 0, heldCycles := 0 }))

def execPorterHomemissRead (c : CoreId) (s : State) : Res := s.upd (porterHomemissRead c.val)

/-- FRC_STATS (R202). -/
def frcStatsRead (core : Nat) (d : Dev) : Dev :=
  let c := d.core core
  let (a, d) := shown 32 c.frcEncoded d
  let (b, d) := shown 32 c.frcDecoded d
  answer (a + put 32 32 b) (d.modCore core (fun c => { c with frcEncoded := 0, frcDecoded := 0 }))

def execFrcStatsRead (c : CoreId) (s : State) : Res := s.upd (frcStatsRead c.val)

end Sys2Proof.Machine
end

