-- ==== Sys2Proof/Machine/Bells.lean ====
section
/-! DEFINITION. Bells and the stops of the schedule clock: when a bell falls due, waits, is released, is held by the spacing
of checkpoint bells; when an issue hold ends; a task's resumption
(02_bundle_stream.md R47, R50, R52, R53, R56, R59, R62; 08 R200). -/

namespace Sys2Proof.Machine

/-- The porters accept the bundle's PT operation (R47). -/
def porterReady (d : Dev) (t : CtxId) (b : Bundle) : Bool :=
  match b.ptI t with
  | some c =>
    (match ptFields c with
     | some o =>
       replaying d || canAccept d c ((((actingSlots d t o.mask.toNat).map (issueOf d t o.mask.toNat)).filter (fun i => ptSteps d c i ≠ 0)).map (·.k))
     | none => true)
  | none => true

/-- The porters accept the PT operation of the bundle that a bell waits to issue (R47, R50). -/
def bellReady (d : Dev) (t : CtxId) : Bool := porterReady d t ((d.ctx t).theProg.bundle (d.ctx t).issuePc)

/-- An engine is late or a tap dump has not landed: the schedule clock stands (R47, R200). -/
def clockStands (d : Dev) : Bool := !d.seq.late.isEmpty || d.seq.tapHold

/-- A satisfied bell is held until its spacing has passed (R56). -/
def bellHold (t : CtxId) (b : BellOp) (d : Dev) : Dev :=
  { d.modCtx t (fun c => { c with bellWait := some b }) with seq := { d.seq with mode := .hold, ckptHold := true } }

/-- A bell falls due (R50, R52, R56, R58): it waits, is held, or its bundle issues. Where the porters cannot accept the bundle's
PT operation the bundle stays unissued and the bell falls due again. -/
def bellDue (t : CtxId) (b : BellOp) (d : Dev) : Dev :=
  if !issuing d t then d
  else if replaying d then bellIssue t b d
  else if !bellSatisfied (d.ctx t) b then
    { d.modCtx t (fun c => { c with bellWait := some b }) with seq := { d.seq with mode := .bellWait } }
  else if !bellReady d t then d
  else if tooSoon d t b then bellHold t b d
  else bellIssue t b d

/-- BELL (R41, R43, R50). -/
def execBell (t : CtxId) (b : BellOp) (s : State) : Res := s.upd (bellDue t b)

/-- A waiting bell that has been satisfied is put back: its bundle falls due again when the clock goes on. -/
def bellBack (t : CtxId) (d : Dev) : Dev :=
  { d.modCtx t (fun c => { c with bellWait := none, bellDone := false, pc := c.issuePc }) with
      seq := { d.seq with mode := if clockStands d then .hold else .issuing } }

/-- BELL_RELEASE (R50, R52, R56): the wait ends after `waited` further fabric cycles, once every named token has reached its count;
the bundle issues where nothing else stops the schedule clock. -/
def bellRelease (t : CtxId) (waited : Nat) (d : Dev) : Dev :=
  match (d.ctx t).bellWait with
  | some b =>
    if d.seq.running = some t ∧ d.seq.mode = .bellWait ∧ bellSatisfied (d.ctx t) b then
      let d := waitCycles t waited d
      if clockStands d || !bellReady d t then bellBack t d
      else if tooSoon d t b then bellHold t b d
      else bellIssue t b d
    else d
  | none => d

def execBellRelease (t : CtxId) (waited : Nat) (s : State) : Res := s.upd (bellRelease t waited)

/-- CKPT_SPACING_HOLD_END (R56): `held` further fabric cycles bring the bell to 3,300 fabric cycles after the previous one; it
issues where nothing else stops the schedule clock. -/
def ckptSpacingHoldEnd (t : CtxId) (held : Nat) (d : Dev) : Dev :=
  match (d.ctx t).bellWait with
  | some b =>
    if d.seq.running = some t ∧ d.seq.mode = .hold ∧ d.seq.ckptHold ∧ !clockStands d ∧ bellReady d t ∧
        (d.ctx t).ckptAt + 3300 ≤ d.wall + held then
      bellIssue t b (addHold held { d with wall := d.wall + held })
    else d
  | none => d

def execCkptSpacingHoldEnd (t : CtxId) (held : Nat) (s : State) : Res := s.upd (ckptSpacingHoldEnd t held)

/-- The mode after a hold ends. -/
def endHold (held : Nat) (d : Dev) : Dev :=
  let d := addHold held { d with wall := d.wall + held }
  { d with seq := { d.seq with mode := .issuing, ptHold := false } }

/-- ISSUE_HOLD_END (R47): a hold ends when no engine is late and a PT operation that the porters could not take can be accepted,
which then issues. -/
def issueHoldEnd (held : Nat) (d : Dev) : Dev :=
  if d.seq.mode = .hold ∧ d.seq.replay.isNone ∧ !d.seq.ckptHold ∧ !clockStands d then
    match d.seq.running, d.ptHeld with
    | some t, some c =>
      match ptFields c with
      | some o =>
        let ks := (((actingSlots d t o.mask.toNat).map (issueOf d t o.mask.toNat)).filter (fun i => ptSteps d c i ≠ 0)).map (·.k)
        if canAccept d c ks then ptIssue c t o { endHold held d with ptHeld := none } else d
      | none => d
    | some _, none => endHold held d
    | none, _ => d
  else d

def execIssueHoldEnd (held : Nat) (s : State) : Res := s.upd (issueHoldEnd held)

/-- TASK_RESUME (R53, R59, R62, R79): the incoming task's yield bundle issues; the resumption counts as a checkpoint bell, and
the quantum starts; its barrows' moves go on (R165). -/
def taskResume (d : Dev) : Dev :=
  match d.seq.preempt with
  | .restored t =>
    kickAll t (adoptDue t (checkpoint t ((idleArrays { d with seq := { d.seq with mode := .issuing, preempt := .none, issued := [] } }).modCtx t (fun c =>
      { c with quantumAt := d.wall, issuePc := c.pc }))))
  | _ => d

def execTaskResume (s : State) : Res := s.upd taskResume

end Sys2Proof.Machine
end

