-- ==== Sys2Proof/Machine/Records.lean ====
section
/-! DEFINITION. Scales records and step records (04_formats_accumulation.md R104 to R106; 08_activation_economy.md R190). -/

namespace Sys2Proof.Machine

/-- Code and BLK16 of every policy entry's CURRENT (R105, R106). -/
def formatMap (c : Ctx) : Tab (BitVec 8) :=
  (List.range 64).foldl (fun m i => Tab.set 0 m i (BitVec.ofNat 8 (field (Tab.get 0 c.policy i).toNat 55 48))) []

/-- The FORMAT_MAP a task runs with: its policy's, or the recorded step's (R105, R108). -/
def taskMap (c : Ctx) : Tab (BitVec 8) :=
  match c.srep with
  | some r => Tab.setMany 0 [] 0 (slice r.record 64 64)
  | none => formatMap c

/-! ### Scales records -/

/-- A slot's committed counts at END, with its interval tables added to them: the spec does not say what becomes of the intervals
that no bell has committed (DESIGN CHOICE, log entry 35). -/
def closedCounts (s : CtxSlot) : Tab ScaleRec :=
  s.intervals.foldl (fun acc p => p.2.foldl (fun acc q => Tab.mod {} acc q.1 (fun a => a.merge q.2)) acc) s.committed

/-- The counts of all slots, tag by tag (R104); those of an aborted task are the committed ones alone (DESIGN CHOICE, log entry
35). -/
def mergedCounts (c : Ctx) (whole : Bool) : Tab ScaleRec :=
  c.slots.foldl (fun acc p =>
    (if whole then closedCounts p.2 else p.2.committed).foldl (fun acc q => Tab.mod {} acc q.1 (fun a => a.merge q.2)) acc) []

/-- A share of R104. -/
def shareOf (count values : Nat) : Nat := if values = 0 then 0 else min 65535 (ceilDiv (65536 * count) values)

/-- A scales record (R104). -/
def scaleBytes (step : BitVec 32) (incomplete : Bool) (tag : Nat) (r : ScaleRec) : List Byte :=
  let flags := b2n (r.nanCount ≠ 0) + put 1 1 (b2n (r.infCount ≠ 0)) + put 2 1 (b2n r.saturated) + put 3 1 (b2n incomplete)
  let l := leBytes 2 tag ++ leBytes 1 r.fmt ++ leBytes 1 flags ++ leBytes 4 step.toNat ++ leBytes 8 r.values ++ leBytes 4 r.amax ++
    leBytes 4 r.aminNz ++ r.ovf.flatMap (fun n => leBytes 2 (shareOf n r.values)) ++
    r.flush.flatMap (fun n => leBytes 2 (shareOf n r.values)) ++ leBytes 4 r.nanCount ++ leBytes 4 r.infCount ++ leBytes 4 r.zeroCount
  l ++ leBytes 4 (crc32c l).toNat

/-- The step's scales records in ascending tag; those of an aborted task are incomplete (R104). -/
def scaleRecords (c : Ctx) (aborted : Bool) : List (List Byte) :=
  (mergedCounts c (!aborted)).map (fun p => scaleBytes c.step aborted p.1 p.2)

/-! ### The step record -/

/-- The tally entries of a step, ascending by reduction, role 0 first (R190, R334). -/
def tallyEntries (d : Dev) (t : CtxId) : List (List Byte) :=
  let rs : List (Nat × Option RedRun) := (Tab.get ({} : RedCtx) d.red t.val).runs
  rs.flatMap (fun p => match p.2 with
    | none => []
    | some x =>
      let one := fun (role : Nat) (v : Option Nat) => match v with
        | some n => [leBytes 4 p.1 ++ leBytes 1 role ++ leBytes 3 0 ++ leBytes 8 n]
        | none => []
      one 0 x.role0 ++ one 1 x.role1)

/-- The step record of a task (R190). -/
def stepRecord (d : Dev) (t : CtxId) (aborted : Bool) (st : Status) (recs : List (List Byte)) : List Byte :=
  let c := d.ctx t
  let ts := tallyEntries d t
  let sliced := c.sliced || (List.range 16).any (fun i => decide (factorOf d i < 16))
  let flags := b2n aborted + put 1 1 (b2n c.srep.isSome) + put 2 1 (b2n (!d.cfg.stewardEnable)) + put 3 1 (b2n c.recovered) +
    put 4 1 (b2n sliced) + put 5 1 (b2n c.unhashed)
  let len := 288 + 48 * c.inputs.length + 16 * ts.length + 64 * recs.length
  let l := leBytes 4 0x52435453 ++ leBytes 2 1 ++ leBytes 1 t.val ++ leBytes 1 flags ++ leBytes 4 c.step.toNat ++ leBytes 4 st.code ++
    leBytes 8 c.seed.toNat ++ leBytes 32 c.theProg.digest.toNat ++ leBytes 8 (Tab.get ({} : RedCtx) d.red t.val).layout.epoch.toNat ++ Tab.getMany 0 c.fmap 0 64 ++
    leBytes 2 c.inputs.length ++ leBytes 2 ts.length ++ leBytes 2 recs.length ++ leBytes 2 0 ++ leBytes 4 len ++
    List.replicate 116 0 ++
    c.inputs.flatMap (fun i => leBytes 8 i.1 ++ leBytes 8 i.2.1 ++ leBytes 32 i.2.2.toNat) ++ ts.flatten ++ recs.flatten
  l ++ leBytes 32 (sha3 l).toNat

/-- The records of an ended step are formed: the step record is written where it is wanted, and the steward has them to
process; not after a STEP_REPLAY (R104, R107, R108, R190). -/
def writeRecords (t : CtxId) (aborted : Bool) (st : Status) (d : Dev) : Dev :=
  let c := d.ctx t
  let recs := scaleRecords c aborted
  let d := if c.record ≠ 0 then
      (hubWr c.record.toNat (stepRecord d t aborted st recs) d).modCtx t (fun c => { c with lastRecorded := c.step })
    else d
  if c.srep.isSome then d else d.modCtx t (fun c => { c with stewardDue := some (c.step, recs) })

/-- The step record of a RUN_TASK that ends before its first bundle (R190): it has no count and no tally. -/
def unstartedRecord (t : CtxId) (st : Status) (d : Dev) : Dev :=
  match (d.ctx t).run with
  | none => d
  | some r =>
    if r.record = 0 then d
    else
      let e := (d.modCtx t (fun c => { c with
        step := r.step, seed := r.seed, fmap := taskMap c, recovered := false, sliced := false }))
      let e := { e with red := Tab.mod {} e.red t.val (fun x => { x with runs := [] }) }
      (hubWr r.record.toNat (stepRecord e t true st []) d).modCtx t (fun c => { c with lastRecorded := r.step })

end Sys2Proof.Machine
end

