-- ==== Sys2Proof/Machine/Pitch.lean ====
section
/-! DEFINITION. The pitch pass (10_attention_pitches.md R231 to R246): release, free, fork, grow, the length table and the
epoch. -/

namespace Sys2Proof.Machine

/-! ### Pitches -/

/-- A pitch-table entry (R232): the first field and HOME stay as the pool's creation set them. -/
structure PitchE where
  addr : Nat
  refs : Nat
  state : Nat
  home : Nat
  first : Nat
  owner : Nat
  stamp : Nat

def PitchE.ofBytes (l : List Byte) : PitchE :=
  { addr := leAt l 0 8, refs := leAt l 8 4, state := leAt l 12 1, home := leAt l 13 1, first := leAt l 16 4, owner := leAt l 20 4
    stamp := leAt l 24 4 }

/-- The 32 bytes of an entry, with CHECK (R232). -/
def PitchE.bytes (e : PitchE) : List Byte :=
  let l := leBytes 8 e.addr ++ leBytes 4 e.refs ++ leBytes 1 e.state ++ leBytes 1 e.home ++ leBytes 2 0 ++ leBytes 4 e.first ++
    leBytes 4 e.owner ++ leBytes 4 e.stamp
  l ++ leBytes 4 (crc32c l).toNat

/-- A pass in progress: it stops at a pitch whose CHECK fails, or to wait for pitches to drain. -/
structure Pass where
  d : Dev
  bad : Option Nat := none
  wait : Bool := false

def Pass.going (x : Pass) : Bool := x.bad.isNone && !x.wait
def Pass.act (f : Dev → Dev) (x : Pass) : Pass := if x.going then { x with d := f x.d } else x

/-- Pitch `n` of pool `p`, its CHECK verified (R232). -/
def pitchAt (p n : Nat) (x : Pass) : PitchE × Pass :=
  let l := hubRd x.d ((x.d.pool p).table + 32 * n) 32
  (PitchE.ofBytes l, if x.going ∧ crc32c (l.take 28) ≠ BitVec.ofNat 32 (leAt l 28 4) then { x with bad := some n } else x)

/-- Read a pitch, and write it changed. -/
def pitchMod (p n : Nat) (f : PitchE → PitchE) (x : Pass) : Pass :=
  let (e, x) := pitchAt p n x
  x.act (hubWr ((x.d.pool p).table + 32 * n) (f e).bytes)

/-- POOL_EPOCH.OLDEST (R241, R246): the least EPOCH_IN of the tasks of attached contexts that have started and not ended. -/
def poolOldest (d : Dev) (p : Nat) : Nat :=
  (allCtx.filterMap (fun t => if (d.pool p).attach.getLsbD t.val then Tab.get none (d.ctx t).epochIn p else none)).foldl min 0xFFFFFFFF

/-- Pitches of the pool in a state. -/
def pitchesIn (p : Nat) (sts : List Nat) (d : Dev) : List Nat :=
  which (d.pool p).pitches (fun n => sts.contains (PitchE.ofBytes (hubRd d ((d.pool p).table + 32 * n) 32)).state)

/-- Step 0 (R238, R241): RELEASING and DROPPED pitches whose stamp is below OLDEST become FREE. -/
def passRelease (p : Nat) (x : Pass) : Pass :=
  let old := poolOldest x.d p
  (List.range (x.d.pool p).pitches).foldl (fun x n =>
    let (e, x) := pitchAt p n x
    if (e.state = 2 ∨ e.state = 3) ∧ e.stamp < old then
      x.act (hubWr ((x.d.pool p).table + 32 * n) { e with state := 0 }.bytes)
    else x) x

/-- A reference to a pitch goes; at 0 the pitch becomes RELEASING with the present epoch's stamp (R241). -/
def unref (p n : Nat) (x : Pass) : Pass :=
  let (e, x) := pitchAt p n x
  let e := { e with refs := e.refs - 1 }
  if e.refs = 0 then
    (pitchMod p n (fun _ => { e with state := 2, stamp := (x.d.pool p).epoch }) x).act (fun d =>
      d.modPool p (fun q => { q with stamped := true }))
  else pitchMod p n (fun _ => e) x

/-! ### Sequences -/

def seqAddr (d : Dev) (p s : Nat) : Nat := (d.pool p).seq + 48 * s
def seqRd (d : Dev) (p s off n : Nat) : Nat := leNat (hubRd d (seqAddr d p s + off) n)
def seqWr (p s off n v : Nat) (d : Dev) : Dev := hubWr (seqAddr d p s + off) (leBytes n v) d

/-- Fields of a sequence entry (R234). -/
def seqLength (d : Dev) (p s : Nat) : Nat := seqRd d p s 8 4
def seqFlag (d : Dev) (p s i : Nat) : Bool := bit (seqRd d p s 17 1) i
def setSeqFlag (p s i : Nat) (v : Bool) (d : Dev) : Dev :=
  let f := seqRd d p s 17 1
  seqWr p s 17 1 (if bit f i == v then f else if v then f + 2 ^ i else f - 2 ^ i) d

/-- Page entry `n` of a sequence (R233). -/
def pageAt (d : Dev) (p s n : Nat) : Nat := leNat (hubRd d (field (seqRd d p s 0 8) 47 0 + 4 * n) 4)
def setPage (p s n v : Nat) (d : Dev) : Dev := hubWr (field (seqRd d p s 0 8) 47 0 + 4 * n) (leBytes 4 v) d
def pageValid (e : Nat) : Bool := bit e 20

/-- A request is answered: REQ is cleared and STATUS set (R234); one that succeeds ends a suspension (R243). -/
def answerReq (p s : Nat) (st : Status) (d : Dev) : Dev :=
  let d := seqWr p s 19 1 st.code (seqWr p s 18 1 0 d)
  if st = .ok then setSeqFlag p s 3 false d else d

/-- The entry breaks a field rule of R234. -/
def seqBroken (d : Dev) (p s : Nat) : Bool :=
  let cap := seqRd d p s 12 4
  decide (2 ^ 48 ≤ seqRd d p s 0 8) || cap == 0 || decide (262144 < cap) || decide (32 ≤ seqRd d p s 17 1) ||
    seqRd d p s 30 2 != 0 || seqRd d p s 36 8 != 0 || seqRd d p s 44 4 != 0

/-- Sequences with a request, ascending. -/
def requests (d : Dev) (p r : Nat) : List Nat := which (d.pool p).seqs (fun s => seqRd d p s 18 1 == r)

/-- Step 1 (R238, R241): a free. The page entries are cleared with their references, and REDO with LENGTH. -/
def passFree (p s : Nat) (x : Pass) : Pass :=
  if !x.going then x
  else if seqBroken x.d p s then x.act (answerReq p s .badParam)
  else
    let x := (List.range (seqRd x.d p s 12 4)).foldl (fun x n =>
      let e := pageAt x.d p s n
      if pageValid e then (unref p (field e 19 0) x).act (setPage p s n 0) else x) x
    x.act (fun d => answerReq p s .ok (seqWr p s 32 4 0 (setSeqFlag p s 4 false (seqWr p s 8 4 0 (setSeqFlag p s 0 false d)))))

/-- Step 2 (R240): a fork of sequence `s` from parent ARG with prefix ARG2. -/
def passFork (p s : Nat) (x : Pass) : Pass :=
  if !x.going then x
  else
    let d := x.d
    let a := seqRd d p s 20 4
    let l := seqRd d p s 24 4
    if seqBroken d p s ∨ seqFlag d p s 0 ∨ (d.pool p).seqs ≤ a ∨ seqLength d p a < l ∨ 16 * seqRd d p s 12 4 < l ∨ 4194304 < l then
      x.act (answerReq p s .badParam)
    else
      let x := (List.range (ceilDiv l 16)).foldl (fun x n =>
        let e := pageAt x.d p a n
        (if pageValid e then pitchMod p (field e 19 0) (fun q => { q with refs := q.refs + 1 }) x else x).act (setPage p s n e)) x
      x.act (fun d => answerReq p s .ok (setSeqFlag p s 0 true (seqWr p s 8 4 l d)))

/-- The pages that receive `n` tokens from LENGTH, each with its entry (R240). -/
def growPages (d : Dev) (p s n : Nat) : List (Nat × Nat) :=
  let l := seqLength d p s
  if n = 0 then [] else (List.range ((l + n - 1) / 16 + 1 - l / 16)).map (fun i => (l / 16 + i, pageAt d p s (l / 16 + i)))

/-- The pages of a grow that need a pitch: those without one, and those whose pitch is shared. -/
def needPages (d : Dev) (p s n : Nat) : List (Nat × Nat) :=
  (growPages d p s n).filter (fun q => !pageValid q.2 ||
    decide (1 < (PitchE.ofBytes (hubRd d ((d.pool p).table + 32 * field q.2 19 0) 32)).refs))

/-- The tail page of a sequence that can lose it: its pitch has one reference (R242). -/
def tailOf (d : Dev) (p s : Nat) : Option (Nat × Nat) :=
  let l := seqLength d p s
  if l = 0 then none
  else
    let n := (l - 1) / 16
    let e := pageAt d p s n
    if pageValid e ∧ (PitchE.ofBytes (hubRd d ((d.pool p).table + 32 * field e 19 0) 32)).refs = 1 then some (n, field e 19 0) else none

/-- The victim of a grow of sequence `s` (R242): lowest PRIO, then highest index. -/
def victimOf (d : Dev) (p s : Nat) : Option Nat :=
  let l := which (d.pool p).seqs (fun v => v != s && seqFlag d p v 0 && seqFlag d p v 1 && !seqFlag d p v 2 && (tailOf d p v).isSome)
  l.foldl (fun acc v => match acc with
    | none => some v
    | some b => if seqRd d p v 16 1 ≤ seqRd d p b 16 1 then some v else acc) none

/-- Drop the last page of a sequence (R242): LENGTH falls to the page's first position; the first drop sets REDO. -/
def dropTail (p v : Nat) (x : Pass) : Pass :=
  match tailOf x.d p v with
  | none => x
  | some (n, q) =>
    let old := seqLength x.d p v
    let x := pitchMod p q (fun e => { e with refs := 0, state := 3, stamp := (x.d.pool p).epoch }) x
    x.act (fun d =>
      let d := setPage p v n (field (pageAt d p v n) 19 0 + 2 ^ 21) d
      let d := seqWr p v 8 4 (16 * n) d
      let d := if seqFlag d p v 4 then d else seqWr p v 32 4 old (setSeqFlag p v 4 true d)
      d.modPool p (fun z => { z with drops := z.drops + 1, stamped := true }))

/-- Take `n` pitches from victims: a victim loses what it can before the next is chosen (R242). -/
def takeVictims (p s : Nat) : Nat → Option Nat → Pass → Pass
  | 0, _, x => x
  | n + 1, cur, x =>
    let v := match cur with
      | some v => if (tailOf x.d p v).isSome then some v else victimOf x.d p s
      | none => victimOf x.d p s
    match v with
    | none => x
    | some v => takeVictims p s n (some v) (dropTail p v x)

/-- Give page `n` of a growing sequence the pitch `q` (R239, R240): a shared page is copied on write. -/
def servePage (p s n e q : Nat) (x : Pass) : Pass :=
  let x := pitchMod p q (fun z => { z with refs := 1, state := 1, first := 16 * n, owner := s }) x
  let x := if pageValid e then
      let old := field e 19 0
      let a := fun (m : Nat) => PitchE.addr (PitchE.ofBytes (hubRd x.d ((x.d.pool p).table + 32 * m) 32))
      let x := x.act (fun d => (hubWr (a q) (hubRd d (a old) (d.pool p).pitchBytes) d).modPool p (fun z => { z with copies := z.copies + 1 }))
      pitchMod p old (fun z => { z with refs := z.refs - 1 }) x
    else x
  x.act (setPage p s n (q + 2 ^ 20))

/-- Step 3 (R240 to R243): a grow. A sequence with dropped pages grows only over the dropped range, and REDO clears once
that is whole. A grow that is short of FREE pitches takes victims once, and then waits. -/
def passGrow (p s : Nat) (x : Pass) : Pass :=
  if !x.going then x
  else
    let d := x.d
    let n := seqRd d p s 20 4
    let l := seqLength d p s
    if seqBroken d p s ∨ 16 * seqRd d p s 12 4 < l + n ∨ 4194304 < l + n ∨ (seqFlag d p s 4 ∧ seqRd d p s 32 4 < l + n) then
      x.act (answerReq p s .badParam)
    else
      let need := needPages d p s n
      let short := need.length - (pitchesIn p [0] d).length
      let x := if short ≠ 0 ∧ (d.pool p).taken ≠ some s then
          passRelease p ((takeVictims p s short none x).act (fun d => d.modPool p (fun z => { z with taken := some s })))
        else x
      let free := pitchesIn p [0] x.d
      if free.length < need.length then (if x.going then { x with wait := true } else x)
      else
        let x := (need.zip free).foldl (fun x q => servePage p s q.1.1 q.1.2 q.2 x) x
        x.act (fun d =>
          let d := setSeqFlag p s 0 true (seqWr p s 8 4 (l + n) d)
          let d := if seqFlag d p s 4 ∧ l + n = seqRd d p s 32 4 then setSeqFlag p s 4 false d else d
          (answerReq p s .ok d).modPool p (fun z => { z with grown := z.grown ++ [(s, n)], taken := none }))

/-- The next grow: descending PRIO, then ascending index (R238). -/
def nextGrow (d : Dev) (p : Nat) : Option Nat :=
  (requests d p 1).foldl (fun acc v => match acc with
    | none => some v
    | some b => if seqRd d p b 16 1 < seqRd d p v 16 1 then some v else acc) none

/-- All grows, one after the other; `fuel` is their number. -/
def passGrows (p : Nat) : Nat → Pass → Pass
  | 0, x => x
  | n + 1, x => match nextGrow x.d p with
    | some s => if x.going then passGrows p n (passGrow p s x) else x
    | none => x

/-! ### The length table and the end of a pass -/

/-- The addresses that a program's objects give a base register: their names (R280). -/
def baseNames (d : Dev) (t : CtxId) (r : Nat) : List Nat :=
  let l := (d.ctx t).theProg.objects
  ((List.range (l.length / 16)).filter (fun i => decide (field (leAt l (16 * i + 12) 1) 5 0 = r))).flatMap (fun i =>
    (objectHomes d t.val (leAt l (16 * i + 8) 2)).map (fun p => p.2.name))

/-- The length tables of a program that a pool's attention records name by REG_LEN (R219, R235). -/
def lengthTables (d : Dev) (t : CtxId) (p : Nat) : List Nat :=
  (((d.ctx t).theProg.attn.filter (fun l => decide (leAt l 21 1 ≠ 0 ∧ field (leAt l 20 1) 1 0 = p))).map (fun l =>
    field (leAt l 27 1) 5 0)).dedup.flatMap (fun r => baseNames d t r)

/-- Sequences that are suspended, and those with a batch slot that are live or suspended (R243). -/
def suspendedSeqs (d : Dev) (p : Nat) : List Nat := which (d.pool p).seqs (fun s => seqFlag d p s 3)
def batchSeqs (d : Dev) (p : Nat) : List Nat :=
  which (d.pool p).seqs (fun s => seqRd d p s 28 2 != 0xFFFF && (seqFlag d p s 0 || seqFlag d p s 3))

/-- Step 4 (R238, R243): PLIST, LENGTH and NEW of each LIVE or suspended sequence with a batch slot; NEW is 0 where suspended. -/
def passTable (t : CtxId) (p : Nat) (d : Dev) : Dev :=
  let l := batchSeqs d p
  (lengthTables d t p).foldl (fun d a => l.foldl (fun d s =>
    let new := if seqFlag d p s 3 then 0 else match (d.pool p).grown.find? (fun g => g.1 == s) with | some g => g.2 | none => 0
    hubWr (a + 16 * seqRd d p s 28 2) (leBytes 8 (field (seqRd d p s 0 8) 47 0) ++ leBytes 4 (seqLength d p s) ++ leBytes 4 new) d) d) d

/-- One pass of context `t` on pool `p` up to its end, its wait, or a CHECK that fails (R238). -/
def runPass (p : Nat) (d : Dev) : Pass :=
  let x := passRelease p { d := d }
  let bad := which (d.pool p).seqs (fun s => decide (3 < seqRd d p s 18 1))
  let x := bad.foldl (fun x s => x.act (answerReq p s .badParam)) x
  let x := (requests d p 3).foldl (fun x s => passFree p s x) x
  let x := (requests d p 2).foldl (fun x s => passFork p s x) x
  passGrows p (d.pool p).seqs x

/-- The pass of the queue's first context has served every request (R238 steps 4 to 6). -/
def closePass (t : CtxId) (p : Nat) (d : Dev) : Dev :=
  let d := passTable t p d
  let d := d.modPool p (fun z => { z with
    epoch := if z.stamped then (z.epoch + 1) % 2 ^ 32 else z.epoch, stamped := false, grown := [], taken := none, queue := z.queue.drop 1 })
  let all := batchSeqs d p
  let none_ := !all.isEmpty && all.all (fun s => seqFlag d p s 3)
  d.modCtx t (fun c => { c with
    epochIn := Tab.set none c.epochIn p (some (d.pool p).epoch), suspended := c.suspended + (suspendedSeqs d p).length
    exhausted := c.exhausted || none_ })

/-- Take a context out of every pool's queue. -/
def leavePools (t : CtxId) (d : Dev) : Dev :=
  let d := { d with pools := Tab.modMany {} d.pools [0, 1, 2, 3] (fun _ (z : Pool) =>
    if z.queue.head? = some t then { z with queue := z.queue.drop 1, grown := [], stamped := false, taken := none }
    else { z with queue := z.queue.filter (· ≠ t) }) }
  d.modCtx t (fun c => { c with epochIn := [] })

/-- The ABORT_TASKs that acted early complete after the task's record (R360, R369); the till is disabled where ENABLE was
cleared meanwhile (R381). -/
def finishAbort (t : CtxId) (aborted : Bool) (d : Dev) : Dev :=
  let n := taskTill t
  let d := (d.till n).aborts.foldl (fun d k => record n k d.wall false .ok none (some (b2n aborted)) d) d
  d.modTill n (fun x => { x with
    aborts := [], enable := x.enable && !(x.closing && x.cur.isNone), closing := x.closing && x.cur.isSome })

/-- A RUN_TASK or STEP_REPLAY ends before its first bundle: it completes, its context is idle, and the ABORT_TASKs that waited for it
complete, which aborted it where its status is OK (R201, R369). -/
def endUnstarted (t : CtxId) (st : Status) (detail result : Option Nat) (d : Dev) : Dev :=
  let d := leavePools t (if (d.ctx t).srep.isSome then { d with replayStat := { d.replayStat with running := false } } else d)
  finishAbort t (st == .ok) (finish (taskTill t) st detail result (d.modCtx t (fun c => { c with
    phase := .idle, run := none, srep := none, suspended := 0, exhausted := false, hostAbort := false })))

/-- A RUN_TASK that does not start (R190, R201, R232, R243): its step record is written where it names one, and it ends. -/
def dropRun (t : CtxId) (st : Status) (detail result : Option Nat) (d : Dev) : Dev :=
  endUnstarted t st detail result (unstartedRecord t st d)

/-- A pool's passes go on in the order of their RUN_TASKs as far as they can; `fuel` is their number. -/
def poolGo (p : Nat) : Nat → Dev → Dev
  | 0, d => d
  | n + 1, d =>
    match (d.pool p).queue with
    | [] => d
    | t :: _ =>
      let x := runPass p d
      match x.bad with
      | some q => poolGo p n (dropRun t .checksumMismatch (some q) none x.d)
      | none => if x.wait then x.d else poolGo p n (closePass t p x.d)

def poolKick (p : Nat) (d : Dev) : Dev := poolGo p (d.pool p).queue.length d

/-- Every pool goes on: a task of an attached context has ended, so pitches may have drained. -/
def poolsKick (d : Dev) : Dev := [0, 1, 2, 3].foldl (fun d p => poolKick p d) d

/-- A RUN_TASK whose context waits in no pool's queue and whose every batch sequence is suspended completes without starting
(R243). -/
def passOutcome (t : CtxId) (d : Dev) : Dev :=
  let c := d.ctx t
  if c.phase = .starting ∧ c.exhausted ∧ [0, 1, 2, 3].all (fun p => !(d.pool p).queue.contains t) then
    dropRun t .pitchExhausted none (some (c.suspended % 2 ^ 16)) d
  else d

/-- The pitch passes go on, and those RUN_TASKs complete that end with them; firmware makes them, so they wait while no complex
leads (R362, R412). -/
def passes (d : Dev) : Dev := if d.lease.valid then allCtx.foldl (fun d t => passOutcome t d) (poolsKick d) else d

/-- POOL_WAIT_EXPIRY (R243): the grow that waits is undone and its sequence suspended; the pass goes on. -/
def poolWaitExpiry (t : CtxId) (p : Nat) (d : Dev) : Dev :=
  match (d.pool p).queue, (d.pool p).taken with
  | q :: _, some s =>
    if q ≠ t then d
    else
      let d := setSeqFlag p s 3 true (answerReq p s .pitchExhausted d)
      passes (d.modPool p (fun z => { z with taken := none, exhausted := z.exhausted + 1 }))
  | _, _ => d

def execPoolWaitExpiry (t : CtxId) (p : PoolId) (s : State) : Res := s.upd (poolWaitExpiry t p.val)

/-- POOL_COUNT (R246): returned and cleared. -/
def poolCountRead (p : Nat) (d : Dev) : Dev :=
  let z := d.pool p
  let (a, d) := shown 16 z.drops d
  let (b, d) := shown 16 z.copies d
  let (c, d) := shown 16 z.exhausted d
  answer (a + put 16 16 b + put 32 16 c) (d.modPool p (fun z => { z with drops := 0, copies := 0, exhausted := 0 }))

def execPoolCountRead (p : PoolId) (s : State) : Res := s.upd (poolCountRead p.val)

end Sys2Proof.Machine
end

