-- ==== Sys2Proof/Machine/Codec.lean ====
section
/-! DEFINITION. The video codec units (16_video_codec.md): queues in the host tier, admission, frames into tensors, analysis
statistics, arrivals, damage and faults. The bits of the coded streams are the standards': what an engine decoded or coded in
a row comes with the command. -/

namespace Sys2Proof

/-- Bits of a stream's MODE (R389). -/
def StreamDesc.conceals (x : StreamDesc) : Bool := x.mode.getLsbD 0
def StreamDesc.bounded (x : StreamDesc) : Bool := x.mode.getLsbD 1
def StreamDesc.subframe (x : StreamDesc) : Bool := x.mode.getLsbD 2
def StreamDesc.analysis (x : StreamDesc) : Bool := x.mode.getLsbD 3

def StreamDesc.ctx (x : StreamDesc) : CtxId := ⟨x.context.toNat % 16, by omega⟩

end Sys2Proof

namespace Sys2Proof.Machine

def Dev.codec (d : Dev) (u : Nat) : Codec := Tab.get {} d.codecs u
def Dev.modCodec (d : Dev) (u : Nat) (f : Codec → Codec) : Dev := { d with codecs := Tab.mod {} d.codecs u f }
def Dev.stream (d : Dev) (u s : Nat) : CodecStream := Tab.get {} (d.codec u).streams s
def Dev.modStream (d : Dev) (u s : Nat) (f : CodecStream → CodecStream) : Dev :=
  d.modCodec u (fun c => { c with streams := Tab.mod {} c.streams s f })

/-- The unit serves its queue area (R387), over a link that carries CXL.cache (R347, R402). -/
def areaServed (d : Dev) : Bool := agreedBit d 7 && decide (queueBytes ≤ d.host.tierSize)

/-- The queue area of a unit (R387). -/
def areaOf (u : Nat) : Nat := hostBase + u * 0x100000

/-! ### Status lines and records -/

/-- Write a stream's status line (R388). -/
def statusLine (u s : Nat) (d : Dev) : Dev :=
  let x := d.stream u s
  wrBytes (areaOf u + 0x1400 + 64 * s) (leBytes 1 x.state ++ leBytes 1 x.doneSeq ++ leBytes 1 x.reqStatus ++ leBytes 1 x.stop ++
    leBytes 4 x.jobHead.toNat ++ leBytes 4 x.bsHead.toNat ++ leBytes 4 x.recTail.toNat ++ List.replicate 48 0) d

/-- The 32 bytes of a record (R390). -/
def CodecRec.image (r : CodecRec) (phase : Bool) : List Byte :=
  let l := leBytes 4 r.seq.toNat ++ leBytes 1 r.status ++ leBytes 1 (b2n r.interim + put 1 1 (b2n phase) + put 2 1 (b2n r.concealedAny)) ++
    leBytes 2 r.frames ++ leBytes 8 r.pts.toNat ++ leBytes 2 r.concealed ++ leBytes 2 r.first ++ leBytes 4 r.bytes ++ leBytes 4 r.detail
  l ++ leBytes 4 (crc32c l).toNat

/-- Write the records that find room in the ring, in order (R387, R390). -/
def flushRecs (u s : Nat) (d : Dev) : Dev :=
  let x := d.stream u s
  let room := if cacheUp d then 256 - (x.recTail - x.recHead).toNat else 0
  let out := x.recs.take room
  let d := out.zipIdx.foldl (fun d p =>
    let n := x.recTail.toNat + p.2
    wrBytes (areaOf u + 0x42000 + 0x2000 * s + 32 * (n % 256)) (p.1.image (decide (n / 256 % 2 = 0))) d) d
  statusLine u s (d.modStream u s (fun x => { x with recTail := x.recTail + BitVec.ofNat 32 out.length, recs := x.recs.drop room }))

/-- A record of the job in progress, or of a job that was not started. -/
def jobRecord (u s : Nat) (j : Job) (status : Nat) (interim : Bool) (detail : Nat) (d : Dev) : Dev :=
  let x := d.stream u s
  let r : CodecRec := {
    seq := j.seq, status := status, interim := interim, concealedAny := decide (0 < x.concealed), frames := x.frames, pts := j.pts
    concealed := x.concealed, first := x.firstConcealed, bytes := x.bytes, detail := detail }
  flushRecs u s (d.modStream u s (fun x => { x with recs := x.recs ++ [r] }))

/-- The job in progress completes. -/
def jobDone (u s status detail : Nat) (d : Dev) : Dev :=
  match (d.stream u s).job with
  | none => d
  | some j => (jobRecord u s j status false detail d).modStream u s (fun x => { x with
      job := none, frames := 0, concealed := 0, firstConcealed := 0xFFFF, bytes := 0, buf := [] })

/-- A stream stops for a reason of R388; its job completes with the given status and fault code. -/
def stopStream (u s reason status code : Nat) (d : Dev) : Dev :=
  let d := jobDone u s status (reason + 256 * code) d
  statusLine u s (d.modStream u s (fun x => { x with state := 2, stop := reason, closing := false }))

/-- The same, where no rule gives the job's status (log entry 23). -/
def stopOpen (u s reason : Nat) (d : Dev) : Dev :=
  let (g, d) := useFree 8 d
  let (c, d) := useFree 8 d
  stopStream u s reason g c d

/-- Every open stream that a test names stops (R401, R402). -/
def stopWhere (p : CodecStream → Bool) (act : Nat → Nat → Dev → Dev) (d : Dev) : Dev :=
  [0, 1, 2, 3].foldl (fun d u => (List.range 16).foldl (fun d s =>
    let x := d.stream u s
    if x.state = 1 ∧ p x then act u s d else d) d) d

/-- UNLOAD_PROGRAM of a context stops its streams with reason 9 (R402). -/
def codecUnload (t : CtxId) (d : Dev) : Dev :=
  stopWhere (fun x => match x.desc with | some y => y.ctx == t | none => false) (fun u s => stopOpen u s 9) d

/-! ### Arrivals -/

/-- An arrival of a job (R393). -/
def codecArrive (u : Nat) (t : CtxId) (tok : Nat) (step : BitVec 32) (d : Dev) : Dev :=
  let c := d.ctx t
  let ahead := match c.curStep with | none => true | some cur => decide (cur < step)
  if c.prog.isSome ∧ ahead = true then d.modCodec u (fun x => { x with held := x.held ++ [(t, tok, step)] })
  else if c.curStep = some step ∧ c.phase ≠ .idle ∧ c.phase ≠ .starting ∧ c.phase ≠ .aborting then arrive t tok d
  else d.modCodec u (fun x => { x with stale := satAdd 16 x.stale 1 })

/-- When the task of a step starts, arrivals held for it are delivered; those of lower steps have become stale (R393). -/
def codecDeliver (t : CtxId) (step : BitVec 32) (d : Dev) : Dev :=
  [0, 1, 2, 3].foldl (fun d u =>
    let mine := (d.codec u).held.filter (fun h => h.1 == t && decide (h.2.2 ≤ step))
    let d := d.modCodec u (fun x => { x with held := x.held.filter (fun h => !(h.1 == t && decide (h.2.2 ≤ step))) })
    mine.foldl (fun d h =>
      if h.2.2 = step then arrive t h.2.1 d else d.modCodec u (fun x => { x with stale := satAdd 16 x.stale 1 })) d) d

/-! ### Opening and closing -/

/-- DIR, STD, DEPTH and CHROMA, and the picture size, lie within R382. -/
def profileOk (x : StreamDesc) : Bool :=
  let w := x.width.toNat; let h := x.height.toNat
  let size := fun (a b : Nat) => decide (0 < w ∧ w ≤ a ∧ 0 < h ∧ h ≤ b)
  if x.encode then
    x.depth == 10 && ((x.std == 2 && (x.chroma == 0 || x.chroma == 2) && size 8192 4352) || (x.std == 1 && x.chroma == 0 && size 8192 4320))
  else if x.std = 0 then decide (x.depth ≤ 10) && decide (x.chroma ≤ 1) && size 4096 2304
  else if x.std = 1 then size 8192 4320
  else size 8192 4352

/-- The axis ratios of R397 lie between 1/8 and 8. -/
def ratioOk (x : StreamDesc) : Bool :=
  let turned := x.orient.getLsbD 0
  let iw := if turned then x.inH.toNat else x.inW.toNat
  let ih := if turned then x.inW.toNat else x.inH.toNat
  decide (0 < iw ∧ 0 < ih ∧ iw ≤ 8 * x.width.toNat ∧ x.width.toNat ≤ 8 * iw ∧ ih ≤ 8 * x.height.toNat ∧ x.height.toNat ≤ 8 * ih)

/-- The descriptor obeys R389. -/
def descOk (x : StreamDesc) : Bool :=
  x.checkOk && x.reservedZero && decide (x.std ≤ 2) && decide (x.prio ≤ 3) && decide (x.mode < 32) && decide (x.context < 16) &&
    (x.depth == 8 || x.depth == 10 || x.depth == 12) && decide (x.chroma ≤ 2) && profileOk x &&
    x.bsSize.toNat % 4096 == 0 && x.bsSize != 0 && decide (x.bsRing.toNat < 2 ^ 48) && decide (x.ref.toNat < 2 ^ 48) &&
    ((decide (1 ≤ x.fmt) && decide (x.fmt ≤ 4)) || (x.encode && x.fmt == 0)) && decide (x.space ≤ 2) && decide (x.matrix ≤ 3) &&
    decide (x.range ≤ 2) &&
    (!(x.analysis && x.encode)) && (!x.mode.getLsbD 4 || (!x.encode && x.std == 2)) &&
    (!(x.analysis || x.encode) || (decide (1 ≤ x.cands) && decide (x.cands ≤ 8) && decide (x.rangeX ≤ 256) && decide (x.rangeY ≤ 128))) &&
    (if x.encode then decide (x.orient ≤ 7) && decide (x.rc ≤ 2) && decide (1 ≤ x.refs) && decide (x.refs ≤ 4) && ratioOk x else true)

/-- The places that a descriptor names (R389): the bitstream ring lies in stack memory or the host tier, and the reference store is
in a stack object of CONTEXT. -/
def placesOk (d : Dev) (x : StreamDesc) : Bool :=
  isName x.bsRing.toNat && (match homeAt d x.ref.toNat with
    | some (_, h) => h.tier == 1 && h.contexts.getLsbD x.ctx.val && decide (x.ref.toNat + x.refSize.toNat ≤ h.name + h.size)
    | none => false)

/-- The load of a stream over 3,981,312,000 x 48,000 (R384). -/
def loadOf (x : StreamDesc) : Nat :=
  let k := (if x.chroma = 0 then 48 else if x.chroma = 1 then 64 else 96) * (if x.depth = 12 then 5 else 4) / 4
  let a := x.width.toNat * x.height.toNat * x.rate.toNat
  a * k * (if x.encode then 4 else 1) + (if x.analysis then 48 * a else 0)

def fullLoad : Nat := 3981312000 * 48000

/-- The bit load of a stream over 2,000,000 (R384). -/
def bitLoadOf (x : StreamDesc) : Nat := x.bitrate.toNat * (if x.encode then 5 else 2)

/-- The unit's open streams of priority 2 and 3 (R385). -/
def reservedStreams (d : Dev) (u : Nat) : List StreamDesc :=
  (List.range 16).filterMap (fun s =>
    let x := d.stream u s
    if x.state = 1 then x.desc.bind (fun y => if 2 ≤ y.prio then some y else none) else none)

/-- R385: whether a stream is admitted. -/
def admitted (d : Dev) (u : Nat) (x : StreamDesc) : Bool :=
  if x.prio < 2 then true
  else
    let l := x :: reservedStreams d u
    x.rate != 0 && decide ((l.map loadOf).foldl (· + ·) 0 ≤ fullLoad) && decide ((l.map bitLoadOf).foldl (· + ·) 0 ≤ 2000000)

/-- A request has been acted on (R388). -/
def requestDone (u s : Nat) (st : Status) (d : Dev) : Dev :=
  statusLine u s (d.modStream u s (fun x => { x with doneSeq := x.reqSeq, reqStatus := st.code }))

/-- A request of this kind waits in the host line last polled (R388). -/
def requested (d : Dev) (u s req : Nat) : Bool :=
  let x := d.stream u s
  areaServed d && cacheUp d && x.req == req && x.reqSeq != x.doneSeq

/-- CODEC_POLL (R388, R402): a host line is read. A request of REQ 0 asks nothing and is acknowledged. -/
def codecPoll (u s req reqSeq : Nat) (jobTail bsTail recHead : BitVec 32) (d : Dev) : Dev :=
  if !areaServed d ∨ !cacheUp d ∨ (d.codec u).failed then d
  else
    let d := d.modStream u s (fun x => { x with
      req := req, reqSeq := reqSeq, jobTail := jobTail, bsTail := bsTail, recHead := recHead })
    flushRecs u s d

def execCodecPoll (x : DieId) (s : StreamId) (req reqSeq : BitVec 8) (jobTail bsTail recHead : BitVec 32) (st : State) : Res :=
  st.upd (codecPoll x.val s.val req.toNat reqSeq.toNat jobTail bsTail recHead)

/-- STREAM_OPEN (R385, R389): the descriptor is checked and the stream admitted. An open slot is in use. -/
def streamOpen (u s : Nat) (x : StreamDesc) (d : Dev) : Dev :=
  if !requested d u s 1 ∨ (d.codec u).failed then d
  else if !descOk x || !placesOk d x then requestDone u s .badParam d
  else if (d.stream u s).state = 1 ∨ !admitted d u x then requestDone u s .busy d
  else
    requestDone u s .ok (d.modStream u s (fun y => { y with
      state := 1, desc := some x, stop := 0, jobHead := 0, bsHead := 0, recTail := 0, job := none, frames := 0, concealed := 0
      firstConcealed := 0xFFFF, bytes := 0, buf := [], shown := 0, noRef := true, lastOut := none, closing := false, recs := [] }))

def execStreamOpen (x : DieId) (s : StreamId) (y : StreamDesc) (st : State) : Res := st.upd (streamOpen x.val s.val y)

/-- The stream closes (R388, R389): the job in progress ends with the frame, and jobs not started complete with RETRY as they
are taken. -/
def closeNow (u s : Nat) (d : Dev) : Dev :=
  let d := jobDone u s Status.retry.code 1 d
  requestDone u s .ok (d.modStream u s (fun x => { x with state := 0, stop := 1, closing := false }))

/-- STREAM_CLOSE (R389, R402): at the end of the frame in progress. -/
def streamClose (u s : Nat) (d : Dev) : Dev :=
  if !requested d u s 2 then d
  else if (d.stream u s).job.isSome then d.modStream u s (fun x => { x with closing := true })
  else closeNow u s d

def execStreamClose (x : DieId) (s : StreamId) (st : State) : Res := st.upd (streamClose x.val s.val)

/-! ### Jobs -/

/-- The job breaks a rule of R390. -/
def jobBad (x : StreamDesc) (j : Job) : Bool :=
  !j.checkOk || !j.reservedZero || decide (4096 ≤ j.token) || j.frames == 0 || decide (1024 < j.frames) || decide (2 < j.arrive) ||
    (j.arrive == 2 && (x.encode || !x.subframe))

/-- CODEC_JOB (R390, R393): the stream's next job is taken. A unit whose held arrivals fill their room takes none whose STEP
is ahead. -/
def codecJob (u s : Nat) (j : Job) (d : Dev) : Dev :=
  let x := d.stream u s
  if !areaServed d ∨ !cacheUp d ∨ (d.codec u).failed ∨ x.jobHead = x.jobTail ∨ x.job.isSome ∨ !x.recs.isEmpty then d
  else
    let taken := d.modStream u s (fun x => { x with jobHead := x.jobHead + 1 })
    match x.state, x.desc with
    | 1, some y =>
      let ahead := match (d.ctx y.ctx).curStep with | none => true | some cur => decide (cur < j.step)
      if jobBad y j then stopStream u s 7 Status.badParam.code 0 (taken.modStream u s (fun x => { x with job := some j }))
      else if ahead = true ∧ 4096 ≤ (d.codec u).held.length then d
      else statusLine u s (taken.modStream u s (fun x => { x with job := some j }))
    | 0, some _ => jobRecord u s j Status.retry.code false x.stop taken
    | _, _ => d

def execCodecJob (x : DieId) (s : StreamId) (j : Job) (st : State) : Res := st.upd (codecJob x.val s.val j)

/-! ### Frames into tensors -/

/-- Luma scale of R391 step 1: what is subtracted and what divides. -/
def lumaNorm (b : Nat) (full : Bool) : Nat × Nat := if full then (0, 2 ^ b - 1) else (16 * 2 ^ (b - 8), 219 * 2 ^ (b - 8))
def chromaNorm (b : Nat) (full : Bool) : Nat × Nat :=
  if full then (2 ^ (b - 1), 2 ^ b - 1) else (128 * 2 ^ (b - 8), 224 * 2 ^ (b - 8))

/-- A normalised sample in FP32. -/
def normalise (p : Nat × Nat) (s : Nat) : Num := fp32 (Num.divide (.ofInt ((s : Int) - p.1)) (.ofInt p.2))

/-- The sample of a plane of `w` columns. -/
def planeAt (l : List Nat) (w y x : Nat) : Nat := l.getD (y * w + x) 0

/-- Along one axis: the two chroma positions around luma position `x` and the weight of the second in quarters, for a plane
subsampled by two with its samples `loc` half luma samples along. -/
def chromaPos (x loc : Nat) : Int × Int := (((2 * x : Int) - loc) / 4, ((2 * x : Int) - loc) % 4)

/-- A chroma value at a luma position (R391 step 2). Next to an edge, where the interpolation would need a sample outside the
plane, the value is open. -/
def chromaAt (f : Picture) (plane : List Nat) (full : Bool) (y x : Nat) (d : Dev) : Num × Dev :=
  let n := chromaNorm f.depth full
  if f.chroma = 2 then (normalise n (planeAt plane f.width y x), d)
  else
    let cw := ceilDiv f.width 2
    let ch := if f.chroma = 0 then ceilDiv f.height 2 else f.height
    let (lx, ly) := f.loc.getD (0, 1)
    let (x0, fx) := chromaPos x lx
    let (y0, fy) := if f.chroma = 0 then chromaPos y ly else ((y : Int), 0)
    let pts : List (Int × Int × Int) := [(y0, x0, (4 - fy) * (4 - fx)), (y0, x0 + 1, (4 - fy) * fx), (y0 + 1, x0, fy * (4 - fx)), (y0 + 1, x0 + 1, fy * fx)].filter
      (fun (p : Int × Int × Int) => p.2.2 != 0)
    if pts.any (fun p => decide (p.1 < 0) || decide ((ch : Int) ≤ p.1) || decide (p.2.1 < 0) || decide ((cw : Int) ≤ p.2.1)) then
      let (g, d) := useFree 32 d
      (Fmt.fp32.decode g, d)
    else
      (fp32 (Num.mul (.fin false 1 (-4)) (pts.foldl (fun acc p =>
        Num.add acc (Num.mul (.ofInt p.2.2) (normalise n (planeAt plane cw p.1.toNat p.2.1.toNat)))) .zero)), d)

/-- Ten-thousandths of the red and blue luma weights of a MATRIX (R389). -/
def lumaWeights (m : Nat) : Nat × Nat := if m = 1 then (2990, 1140) else if m = 3 then (2627, 593) else (2126, 722)

/-- R'G'B' of a luma and two chroma values (R391 step 3), each rounded once. -/
def toRgb (m : Nat) (y cb cr : Num) : List Num :=
  let (r, b) := lumaWeights m
  let g := 10000 - r - b
  let i := fun (n : Nat) => Num.ofInt n
  let q := fun (n : Num) (k : Nat) => fp32 (Num.divide n (i k))
  [ q (Num.add (Num.mul (i 10000) y) (Num.mul (i (2 * (10000 - r))) cr)) 10000,
    q (Num.sub (Num.mul (i (10000 * g)) y) (Num.add (Num.mul (i (2 * b * (10000 - b))) cb) (Num.mul (i (2 * r * (10000 - r))) cr))) (10000 * g),
    q (Num.add (Num.mul (i 10000) y) (Num.mul (i (2 * (10000 - b))) cb)) 10000 ]

/-- The crop window of a frame: X, Y, W, H (R389). -/
def cropOf (x : StreamDesc) (f : Picture) : Nat × Nat × Nat × Nat :=
  let c := fun i => (x.crop.getD i 0).toNat
  if c 2 = 0 then (0, 0, f.width, f.height) else (c 0, c 1, c 2, c 3)

/-- The channels of one position (R391 steps 1 to 3). -/
def channelsAt (x : StreamDesc) (f : Picture) (y w : Nat) (d : Dev) : List Num × Dev :=
  let full := if x.range = 0 then f.fullRange else x.range == 2
  let m := if x.matrix = 0 then (if f.matrix = 0 then 2 else f.matrix) else x.matrix.toNat
  let l := normalise (lumaNorm f.depth full) (planeAt (f.planes.getD 0 []) f.width y w)
  if x.space = 2 then ([l], d)
  else
    let (cb, d) := chromaAt f (f.planes.getD 1 []) full y w d
    let (cr, d) := chromaAt f (f.planes.getD 2 []) full y w d
    (if x.space = 1 then toRgb m l cb cr else [l, cb, cr], d)

/-- The tensor elements of a frame: address and bytes, channel by channel (R391 step 4, R203). -/
def frameWrites (x : StreamDesc) (f : Picture) (data t : Nat) (d : Dev) : List (Int × List Byte) × Dev :=
  let (cx, cy, cw, ch) := cropOf x f
  let fmt := (Fmt.ofCode x.fmt.toNat).getD .bf16
  let pos := (List.range ch).flatMap (fun h => (List.range cw).map (fun w => (h, w)))
  let (l, d) := pos.foldl (fun (acc : List (Nat × Nat × List Num) × Dev) p =>
    let (v, d) := channelsAt x f (cy + p.1) (cx + p.2) acc.2
    (acc.1 ++ [(p.1, p.2, v)], d)) ([], d)
  let n := if x.space = 2 then 1 else 3
  ((List.range n).flatMap (fun c => l.map (fun q =>
    let v := Num.add (Num.mul (q.2.2.getD c .zero) (ofBits (x.gain.getD c 0).toNat)) (ofBits (x.bias.getD c 0).toNat)
    let off := (c : Int) * x.cs.toInt + (t : Int) * x.ts.toInt + (q.1 : Int) * x.hs.toInt + q.2.1
    ((data : Int) + off * (fmt.bits / 8 : Nat), leBytes (fmt.bits / 8) (fmt.encode true (fp32 v))))), d)

/-- The check of R392 on a byte: checks 2, 3, 6 and 7 of R125, with the code that the record's detail carries. -/
def codecCheck (d : Dev) (t : CtxId) (first : Nat) (a : Int) : Option (Status × Nat) :=
  match ptCheck false true (d.ctx t).theProg d ((homeAt d first).map Prod.fst) 0 a with
  | none => none
  | some (.overflow r _ _) => some (.resourceOverflow, r)
  | some (.pfault c _) => some (.prefetchFault, c)
  | some _ => some (.prefetchFault, 1)

/-- Make a unit's writes in order up to the first that fails (R392). -/
def codecWrites (t : CtxId) (first : Nat) : List (Int × List Byte) → Dev → Option (Status × Nat) × Dev
  | [], d => (none, d)
  | (a, l) :: r, d =>
    match (List.range l.length).findSome? (fun i => codecCheck d t first (a + (i : Nat))) with
    | some z => (some z, d)
    | none => codecWrites t first r (hubWr a.toNat l d)

/-! ### Analysis statistics -/

/-- Parity of the bits of a number below 8. -/
def parity3 (n : Nat) : Bool := (bit n 0).xor ((bit n 1).xor (bit n 2))

/-- The absolute 8 x 8 Hadamard coefficients other than DC of a block, summed (R394). -/
def hadamard (s : Nat → Nat → Nat) : Nat :=
  ((List.range 64).map (fun c =>
    if c = 0 then 0
    else ((List.range 64).foldl (fun (acc : Int) i =>
      let v : Int := s (i / 8) (i % 8)
      if (parity3 ((c / 8) &&& (i / 8))).xor (parity3 ((c % 8) &&& (i % 8))) then acc - v else acc + v) 0).natAbs)).foldl (· + ·) 0

/-- The complexity figure of the 64 x 64 block at (by, bx) of the crop window (R394). -/
def complexity (x : StreamDesc) (f : Picture) (by_ bx : Nat) : Nat :=
  let (cx, cy, cw, ch) := cropOf x f
  let s := fun (y w : Nat) => planeAt (f.planes.getD 0 []) f.width (cy + min y (ch - 1)) (cx + min w (cw - 1))
  ((List.range 64).map (fun b => hadamard (fun i j => s (64 * by_ + 8 * (b / 8) + i) (64 * bx + 8 * (b % 8) + j)))).foldl (· + ·) 0 /
    2 ^ (f.depth - 8)

/-- Bytes of a statistics record (R395). -/
def statBytes (x : StreamDesc) (f : Picture) : Nat :=
  let (_, _, cw, ch) := cropOf x f
  roundUp (64 + 8 * (ceilDiv ch 16 * ceilDiv cw 16) + 4 * (ceilDiv ch 64 * ceilDiv cw 64)) 64

/-- The statistics record of a frame (R394, R395). The vectors and SADs depend on an interpolation that no rule gives: open
values; a frame without a reference has zero vectors. -/
def statRecord (x : StreamDesc) (f : Picture) (frame : Nat) (pts : BitVec 64) (noRef concealed : Bool) (d : Dev) : List Byte × Dev :=
  let (_, _, cw, ch) := cropOf x f
  let (rows, cols) := (ceilDiv ch 16, ceilDiv cw 16)
  let (cr, cc) := (ceilDiv ch 64, ceilDiv cw 64)
  let h := leBytes 4 0x54534356 ++ leBytes 4 frame ++ leBytes 8 pts.toNat ++ leBytes 2 rows ++ leBytes 2 cols ++ leBytes 2 cr ++
    leBytes 2 cc ++ leBytes 1 (b2n noRef + put 1 1 (b2n concealed)) ++ List.replicate 35 0
  let (vs, d) := (List.range (rows * cols)).foldl (fun (acc : List Byte × Dev) i =>
    let (g, d) := useFree 48 acc.2
    let (c, d) := if concealed then useFree 1 d else (0, d)
    let part := decide (ch < 16 * (i / cols + 1)) || decide (cw < 16 * (i % cols + 1))
    (acc.1 ++ leBytes 4 (if noRef then 0 else g % 2 ^ 32) ++ leBytes 2 (g / 2 ^ 32) ++ leBytes 2 (b2n part + put 1 1 c), d)) ([], d)
  let xs := (List.range (cr * cc)).flatMap (fun i => leBytes 4 (complexity x f (i / cc) (i % cc)))
  let l := h ++ leBytes 4 (crc32c h).toNat ++ vs ++ xs
  (slice l 0 (statBytes x f), d)

/-! ### Rows -/

/-- A frame is out: counts, arrivals, and the job's end with its last frame (R390, R393, R398). -/
def frameOut (u s : Nat) (x : StreamDesc) (j : Job) (bands : Nat) (concealed : Bool) (d : Dev) : Dev :=
  let d := d.modCodec u (fun c => { c with
    frames := satAdd 24 c.frames 1, concealed := satAdd 16 c.concealed (b2n concealed) })
  let t := (d.stream u s).frames
  let d := d.modStream u s (fun y => { y with
    frames := y.frames + 1, shown := y.shown + 1, noRef := concealed, concealed := y.concealed + b2n concealed
    firstConcealed := if concealed && y.firstConcealed == 0xFFFF then t else y.firstConcealed })
  let last := decide (j.frames.toNat ≤ t + 1)
  let n := if j.arrive = 0 then 1 else if j.arrive = 2 then bands else if last then 1 else 0
  let d := (List.range n).foldl (fun d _ => codecArrive u x.ctx (field j.token.toNat 11 0) j.step d) d
  let d := if last then jobDone u s 0 0 d else d
  if (d.stream u s).closing then closeNow u s d else statusLine u s d

/-- A decoded frame is converted, written with its statistics, and out (R391, R392, R394). -/
def writeFrame (u s : Nat) (x : StreamDesc) (j : Job) (f : Picture) (concealed : Bool) (d : Dev) : Dev :=
  let y := d.stream u s
  let (ws, d) := frameWrites x f j.data.toNat y.frames d
  let (z, d) := codecWrites x.ctx j.data.toNat ws d
  let (z, d) := match z with
    | some z => (some z, d)
    | none =>
      if x.analysis then
        let (l, d) := statRecord x f y.shown j.pts y.noRef concealed d
        codecWrites x.ctx j.stats.toNat [((j.stats.toNat + y.frames * statBytes x f : Nat), l)] d
      else (none, d)
  let d := d.modStream u s (fun q => { q with lastOut := some f })
  match z with
  | some (st, code) => stopStream u s 7 st.code code d
  | none => let (_, _, _, ch) := cropOf x f; frameOut u s x j (ceilDiv ch 64) concealed d

/-- A frame that stands for one that could not be decoded: the previous output frame, or the mid level where there is none
(R399). -/
def standIn (x : StreamDesc) (y : CodecStream) : Picture :=
  match y.lastOut with
  | some f => f
  | none =>
    let w := x.width.toNat; let h := x.height.toNat
    { width := w, height := h, depth := x.depth.toNat, chroma := 2, loc := none, fullRange := false, matrix := 0
      planes := List.replicate 3 (List.replicate (w * h) (2 ^ (x.depth.toNat - 1))) }

/-- A picture is given up: shown as its stand-in under CONCEAL, otherwise the stream stops (R399, R400). -/
def giveUp (u s reason : Nat) (x : StreamDesc) (j : Job) (d : Dev) : Dev :=
  let d := if reason = 3 then d.modCodec u (fun c => { c with abandoned := satAdd 8 c.abandoned 1 }) else d
  if x.conceals then writeFrame u s x j (standIn x (d.stream u s)) true d else stopOpen u s reason d

/-- A picture larger than the descriptor, or outside its DEPTH or CHROMA (R399). -/
def beyond (x : StreamDesc) (f : Picture) : Bool :=
  decide (x.width.toNat < f.width) || decide (x.height.toNat < f.height) || f.depth != x.depth.toNat || f.chroma != x.chroma.toNat

/-- Coded bytes go into the bitstream ring (R392, R398). -/
def appendCoded (u s : Nat) (x : StreamDesc) (l : List Byte) (d : Dev) : Option (Status × Nat) × Dev :=
  let y := d.stream u s
  let ws := l.zipIdx.map (fun p => (((x.bsRing.toNat + (y.bsHead.toNat + p.2) % x.bsSize.toNat : Nat) : Int), [p.1]))
  let (z, d) := codecWrites x.ctx x.bsRing.toNat ws d
  (z, if z.isNone then d.modStream u s (fun y => { y with
      bsHead := y.bsHead + BitVec.ofNat 32 l.length, bytes := y.bytes + l.length }) else d)

/-- Coded bytes of a row or picture (R398): with SUBFRAME each row is appended with an INTERIM record. -/
def codedRow (u s : Nat) (x : StreamDesc) (j : Job) (bytes : List Byte) (pictureEnd : Bool) (d : Dev) : Dev :=
  let y := d.stream u s
  let l := y.buf ++ bytes
  if !x.subframe ∧ !pictureEnd then d.modStream u s (fun y => { y with buf := l })
  else
    let (z, d) := appendCoded u s x l (d.modStream u s (fun y => { y with buf := [] }))
    match z with
    | some (st, code) => stopStream u s 7 st.code code d
    | none =>
      let d := if x.subframe then jobRecord u s j 0 true 0 d else d
      if pictureEnd then frameOut u s x j 1 false d else statusLine u s d

/-- CODEC_FAULT (R403). -/
def codecFault (d : Dev) (u : Nat) : Nat := min (d.codec u).retries 255 + put 8 1 (b2n (d.codec u).failed)

/-- A check mismatch: the row runs again; a second within MX_FAIL_WINDOW takes the unit out of service (R401). Its error record names
the die (R452; DESIGN CHOICE, log entry 7). -/
def codecMismatch (u : Nat) (d : Dev) : Dev :=
  let again := match (d.codec u).mismatchAt with | some w => decide (d.wall ≤ w + failWindow d) | none => false
  let d := d.modCodec u (fun c => { c with retries := satAdd 8 c.retries 1, mismatchAt := some d.wall, failed := c.failed || again })
  let d := errReport { cls := 0, level := 3, action := if again then 15 else 1, status := if again then Status.internal.code else 0
                       loc := errLoc u 0 none, detail := codecFault d u, die := some u } d
  if again then
    let d := raiseEvent (328 + u) (codecFault d u) d
    (List.range 16).foldl (fun d s => if (d.stream u s).state = 1 then stopStream u s 10 Status.internal.code 0 d else d) d
  else d

/-- Streams ready for an engine: open, with a job in progress (R386). -/
def readyStreams (d : Dev) (u : Nat) : List Nat := which 16 (fun s => (d.stream u s).state == 1 && (d.stream u s).job.isSome)

/-- The engine takes the ready stream of highest priority, the least recently run among equals (R386). -/
def pickStream (d : Dev) (u : Nat) (pixel : Bool) : Option Nat :=
  let c := d.codec u
  let prio : Nat → Nat := fun s => match (d.stream u s).desc with | some x => x.prio.toNat | none => (0 : Nat)
  let ran : Nat → Nat := fun s => Tab.get 0 (if pixel then c.ranPixel else c.ranEntropy) s
  (readyStreams d u).foldl (fun (acc : Option Nat) s => match acc with
    | none => some s
    | some b => if decide (prio b < prio s) || (prio b == prio s && decide (ran s < ran b)) then some s else acc) none

/-- At a row boundary the engine switches (R386). -/
def nextRow (u s : Nat) (pixel : Bool) (d : Dev) : Dev :=
  let d := d.modCodec u (fun c =>
    let n := c.turns + 1
    if pixel then { c with turns := n, ranPixel := Tab.set 0 c.ranPixel s n } else { c with turns := n, ranEntropy := Tab.set 0 c.ranEntropy s n })
  let next := pickStream d u pixel
  d.modCodec u (fun c => if pixel then { c with pixel := next } else { c with entropy := next })

/-- What a finished row brings. -/
def rowResult (u s : Nat) (x : StreamDesc) (j : Job) (r : RowResult) (d : Dev) : Dev :=
  match r with
  | .partialRow => d
  | .frame f concealed =>
    if x.encode then d else if beyond x f then giveUp u s 5 x j d else writeFrame u s x j f concealed d
  | .coded bytes pictureEnd => if x.encode then codedRow u s x j bytes pictureEnd d else d
  | .stop reason =>
    match reason.val with
    | 2 => if x.conceals then d else stopOpen u s 2 d
    | 3 => if x.bounded then giveUp u s 3 x j d else d
    | 5 => giveUp u s 5 x j d
    | 8 => let (c, d) := useFree 8 d; stopStream u s 8 Status.prefetchFault.code c d
    | 4 => stopOpen u s 4 d
    | 6 => stopOpen u s 6 d
    | 7 => stopOpen u s 7 d
    | _ => d
  | .mismatch => d

/-- The elements of frame `t` of an encode job's input tensor (R391, R397). -/
def inputElems (x : StreamDesc) (data t : Nat) : List Int :=
  let b := ((Fmt.ofCode x.fmt.toNat).getD .bf16).bits / 8
  (List.range (if x.space = 2 then 1 else 3)).flatMap (fun c => (List.range x.inH.toNat).flatMap (fun h => (List.range x.inW.toNat).map (fun w =>
    (data : Int) + ((c : Int) * x.cs.toInt + (t : Int) * x.ts.toInt + (h : Int) * x.hs.toInt + w) * (b : Nat))))

/-- What a row reads (R392), and the operand's first address: the bitstream bytes that a decoded row consumed, or the input frame of
coded bytes. -/
def rowReads (x : StreamDesc) (y : CodecStream) (j : Job) (consumed : Nat) (r : RowResult) : List Int × Nat :=
  if !x.encode then
    ((List.range consumed).map (fun i => ((x.bsRing.toNat + (y.bsHead.toNat + i) % x.bsSize.toNat : Nat) : Int)), x.bsRing.toNat)
  else match r with
    | .coded _ _ => (inputElems x j.data.toNat y.frames, j.data.toNat)
    | _ => ([], 0)

/-- The first of a row's reads that fails: the reason that the stream stops for, the job's status and the code of its detail; a read
that the host link fails has a reason of its own (R392, R402). -/
def readsStop (d : Dev) (x : StreamDesc) (l : List Int × Nat) : Option (Nat × Status × Nat) :=
  l.1.findSome? (fun a => (codecCheck d x.ctx l.2 a).map (fun z => (if z.1 = .prefetchFault ∧ z.2 = 2 then 8 else 7, z.1, z.2)))

/-- Coded bytes find room in the ring, and consumed bytes stand in it (R390: the unit waits for the host). -/
def ringRoom (x : StreamDesc) (y : CodecStream) (consumed : Nat) (r : RowResult) : Bool :=
  if !x.encode then decide (consumed ≤ (y.bsTail - y.bsHead).toNat)
  else match r with
    | .coded bytes _ => decide ((y.bsHead - y.bsTail).toNat + y.buf.length + bytes.length ≤ x.bsSize.toNat)
    | _ => true

/-- The engine works on a row of another stream, which has not stopped or closed meanwhile (R386). -/
def engineTaken (d : Dev) (u s : Nat) (now : Option Nat) : Bool :=
  match now with
  | some n => n != s && (readyStreams d u).contains n
  | none => false

/-- CODEC_ROW_DONE (R386): an engine finishes a row of a stream, having consumed bytes of the bitstream. After a check mismatch the row
is not finished; it runs again (R401). -/
def codecRowDone (u s : Nat) (pixel : Bool) (consumed : Nat) (r : RowResult) (d : Dev) : Dev :=
  let y := d.stream u s
  let c := d.codec u
  let now := if pixel then c.pixel else c.entropy
  match y.desc, y.job with
  | some x, some j =>
    if y.state ≠ 1 ∨ c.failed ∨ engineTaken d u s now ∨ !ringRoom x y consumed r then d
    else if r = .mismatch then codecMismatch u d
    else match readsStop d x (rowReads x y j consumed r) with
    | some (reason, st, code) => nextRow u s pixel (stopStream u s reason st.code code d)
    | none =>
      let d := if x.encode then d else d.modStream u s (fun y => { y with
        bsHead := y.bsHead + BitVec.ofNat 32 consumed, bytes := y.bytes + consumed })
      nextRow u s pixel (rowResult u s x j r d)
  | _, _ => d

def execCodecRowDone (x : DieId) (s : StreamId) (pixel : Bool) (consumed : Nat) (r : RowResult) (st : State) : Res :=
  st.upd (codecRowDone x.val s.val pixel consumed r)

/-- PICTURE_TIME_LIMIT (R400): only under BOUNDED. -/
def pictureTimeLimit (u s : Nat) (d : Dev) : Dev :=
  match (d.stream u s).desc, (d.stream u s).job with
  | some x, some j => if (d.stream u s).state = 1 ∧ x.bounded then giveUp u s 3 x j d else d
  | _, _ => d

def execPictureTimeLimit (x : DieId) (s : StreamId) (st : State) : Res := st.upd (pictureTimeLimit x.val s.val)

/-- CODEC_COUNT (R403): returned and cleared. -/
def codecCountRead (u : Nat) (d : Dev) : Dev :=
  let c := d.codec u
  answer (c.frames % 2 ^ 24 + put 24 16 c.concealed + put 40 16 c.stale + put 56 8 c.abandoned)
    (d.modCodec u (fun c => { c with frames := 0, concealed := 0, stale := 0, abandoned := 0 }))

def execCodecCountRead (x : DieId) (s : State) : Res := s.upd (codecCountRead x.val)

/-- CODEC_STATUS (R403). -/
def codecStatus (d : Dev) (u : Nat) : Nat :=
  let l := reservedStreams d u
  let c := d.codec u
  let open_ := (which 16 (fun s => (d.stream u s).state == 1)).length
  let frac := fun (a b : Nat) => min 1023 (a * 1024 / b)
  (if c.failed then 2 else if open_ = 0 then 0 else 1) + put 2 1 (b2n (areaServed d)) + put 3 5 open_ +
    put 8 10 (frac ((l.map loadOf).foldl (· + ·) 0) fullLoad) + put 18 10 (frac ((l.map bitLoadOf).foldl (· + ·) 0) 2000000) +
    put 28 13 c.held.length

end Sys2Proof.Machine
end

