-- ==== Sys2Proof/Machine/Run.lean ====
section
/-! DEFINITION. RUN_TASK and STEP_REPLAY up to a task's first bundle (15_host_commands.md R366 to R369; 08_activation_economy.md
R190, R191, R194, R195; 04_formats_accumulation.md R104 to R106). -/

namespace Sys2Proof.Machine

/-! ### Step inputs -/

/-- A home descriptor in the form that is hashed (R278, R285): NAME, SIZE and NUMBER, every other byte zero. -/
def hashForm (h : Home) : List Byte :=
  leBytes 8 h.name ++ leBytes 8 h.size ++ List.replicate 18 0 ++ leBytes 2 h.number ++ List.replicate 12 0

/-- The hash of an input in stack memory (R191): its descriptor, and the CRC-32C of its 4 KiB blocks in name order. -/
def inputHash (d : Dev) (h : Home) : BitVec 256 :=
  sha3 (hashForm h ++ (List.range (h.size / 4096)).flatMap (fun b =>
    leBytes 4 (crc32c ((List.range 4096).map (fun i => rdByte d (h.addr (4096 * b + i))))).toNat))

/-- An input as the step record has it: handle, size, hash; zero where it is not hashed (R191). -/
def inputEntry (d : Dev) (handle : Nat) : (Nat × Nat × BitVec 256) × Bool :=
  let h := d.home (field handle 15 0)
  if d.cfg.hashEn ∧ h.tier = 1 then ((handle, h.size, inputHash d h), false) else ((handle, h.size, 0), true)

/-- Bytes that a step-record address must name (R190). -/
def recordBytes : Nat := 135168

/-- The address names enough of a stack or host-tier object (R190). -/
def recordFits (d : Dev) (a : Nat) : Bool :=
  isName a && (match homeAt d a with
    | some (_, h) => h.tier != 0 && decide (a + recordBytes ≤ h.name + h.size)
    | none => false)

/-! ### RUN_TASK -/

/-- The fault captures are cleared at RUN_TASK (R128, R290): the registers are a slot's and a core's, not a task's; an adder bank's
is cleared by its own context (R346). -/
def clearCaptures (t : CtxId) (d : Dev) : Dev :=
  { d with banks := Tab.mapAll {} d.banks (fun (b : Bank2) => { b with fault := b.fault.filter (fun f => f.2.2.2 != t.val) })
           loopFaults := [], cores := Tab.mapAll {} d.cores (fun (c : Core) => { c with porterFault := none }) }

/-- Pools that a context is attached to (R231, R246). -/
def poolsOf (d : Dev) (t : CtxId) : List Nat := which 4 (fun p => (d.pool p).attach.getLsbD t.val)

/-- A RUN_TASK's parameters are accepted: inputs are hashed and the pitch passes are queued (R191, R238, R367). DARK_VALID
clears (R466). -/
def acceptRun (t : CtxId) (p : RunParams) (d : Dev) : Dev :=
  let es := p.inputs.map (fun h => inputEntry d h.toNat)
  let d := clearCaptures t { d with pwr := { d.pwr with darkValid := false } }
  let d := d.modCtx t (fun c => { c with
    phase := .starting, run := some p, srep := none, inputs := es.map Prod.fst, unhashed := es.any Prod.snd, suspended := 0
    exhausted := false, hostAbort := false, ckptCount := 0 })
  passes ((poolsOf d t).foldl (fun d q => d.modPool q (fun z => { z with queue := z.queue ++ [t] })) d)

/-- A RUN_TASK has a part that firmware executes: input hashes or pitch passes (R362). -/
def runNeedsFirmware (d : Dev) (t : CtxId) (p : RunParams) : Bool :=
  (d.cfg.hashEn && !p.inputs.isEmpty) || !(poolsOf d t).isEmpty

/-- RUN_TASK (R367): the part of firmware waits while none serves (R412, R414). -/
def runTask (t : CtxId) (p : RunParams) (d : Dev) : Dev :=
  if !executing d (taskTill t) 0x0102 ∨ (d.ctx t).phase ≠ .idle then d
  else if (d.ctx t).prog.isNone then finish (taskTill t) .badParam (some 0x00020001) none d
  else if p.record ≠ 0 ∧ !agreedBit d 1 then finish (taskTill t) .notNegotiated none none d
  else if p.record ≠ 0 ∧ !recordFits d p.record.toNat then finish (taskTill t) .badParam none none d
  else match (List.range p.inputs.length).find? (fun i => (handleOk d (p.inputs.getD i 0).toNat).isNone) with
    | some i => finish (taskTill t) .badParam (some (0x00020100 + i)) none d
    | none => if runNeedsFirmware d t p && !firmwareServes d then d else acceptRun t p d

def execRunTask (t : CtxId) (p : RunParams) (s : State) : Res := s.upd (runTask t p)

/-! ### STEP_REPLAY -/

/-- Fields of a step record (R190). -/
def recInputs (l : List Byte) : Nat := leAt l 128 2
def recTallies (l : List Byte) : Nat := leAt l 130 2
def recScales (l : List Byte) : Nat := leAt l 132 2
def recLength (l : List Byte) : Nat := 288 + 48 * recInputs l + 16 * recTallies l + 64 * recScales l
def recInput (l : List Byte) (i : Nat) : List Byte := slice l (256 + 48 * i) 48
def recTally (l : List Byte) (i : Nat) : List Byte := slice l (256 + 48 * recInputs l + 16 * i) 16
def recScalesPart (l : List Byte) : List Byte := slice l (256 + 48 * recInputs l + 16 * recTallies l) (64 * recScales l)

/-- Check 1 of R195. -/
def recordValid (l : List Byte) : Bool :=
  let n := leAt l 136 4
  leAt l 0 4 == 0x52435453 && leAt l 4 2 == 1 && decide (recInputs l ≤ 64) && decide (recTallies l ≤ 4096) &&
    decide (recScales l ≤ 1023) && n == recLength l && decide (n ≤ l.length) &&
    slice l (n - 32) 32 == leBytes 32 (sha3 (l.take (n - 32))).toNat

/-- The first input whose recomputed hash differs (R195 check 4); the descriptor is found by its index, since a move changes
only the handle's GEN (R285). -/
def inputMismatch (d : Dev) (l : List Byte) : Option Nat :=
  (List.range (recInputs l)).find? (fun i =>
    let e := recInput l i
    !zerosAt e 16 32 && (let h := d.home (leAt e 0 2); !h.valid || slice e 16 32 != leBytes 32 (inputHash d h).toNat))

/-- The bytes of the record that RECORD names, up to its LENGTH and no more than a record has (R190, R194). -/
def recordAt (d : Dev) (a : Nat) : List Byte := hubRd d a (max 288 (min recordBytes (leAt (hubRd d (a + 136) 4) 0 4)))

/-- The tap entries that TAP_LIST names (R194, R198). -/
def tapsAt (d : Dev) (p : ReplayParams) : List (List Byte) :=
  (List.range p.taps.toNat).map (fun i => hubRd d (p.tapList.toNat + 32 * i) 32)

/-- The parameters with which a recorded step runs again (R194). The record holds no SCALARS: S1 to S31 are open values. -/
def replayRun (p : ReplayParams) (rec_ : List Byte) (d : Dev) : RunParams × Dev :=
  let (sc, d) := (List.range 31).foldl (fun (acc : List (BitVec 32) × Dev) _ =>
    let (g, d) := useFree 32 acc.2
    (acc.1 ++ [BitVec.ofNat 32 g], d)) ([], d)
  ({ step := BitVec.ofNat 32 (leAt rec_ 8 4), wdog := p.wdog, seed := BitVec.ofNat 64 (leAt rec_ 16 8), record := p.outRecord
     scalars := sc, inputs := (List.range (recInputs rec_)).map (fun i => BitVec.ofNat 64 (leAt (recInput rec_ i) 0 8)) }, d)

/-- A step is replayed: its context starts from the record (R194, R244). -/
def acceptReplay (t : CtxId) (p : ReplayParams) (rec_ : List Byte) (d : Dev) : Dev :=
  let taps := tapsAt d p
  let (r, d) := replayRun p rec_ d
  let es := (List.range (recInputs rec_)).map (fun i =>
    let e := recInput rec_ i
    (leAt e 0 8, leAt e 8 8, BitVec.ofNat 256 (leAt e 16 32)))
  let d := clearCaptures t d
  let d := { d with replayStat := { d.replayStat with task := t.val, running := true } }
  d.modCtx t (fun c => { c with
    phase := .starting, run := some r, inputs := es, unhashed := es.any (fun e => e.2.2 == 0), suspended := 0, exhausted := false
    hostAbort := false, ckptCount := 0
    srep := some { fabric := p.scope == 1, record := rec_, outRecord := p.outRecord, taps := taps
                   seen := taps.map (fun _ => 0), used := taps.map (fun _ => 0) } })

/-- STEP_REPLAY (R194, R195, R244): the record is checked, and the step is started without a pitch pass. A reserved SCOPE and more
than 64 taps are refused with BAD_PARAM and no detail word of their own (DESIGN CHOICE, log entry 51). -/
def stepReplay (t : CtxId) (p : ReplayParams) (d : Dev) : Dev :=
  let bad := fun (n : Nat) => finish (taskTill t) .badParam (some n) none d
  if !executing d (taskTill t) 0x0104 ∨ (d.ctx t).phase ≠ .idle then d
  else if 1 < p.scope.toNat ∨ 64 < p.taps.toNat then finish (taskTill t) .badParam none none d
  else
    let l := recordAt d p.record.toNat
    if !recordValid l then bad 1
    else if (d.ctx t).prog.isNone ∨ slice l 24 32 ≠ leBytes 32 (d.ctx t).theProg.digest.toNat then bad 2
    else if p.scope = 1 ∧ leAt l 56 8 ≠ (ctxEpoch d t).toNat then bad 3
    else match inputMismatch d l with
      | some i => finish (taskTill t) .checksumMismatch (some i) none d
      | none =>
        if p.outRecord ≠ 0 ∧ !recordFits d p.outRecord.toNat then finish (taskTill t) .badParam none none d
        else acceptReplay t p l d

def execStepReplay (t : CtxId) (p : ReplayParams) (s : State) : Res := s.upd (stepReplay t p)

/-! ### The first bundle -/

/-- The base registers at the first bundle (R280): an object's NAME, or for a spread object its quarter on the slot's die. -/
def initialBases (d : Dev) (t : CtxId) : Tab (BitVec 48) :=
  let p := (d.ctx t).theProg
  let l := p.objects
  (List.range (l.length / 16)).foldl (fun m i =>
    let r := field (leAt l (16 * i + 12) 1) 5 0
    if leAt l (16 * i + 10) 1 = 1 then (List.range 128).foldl (fun m k => Tab.set 0 m (64 * k + r) (p.names.getD i 0)) m
    else
      let hs := objectHomes d t.val (leAt l (16 * i + 8) 2)
      (List.range 128).foldl (fun m k =>
        let h := match hs.find? (fun p => p.2.spread && p.2.die == k / 32) with | some p => some p.2 | none => hs.head?.map Prod.snd
        match h with
        | some h => Tab.set 0 m (64 * k + r) (BitVec.ofNat 48 h.name)
        | none => m) m) []

/-- A slot's state at the start of a task: banks empty, no unit open, no count, the barrow empty (R97, R103, R155, R506). -/
def CtxSlot.fresh (s : CtxSlot) : CtxSlot := { bar := s.bar.discarded }

/-- A task's state at its first bundle (R49, R105, R280, R367). -/
def startCtx (d : Dev) (t : CtxId) (r : RunParams) (running : Bool) (c : Ctx) : Ctx :=
  { c with
    phase := if running then .running else .ready, pc := 0, issuePc := 0
    scal := Tab.setMany 0 [] 1 (r.scalars.take 31), loops := [], masks := [], bases := initialBases d t, tokens := [], taken := false
    bellWait := none, bellDone := false, bellNo := 0, bellWaited := 0, wdog := r.wdog.toNat, snaps := [], sinceCkpt := 0
    quantumAt := d.wall, issues := 0, ended := false, saved := false, abort := none, stopDue := false, hostAbort := false
    slots := Tab.mapAll {} c.slots CtxSlot.fresh, fmap := taskMap c, step := r.step, seed := r.seed, record := r.record
    curStep := some r.step, recovered := false, sliced := false, run := none }

/-- The task's first bundle may issue: the input hashes and pitch passes are done, the steward has finished with the previous
step (R108), and no test has the package (R376). -/
def canStart (d : Dev) (t : CtxId) : Bool :=
  let testing := match d.host.test with | some j => j.running && j.window | none => false
  (d.ctx t).phase == .starting && [0, 1, 2, 3].all (fun p => !(d.pool p).queue.contains t) && (d.ctx t).stewardDue.isNone && !testing &&
    d.pwr.asleep == 0 && d.pwr.shutter == 0 && d.pwr.dieDown.all (fun (p : Nat × Bool) => !p.2)

/-- TASK_START (R49, R53, R60, R304, R367, R393): the counters are zeroed, scalars and bases are loaded, held packets and
arrivals are delivered, and the start counts as a checkpoint bell. A RUN_TASK that was aborted meanwhile never issues
(R369). It runs at once where no task runs and none is ready; otherwise it is ready, and TASK_SWITCH takes the ready tasks in
turn (R60). -/
def taskStart (t : CtxId) (d : Dev) : Dev :=
  if !canStart d t then d
  else if (d.ctx t).hostAbort then
    dropRun t .ok none (some ((d.ctx t).suspended % 2 ^ 16 + 2 ^ 16)) d
  else match (d.ctx t).run with
    | none => d
    | some r =>
      let first := d.seq.running.isNone && d.seq.preempt == .none && allCtx.all (fun u => (d.ctx u).phase != .ready)
      let d := d.modCtx t (startCtx d t r first)
      let d := if first then { d with seq := { d.seq with running := some t, mode := .issuing, lastRun := t.val, preemptPending := false, issued := [] } } else d
      let d := d.modRed t (fun x => { x with runs := [], armed := [] })
      let d := codecDeliver t r.step (deliverHeld t r.step (checkpoint t d))
      if first then adoptDue t d else d

def execTaskStart (t : CtxId) (s : State) : Res := s.upd (taskStart t)

/-! ### Unloading -/

/-- Free a context's program, shares, hints, unshared objects and pools (R231, R366, R402). -/
def unload (t : CtxId) (d : Dev) : Dev :=
  let d := releaseHomes t (codecUnload t d)
  let d := { d with pools := Tab.modMany {} d.pools [0, 1, 2, 3] (fun _ (z : Pool) =>
    let a := z.attach &&& ~~~(BitVec.ofNat 16 (2 ^ t.val))
    if a = 0 then {} else { z with attach := a }) }
  d.modCtx t (fun c => { lastRecorded := c.lastRecorded, ckptCount := c.ckptCount, lastCkpt := c.lastCkpt })

/-- UNLOAD_PROGRAM (R366). -/
def unloadProgram (t : CtxId) (d : Dev) : Dev :=
  if !executing d (taskTill t) 0x0101 then d
  else if (d.ctx t).phase ≠ .idle then finish (taskTill t) .busy none none d
  else if (d.ctx t).prog.isNone then finish (taskTill t) .ok none none d
  else finish (taskTill t) .ok none none (mirror (unload t d))

def execUnloadProgram (t : CtxId) (s : State) : Res := s.upd (unloadProgram t)

end Sys2Proof.Machine
end

