-- ==== Sys2Proof/Machine/Endings.lean ====
section
/-! DEFINITION. The end of a task: step records, TASK_END, CONTEXT_FREE, the format steward and run health, the stop and the
dumps of a STEP_REPLAY (02_bundle_stream.md R36, R64; 04_formats_accumulation.md R104 to R109; 08_activation_economy.md R190 to
R200; 15_host_commands.md R368, R369). -/

namespace Sys2Proof.Machine

/-! ### STEP_REPLAY -/

/-- Whether the merged scales records equal the recorded ones (R197). -/
def recordsMatch (c : Ctx) (r : StepRep) (aborted : Bool) : Bool := (scaleRecords c aborted).flatten == recScalesPart r.record

/-- Whether every compared tally equals the recorded one (R196, R197): under LOCAL the role-0 tallies of what was formed, under
FABRIC all of both roles. -/
def talliesMatch (d : Dev) (t : CtxId) (r : StepRep) : Bool :=
  let old := (List.range (recTallies r.record)).map (recTally r.record)
  let new := tallyEntries d t
  if r.fabric then new == old else (new.filter (fun e => leAt e 4 1 == 0)).all (fun e => old.contains e)

/-- Write the segments of one dump in ascending slot; one that would pass MAX_BYTES less 32 is not written and stops the tap
(R199). -/
def writeDump (t : CtxId) (x : TapDump) (d : Dev) : Dev :=
  let segs : List (Nat × List Byte) := x.segments
  segs.foldl (fun d p =>
    match (d.ctx t).srep with
    | none => d
    | some r =>
      let tap := r.taps.getD x.tap []
      let u := r.used.getD x.tap 0
      if p.2.isEmpty ∨ r.stopped.contains x.tap then d
      else if leAt tap 16 8 < u + p.2.length + 32 then
        modRep t (fun r => { r with stopped := r.stopped ++ [x.tap], truncated := true }) d
      else
        modRep t (fun r => { r with used := r.used.set x.tap (u + p.2.length) }) (hubWr (leAt tap 8 8 + u) p.2 d)) d

/-- The dumps of the operations that have completed land (R199, R200). -/
def landDumps (t : CtxId) (d : Dev) : Dev :=
  match (d.ctx t).srep with
  | none => d
  | some r =>
    (r.dumps.filter (tapReady d t)).foldl (fun d x => writeDump t x d)
      (modRep t (fun r => { r with dumps := r.dumps.filter (fun x => !tapReady d t x) }) d)

/-- A replay ends or aborts: what has been captured lands, and each tap's dump gets its trailer (R199). -/
def closeTaps (t : CtxId) (d : Dev) : Dev :=
  let d := landDumps t d
  match (d.ctx t).srep with
  | none => d
  | some r => (r.taps.zipIdx).foldl (fun d p =>
      let u := r.used.getD p.2 0
      if u + 32 ≤ leAt p.1 16 8 then hubWr (leAt p.1 8 8 + u) (tapTrailer p.2 (r.stopped.contains p.2)) d else d) d

/-- The tap trailers (R199), the result word and REPLAY_STATUS of a replay that ran (R197, R201). -/
def closeReplay (t : CtxId) (d : Dev) : (Nat × Nat) × Dev :=
  let d := closeTaps t d
  let c := d.ctx t
  match c.srep with
  | none => ((0, 0), d)
  | some r =>
    let a := recordsMatch c r false
    let b := talliesMatch d t r
    let pc := r.stopPc.getD c.issuePc
    let d := { d with replayStat := {
      pc := pc, task := t.val, running := false, recordsMatch := a, talliesMatch := b, stoppedEarly := r.stopPc.isSome } }
    ((b2n a + put 1 1 (b2n b) + put 2 1 (b2n r.stopPc.isSome) + put 3 1 (b2n r.truncated), pc), d)

/-- REPLAY_STOP (R196): a LOCAL replay stops at a bell that names a token only a reduction raises; everything issued before
completes, as at END. -/
def replayStop (t : CtxId) (d : Dev) : Dev :=
  let c := d.ctx t
  match c.srep, c.bellWait with
  | some r, some b =>
    let only := fun (tok : Nat) => (redTokens c.theProg).contains tok && !(ptTokens c.theProg).contains tok
    if !r.fabric ∧ d.seq.running = some t ∧ (bellWaits b).any (fun p => only p.1) then
      let d := modRep t (fun r => { r with stopPc := some c.issuePc }) (d.modCtx t (fun c => { c with ended := true, bellWait := none }))
      { d with seq := { d.seq with mode := .issuing, ckptHold := false } }
    else d
  | _, _ => d

def execReplayStop (t : CtxId) (s : State) : Res := s.upd (replayStop t)

/-- TAP_DUMP_LANDED (R199, R200): the dumps of the operations that have completed land, and the schedule clock goes on. -/
def tapDumpLanded (t : CtxId) (d : Dev) : Dev :=
  if (d.ctx t).srep.isNone then d
  else
    let d := landDumps t d
    if d.seq.tapHold then
      { d with seq := { d.seq with
          tapHold := false
          mode := if d.seq.mode = .hold ∧ d.seq.late = [] ∧ !d.seq.ckptHold ∧ d.ptHeld.isNone ∧ d.seq.replay.isNone then .issuing
            else d.seq.mode } }
    else d

def execTapDumpLanded (t : CtxId) (s : State) : Res := s.upd (tapDumpLanded t)

/-! ### TASK_END and CONTEXT_FREE -/

/-- The result word of a RUN_TASK (R368). -/
def runResult (c : Ctx) (hostAbort : Bool) : Nat := c.suspended % 2 ^ 16 + put 16 1 (b2n hostAbort)

/-- Host-tier writes of the task that are not acknowledged (R288). -/
def hostWritesDone (c : Ctx) : Bool := c.slots.all (fun p => p.2.bar.armed.all (·.acked))

/-- The sequencers have no running task (R60). -/
def stopRunning (t : CtxId) (d : Dev) : Dev :=
  if d.seq.running = some t then
    { d with seq := { d.seq with
      running := none, mode := .idle, preemptPending := false, late := [], ptHold := false, ckptHold := false, tapHold := false
      preempt := (match d.seq.preempt with | .saved u => .saved u | _ => .none) } }
  else d

/-- The task is over: its context is idle, its barrows are discarded with the moves they had started (R165), and what waited for it
goes on (R241, R243, R342). -/
def closeTask (t : CtxId) (d : Dev) : Dev :=
  let d := if (d.ctx t).srep.isSome then { d with replayStat := { d.replayStat with running := false } } else d
  let d := stopRunning t (closeReductions t d)
  let d := { d with cores := Tab.mapAll {} d.cores (fun (c : Core) =>
    if c.entries.any (fun (p : Nat × Entry) => p.2.own ≠ 0 && p.2.ctx == t.val) then
      { c with entries := Tab.mapAll {} c.entries (fun (e : Entry) => if e.own ≠ 0 ∧ e.ctx = t.val then e.freed else e) }
    else c) }
  let d := pruneIntent { d with drains := d.drains.filter (fun x => x.was.ctx ≠ t.val) }
  (leavePools t d).modCtx t (fun c => { c with
    slots := Tab.mapAll {} c.slots (fun s => if s.bar.winUnits = 0 then s else { s with bar := s.bar.discarded })
    phase := .idle, run := none, srep := none, suspended := 0, exhausted := false, hostAbort := false, abort := none, bellWait := none })

/-- A task has reached END and everything it issued has completed, landed and been acknowledged (R36, R288). -/
def atEnd (d : Dev) (t : CtxId) : Bool :=
  let c := d.ctx t
  let dumps := match c.srep with | some r => !r.dumps.any (tapReady d t) | none => true
  d.seq.running == some t && c.phase == .running && c.ended && c.abort.isNone && d.seq.replay.isNone && enginesIdle d t &&
    (opsOf d t).isEmpty && hostWritesDone c && dumps

/-- TASK_END (R36, R190, R197, R368): the step record, then the completion record; a STEP_REPLAY reports its comparison. -/
def taskEnd (t : CtxId) (d : Dev) : Dev :=
  if !atEnd d t then d
  else
    let c := d.ctx t
    let d := writeRecords t false .ok d
    let d := match c.srep with
      | some _ =>
        let (w, d) := closeReplay t d
        finish (taskTill t) .ok (some w.2) (some w.1) d
      | none => finish (taskTill t) .ok none (some (runResult c false)) d
    passes (finishAbort t false (closeTask t d))

def execTaskEnd (t : CtxId) (s : State) : Res := s.upd (taskEnd t)

/-- An aborted task's engines are idle and its cancellation is complete (R64, R287, R288); a pre-emption of it has been
saved (R63). -/
def canFree (d : Dev) (t : CtxId) : Bool :=
  let c := d.ctx t
  let draining := match d.seq.preempt with | .draining u => u == t | _ => false
  c.phase == .aborting && !draining && enginesIdle d t && (opsOf d t).isEmpty && hostWritesDone c &&
    (d.cores : List (Nat × Core)).all (fun p => p.2.cancelling != some t)

/-- CONTEXT_FREE (R64, R190, R368, R369): the step record, then the completion record with the abort's status, or OK with
HOST_ABORT; the context and its stream-buffer space are free. -/
def contextFree (t : CtxId) (d : Dev) : Dev :=
  if !canFree d t then d
  else
    let c := d.ctx t
    let st := match c.abort with | some a => a.1 | none => .ok
    let detail := c.abort.map Prod.snd
    let d := writeRecords t true st d
    let due := (d.ctx t).stewardDue
    let d := finish (taskTill t) st detail (some (runResult c c.hostAbort)) d
    let d := if c.srep.isSome then
        let d := closeTaps t d
        { d with replayStat := { d.replayStat with pc := c.issuePc, running := false, recordsMatch := false, talliesMatch := false
                                                   stoppedEarly := false } }
      else d
    let d := finishAbort t c.hostAbort (closeTask t d)
    let d := match d.seq.replay with
      | some r => if r.ctx = t then { d with seq := { d.seq with replay := none } } else d
      | none => d
    passes ((mirror (unload t d)).modCtx t (fun c => { c with stewardDue := due }))

def execContextFree (t : CtxId) (s : State) : Res := s.upd (contextFree t)

/-! ### The format steward -/

/-- Fields of a policy entry (R106). -/
def polTag (e : BitVec 128) : Nat := field e.toNat 15 0
def polMode (e : BitVec 128) : Nat := field e.toNat 23 16
def polPlanned (e : BitVec 128) : Nat := field e.toNat 31 24
def polAllowed (e : BitVec 128) : Nat := field e.toNat 47 32
def polCode (e : BitVec 128) : Nat := field e.toNat 51 48
def polBlk16 (e : BitVec 128) : Bool := bit e.toNat 52
def polAfter (e : BitVec 128) : Nat := field e.toNat 63 56
def polOvf (e : BitVec 128) : Nat := field e.toNat 79 64
def polFlush (e : BitVec 128) : Nat := field e.toNat 95 80
def polStreak (e : BitVec 128) : Nat := field e.toNat 103 96

/-- Replace bits [hi:lo] of an entry. -/
def polSet (e : BitVec 128) (hi lo v : Nat) : BitVec 128 :=
  BitVec.ofNat 128 (e.toNat - field e.toNat hi lo * 2 ^ lo + put lo (hi + 1 - lo) v)

/-- The steered format codes in the order of PREFERENCE (R105, R107), each with its width and its candidate index (R102). -/
def preference : List (Nat × Nat × Nat) := [(7, 4, 4), (6, 6, 3), (5, 6, 2), (3, 8, 1), (4, 8, 0), (1, 16, 5)]

/-- Width of a steered code; none for another code. -/
def steeredWidth (code : Nat) : Option Nat := (preference.find? (fun f => f.1 == code)).map (fun f => f.2.1)

/-- An entry obeys R106; one of all zeros is unused and not checked. -/
def policyOk (e : BitVec 128) : Bool :=
  e == 0 ||
    (match steeredWidth (polPlanned e), steeredWidth (polCode e) with
     | some p, some c =>
       (which 16 (bit (polAllowed e))).all (fun n => match steeredWidth n with | some w => decide (w ≤ p) | none => false) &&
         bit (polAllowed e) (polPlanned e) && decide (c ≤ p) && bit (polAllowed e) (polCode e) && !(polCode e == 1 && polBlk16 e)
     | _, _ => false)

/-- The format that R107 chooses from a record. Where the widest allowed formats are two of one width, which of them is taken
is open. -/
def stewardCand (e : BitVec 128) (ovfMax flushMax : Nat) (r : List Byte) (d : Dev) : (Nat × Nat) × Dev :=
  let ok := preference.filter (fun f => bit (polAllowed e) f.1)
  match ok.find? (fun f => decide (leAt r (24 + 2 * f.2.2) 2 ≤ ovfMax) && decide (leAt r (36 + 2 * f.2.2) 2 ≤ flushMax)) with
  | some f => ((f.1, f.2.1), d)
  | none =>
    let w := (ok.map (fun f => f.2.1)).foldl max 0
    match ok.filter (fun f => f.2.1 == w) with
    | [] => ((polCode e, 0), d)
    | [f] => ((f.1, f.2.1), d)
    | f :: g :: _ =>
      let (x, d) := useFree 1 d
      let h := if x = 0 then f else g
      ((h.1, h.2.1), d)

/-- What the steward did with an entry: widened (`some true`), narrowed (`some false`) or neither. -/
def stewardEntry (d : Dev) (recs : List (List Byte)) (e : BitVec 128) : (BitVec 128 × Option Bool) × Dev :=
  if !d.cfg.stewardEnable ∨ (polMode e ≠ 1 ∧ polMode e ≠ 3) then ((e, none), d)
  else match recs.find? (fun r => leAt r 0 2 == polTag e) with
    | none => ((e, none), d)
    | some r =>
      if bit (leAt r 3 1) 3 then ((e, none), d)
      else
        let own := decide (polMode e = 3)
        let (f, d) := stewardCand e (if own then polOvf e else d.cfg.ovfDefault.toNat)
          (if own then polFlush e else d.cfg.flushDefault.toNat) r d
        let cur := (steeredWidth (polCode e)).getD 0
        let after := if own then polAfter e else d.cfg.narrowDefault.toNat
        let take := polSet (polSet e 51 48 f.1) 103 96 0
        if cur < f.2 then ((take, some true), d)
        else if f.2 < cur then
          let n := polStreak e + 1
          if after ≤ n then ((take, some false), d) else ((polSet e 103 96 n, none), d)
        else ((take, none), d)

/-- The pass over a context's 64 entries, with the tags whose entries were widened and narrowed (R107). -/
def stewardEntries (t : CtxId) (recs : List (List Byte)) (d : Dev) : (List Nat × List Nat) × Dev :=
  (List.range 64).foldl (fun acc i =>
    let e := Tab.get 0 (acc.2.ctx t).policy i
    let (x, d) := stewardEntry acc.2 recs e
    let d := d.modCtx t (fun c => { c with policy := Tab.set 0 c.policy i x.1 })
    match x.2 with
    | some true => ((acc.1.1 ++ [polTag e], acc.1.2), d)
    | some false => ((acc.1.1, acc.1.2 ++ [polTag e]), d)
    | none => (acc.1, d)) (([], []), d)

/-- RUN_HEALTH of a tag after a step (R192): the update where the step has a record of the tag, and what the next step's event
needs (R193). -/
def healthEntry (step : BitVec 32) (r : Option (List Byte)) (widened narrowed : Bool) (h : Health) : Health :=
  match r with
  | none => { h with flags := 0, streak := 0 }
  | some r =>
    let f := leAt r 3 1
    { steps := satAdd 32 h.steps 1, lastStep := step, nanSteps := satAdd 8 h.nanSteps (b2n (bit f 0))
      infSteps := satAdd 8 h.infSteps (b2n (bit f 1)), satSteps := satAdd 16 h.satSteps (b2n (bit f 2))
      widened := satAdd 16 h.widened (b2n widened), narrowed := satAdd 16 h.narrowed (b2n narrowed)
      flags := f, streak := if widened then h.streak + 1 else 0 }

/-- Update one tag and raise its run-health events: a NaN or infinity that the previous step's record did not have, and the
eighth step in a row in which the tag was widened (R193). -/
def healthTag (t : CtxId) (step : BitVec 32) (recs : List (List Byte)) (wn : List Nat × List Nat) (tag : Nat) (d : Dev) : Dev :=
  let key := 1024 * t.val + tag
  let old := Tab.get {} d.health key
  let new := healthEntry step (recs.find? (fun r => leAt r 0 2 == tag)) (wn.1.contains tag) (wn.2.contains tag) old
  let d := { d with health := Tab.set {} d.health key new }
  if !d.cfg.healthEvt then d
  else
    let d := if field new.flags 1 0 ≠ 0 ∧ field old.flags 1 0 = 0 then raiseEvent (48 + t.val) tag d else d
    if new.streak = 8 then raiseEvent (48 + t.val) (tag + 1024) d else d

/-- STEWARD_PASS (R107, R108, R192, R193): the pass, then the host's writes that came meanwhile, then run health. -/
def stewardPass (t : CtxId) (d : Dev) : Dev :=
  match (d.ctx t).stewardDue with
  | none => d
  | some (step, recs) =>
    let (wn, d) := stewardEntries t recs d
    let d := d.modCtx t (fun c => { c with
      policy := c.policyHeld.foldl (fun m p => Tab.set 0 m p.1 p.2) c.policy, policyHeld := [], stewardDue := none })
    let d := { d with stewardStep := step, stewardTask := t.val }
    let live := (d.health.filter (fun p => p.1 / 1024 == t.val && (p.2.flags != 0 || p.2.streak != 0))).map (fun p => p.1 % 1024)
    mirror (((recs.map (fun r => leAt r 0 2)) ++ live).dedup.mergeSort.foldl (fun d tag => healthTag t step recs wn tag d) d)

def execStewardPass (t : CtxId) (s : State) : Res := s.upd (stewardPass t)

/-- A steered operand of the program names entry `i` (R106). -/
def namesEntry (p : Prog) (i : Nat) : Bool :=
  p.descs.any (fun x => [x.fa, x.fb, x.fc, x.fp].any (fun w => w.steered && w.mapIndex == i))

/-- An entry as a write stores it (R106): PLANNED and STREAK are read only, the reserved bits are zero. -/
def policyMerge (old new : BitVec 128) : BitVec 128 :=
  if new = 0 then 0
  else polSet (polSet (polSet (polSet new 127 104 0) 103 96 (polStreak old)) 55 53 0) 31 24 (polPlanned old)

/-- POLICY_ENTRY_WRITE (R106, R108): a refused write is ignored and logged; one during a steward's pass takes effect after
it. -/
def policyEntryWrite (src : Source) (t : CtxId) (i : Nat) (entry : BitVec 128) (d : Dev) : Dev :=
  hubWrite src (fun d =>
    let c := d.ctx t
    let e := policyMerge (Tab.get 0 c.policy i) entry
    if !policyOk e ∨ (e = 0 ∧ namesEntry c.theProg i) ∨ ((polMode e = 1 ∨ polMode e = 3) ∧ !agreedBit d 12) then logIgnored d
    else if c.stewardDue.isSome then d.modCtx t (fun c => { c with policyHeld := c.policyHeld ++ [(i, e)] })
    else d.modCtx t (fun c => { c with policy := Tab.set 0 c.policy i e })) d

def execPolicyEntryWrite (src : Source) (t : CtxId) (i : Fin 64) (entry : BitVec 128) (s : State) : Res :=
  s.upd (policyEntryWrite src t i.val entry)

end Sys2Proof.Machine
end

