-- ==== Sys2Proof/Machine/Tills.lean ====
section
/-! DEFINITION. Tills and the host link (15_host_commands.md R347 to R362, R369 to R372, R381; 21_security.md R488). -/

namespace Sys2Proof.Machine

def Dev.modHost (d : Dev) (f : HostIf → HostIf) : Dev := { d with host := f d.host }

/-- The device writes host memory with CXL.io. -/
def hostWrite (a : BitVec 64) (l : List Byte) (d : Dev) : Dev := d.modHost (fun h => { h with writes := h.writes ++ [(a.toNat, l)] })

/-! ### Packets -/

/-- The header bytes that CHECK covers (R356). -/
def packetHeader (k : Packet) : List Byte :=
  leBytes 2 k.opcode.toNat ++ leBytes 2 k.flags.toNat ++ leBytes 4 k.seq.toNat ++ leBytes 2 k.paramLen.toNat ++
    leBytes 6 k.rsv10.toNat ++ leBytes 8 k.tag.toNat ++ leBytes 36 k.rsv24.toNat

/-- Ring units of a packet (R355). -/
def packetUnits (k : Packet) : Nat := 1 + ceilDiv k.paramLen.toNat 64

/-- A row of the opcode map (R362): opcode, whether it is a task opcode, the feature bit, the parameter size, and the reserved
ranges of the parameters as offset and length. -/
structure OpRow where
  code : Nat
  task : Bool
  feature : Option Nat
  size : Nat
  reserved : List (Nat × Nat)

def opMap : List OpRow :=
  [⟨0x0001, false, none, 24, [(2, 6)]⟩, ⟨0x0002, false, none, 16, [(2, 6)]⟩, ⟨0x0003, false, none, 32, []⟩,
   ⟨0x0010, false, some 8, 16, [(10, 6)]⟩, ⟨0x0011, false, some 8, 8, [(5, 3)]⟩, ⟨0x0012, false, some 4, 16, [(1, 7)]⟩,
   ⟨0x0020, false, none, 8, [(1, 1), (4, 4)]⟩, ⟨0x0021, false, some 9, 8, [(3, 5)]⟩, ⟨0x0022, false, some 9, 8, [(2, 6)]⟩,
   ⟨0x0030, false, some 10, 48, []⟩, ⟨0x0031, false, some 10, 8, [(4, 4)]⟩, ⟨0x0032, false, none, 8, [(1, 7)]⟩,
   ⟨0x0100, true, none, 48, []⟩, ⟨0x0101, true, none, 0, []⟩, ⟨0x0102, true, none, 160, [(26, 6), (156, 4)]⟩,
   ⟨0x0103, true, none, 0, []⟩, ⟨0x0104, true, some 1, 32, [(11, 1)]⟩]

/-- Check 6 of R357. -/
def paramsOk (r : OpRow) (k : Packet) : Bool :=
  let n := if r.code = 0x0102 then 160 + 8 * leAt k.params 24 2 else r.size
  k.paramLen.toNat == n && k.params.length == n && (r.code != 0x0102 || decide (leAt k.params 24 2 ≤ 64)) &&
    r.reserved.all (fun q => zerosAt k.params q.1 q.2)

/-- The first failing check of R357, with its status and detail word. -/
def packetFault (d : Dev) (n : TillId) (k : Packet) : Option (Status × Option Nat) :=
  if crc32c (packetHeader k ++ k.params) ≠ k.check then some (.badParam, some 0x00010001)
  else if k.seq ≠ (d.till n).expectSeq then some (.badParam, some 0x00010002)
  else if field k.flags.toNat 15 1 ≠ 0 ∨ k.rsv10 ≠ 0 ∨ k.rsv24 ≠ 0 then some (.badParam, some 0x00010003)
  else match opMap.find? (fun r => r.code == k.opcode.toNat && r.task == decide (n.val < 16)) with
    | none => some (.badOpcode, none)
    | some r =>
      let free := decide (r.code = 1 ∨ r.code = 2)
      if (!d.host.negotiated && !free) || (match r.feature with | some b => !agreedBit d b | none => false) then
        some (.notNegotiated, none)
      else if !paramsOk r k then some (.badParam, some 0x00010004)
      else none

/-- The till has taken a packet from its ring: the head moves past it, and the next SEQ is expected (R357). -/
def takeUnits (n : TillId) (k : Packet) (d : Dev) : Dev :=
  d.modTill n (fun x => { x with head := x.head + BitVec.ofNat 32 (packetUnits k), expectSeq := k.seq + 1 })

/-- The completion ring has room for a record (R360). -/
def cplRoom (x : Till) : Bool := decide ((x.cplTail - x.cplHead).toNat < 2 ^ x.cplLog2.toNat) && x.held.isEmpty

/-- The 32 bytes of a completion record (R359). -/
def cplBytes (r : CplRec) : List Byte :=
  let b := leBytes 8 r.tag.toNat ++ leBytes 4 r.seq.toNat ++ leBytes 2 r.opcode.toNat ++ leBytes 1 r.status.code ++
    leBytes 1 (b2n r.interim + put 1 1 (b2n r.phase)) ++ leBytes 4 r.detail.toNat ++ leBytes 4 r.result.toNat ++ leBytes 4 r.elapsed.toNat
  b ++ leBytes 4 (crc32c b).toNat

/-- The writes to host memory that a till's records are since it was enabled: each at the next place of its completion ring, round
the ring (R359, R360, R381). -/
def cplWrites (x : Till) : List (Nat × List Byte) :=
  x.records.mapIdx (fun i r => (x.cplBase.toNat * 32 + 32 * (i % 2 ^ x.cplLog2.toNat), cplBytes r))

/-- A till may take its next packet (R355, R358, R360, R471); the management till is the leading complex's, and takes none while a
repair that was cut short is not resolved (R361, R404, R412). -/
def canTake (d : Dev) (n : TillId) : Bool :=
  let x := d.till n
  x.enable && !x.closing && x.cur.isNone && x.aborts.isEmpty && x.head != x.tail && cplRoom x && cxlIo d && d.shape.published &&
    d.pwr.asleep == 0 && (n != mgmtTill || (d.lease.valid && !d.repair.cut))

/-- An ABORT_TASK acts (R63, R64, R289, R369): a running, pre-empted or starting task is aborted; its record follows the
task's. A replay, or the drain and save of a pre-emption, completes first. -/
def abortNow (t : CtxId) (k : Packet) (d : Dev) : Dev :=
  let n := taskTill t
  let c := d.ctx t
  let wait := d.modTill n (fun x => { x with aborts := x.aborts ++ [k] })
  let mark := wait.modCtx t (fun c => { c with hostAbort := true })
  match c.phase with
  | .idle => record n k d.wall false .ok none (some 0) d
  | .starting => mark
  | .aborting => wait
  | .ready => stopIssue t (mark.modCtx t (fun c => { c with saved := false }))
  | .running =>
    let draining : Bool := match d.seq.preempt with | .draining u => u == t | _ => false
    if c.ended then wait
    else if d.seq.replay.isSome ∨ draining then mark
    else stopIssue t (mark.modCtx t (fun c => { c with saved := false }))

/-- ABORT_TASK (R358, R369): it acts once TAIL has passed it; the packets before it that have not started complete with
RETRY, then its own record falls due. One that fails a check of R357 is left to be taken in its turn. -/
def abortTaskCmd (t : CtxId) (earlier : List Packet) (k : Packet) (d : Dev) : Dev :=
  let n := taskTill t
  let x := d.till n
  let e := earlier.foldl (fun d p => takeUnits n p d) d
  let need := BitVec.ofNat 32 (((earlier ++ [k]).map packetUnits).foldl (· + ·) 0)
  if !x.enable ∨ x.closing ∨ (x.tail - x.head).toNat < need.toNat ∨ k.opcode ≠ 0x0103 ∨ (packetFault e n k).isSome ∨ !d.shape.published then d
  else
    let d := earlier.foldl (fun d p => record n p d.wall false .retry none none d) d
    abortNow t k (takeUnits n k (earlier.foldl (fun d p => takeUnits n p d) d))

def execAbortTask (t : CtxId) (earlier : List Packet) (k : Packet) (s : State) : Res := s.upd (abortTaskCmd t earlier k)

/-- PACKET_TAKE (R357, R358): an idle till takes its next packet and checks it; one that passes begins to execute. -/
def packetTake (n : TillId) (k : Packet) (d : Dev) : Dev :=
  if !canTake d n then d
  else
    let f := packetFault d n k
    let d := takeUnits n k d
    match f with
    | some f => record n k d.wall false f.1 f.2 none d
    | none =>
      if k.opcode = 0x0103 then (if h : n.val < 16 then abortNow ⟨n.val, h⟩ k d else d)
      else d.modTill n (fun x => { x with cur := some k, curAt := d.wall, deferred := false })

def execPacketTake (n : TillId) (k : Packet) (s : State) : Res := s.upd (packetTake n k)

/-- TILL_DOORBELL (R381): BAR2 is never gated (R372). -/
def execTillDoorbell (n : TillId) (tail : BitVec 32) (s : State) : Res :=
  s.upd (fun d => d.modTill n (fun x => { x with tail := tail }))

/-- Setting ENABLE resets the pointers and the expected SEQ; a write while ENABLE = 1 is ignored and logged (R381). -/
def tillEnable (n : TillId) (base : BitVec 36) (log2 : BitVec 5) (d : Dev) : Dev :=
  if (d.till n).enable then logIgnored d
  else d.modTill n (fun x => { x with
    enable := true, base := base, log2 := log2, tail := 0, head := 0, cplHead := 0, cplTail := 0, expectSeq := 0, records := [] })

def execTillEnable (n : TillId) (base : BitVec 36) (log2 : BitVec 5) (s : State) : Res := s.upd (tillEnable n base log2)

/-- CPL_HEAD_ADVANCE (R360, R381): records that waited for room are written. -/
def cplHeadAdvance (n : TillId) (head : BitVec 32) (d : Dev) : Dev :=
  let up := cxlIo d
  d.modTill n (fun x => flushHeld up { x with cplHead := head })

def execCplHeadAdvance (n : TillId) (head : BitVec 32) (s : State) : Res := s.upd (cplHeadAdvance n head)

/-- TILL_STATE of a till (R381). -/
def tillState (x : Till) : Nat :=
  let st := if !x.enable then 0
    else if x.cur.isSome then (if x.deferred then 3 else 2)
    else if !x.aborts.isEmpty then 2
    else if !cplRoom x then 4 else 1
  let op := match x.cur with | some k => k.opcode.toNat | none => if x.aborts.isEmpty then 0 else 0x0103
  st + put 16 16 op + put 32 32 x.expectSeq.toNat

/-! ### HAGGLE and HOST_MAP -/

/-- IMPLEMENTED on B1 (R371). -/
def implemented : BitVec 64 := 0x3FFF

/-- Version of the leading complex's firmware. -/
def leadVersion (d : Dev) : BitVec 32 := (d.crier (if d.lease.holderB then 2 else 0)).version

/-- Some context holds a program. -/
def anyProgram (d : Dev) : Bool := allCtx.any (fun t => (d.ctx t).prog.isSome)

/-- HAGGLE (R370 to R372). -/
def haggle (version : BitVec 16) (features reply : BitVec 64) (d : Dev) : Dev :=
  if !executing d mgmtTill 0x0001 then d
  else if field version.toNat 15 8 ≠ 1 then finish mgmtTill .badParam (some 1) none d
  else if d.host.negotiated ∧ anyProgram d then finish mgmtTill .busy none none d
  else
    let a := features &&& implemented
    let d := d.modHost (fun h => { h with negotiated := true, agreed := a })
    let body := leBytes 2 0x0100 ++ leBytes 2 0 ++ leBytes 4 (leadVersion d).toNat ++ leBytes 8 a.toNat ++
      leBytes 8 implemented.toNat ++ leBytes 8 0
    mirror (finish mgmtTill .ok none (some (a.toNat % 2 ^ 32)) (hostWrite reply body d))

def execHaggle (version : BitVec 16) (features reply : BitVec 64) (s : State) : Res := s.upd (haggle version features reply)

/-- A field of HOST_MAP breaks its rule (R354). -/
def mapBroken (tierOffset tierSize winName winSize : Nat) : Bool :=
  tierOffset % 4096 != 0 || decide (2 ^ 48 ≤ tierOffset) || tierSize % 65536 != 0 || decide (2 ^ 47 < tierSize) ||
    winSize % 2 ^ 28 != 0 || decide (2 ^ 36 < winSize) ||
    (winSize != 0 && (winName % 2 ^ 28 != 0 || decide (winName < stackBase) || decide (0x11000000000 < winName + winSize)))

/-- The conditions under which a new mapping is BUSY (R354). -/
def mapBusy (d : Dev) (tierOffset tierSize winName winSize : Nat) : Bool :=
  let tier := tierOffset != d.host.tierOffset.toNat || tierSize != d.host.tierSize
  let win := winSize != d.host.winSize || (winSize != 0 && winName != d.host.winName.toNat)
  (tier && (liveHomes d).any (fun p => p.2.tier == 2)) || ((tier || win) && allCtx.any (fun t => (d.ctx t).started))

/-- Set the host tier and the window. -/
def setMap (tierOffset tierSize winName winSize : Nat) (d : Dev) : Dev :=
  d.modHost (fun h => { h with
    tierOffset := BitVec.ofNat 48 tierOffset, tierSize := tierSize, winSize := winSize
    winName := if winSize = 0 then h.winName else BitVec.ofNat 48 winName })

/-- HOST_MAP (R354). -/
def hostMap (tierOffset tierSize winName winSize : Nat) (d : Dev) : Dev :=
  if !executing d mgmtTill 0x0003 then d
  else if (tierSize ≠ 0 ∧ !agreedBit d 2) ∨ (winSize ≠ 0 ∧ !agreedBit d 3) then finish mgmtTill .notNegotiated none none d
  else if mapBroken tierOffset tierSize winName winSize then finish mgmtTill .badParam none none d
  else if mapBusy d tierOffset tierSize winName winSize then finish mgmtTill .busy none none d
  else mirror (finish mgmtTill .ok none none (setMap tierOffset tierSize winName winSize d))

def execHostMap (tierOffset tierSize winName winSize : BitVec 64) (s : State) : Res :=
  s.upd (hostMap tierOffset.toNat tierSize.toNat winName.toNat winSize.toNat)

/-! ### The CXL link and the window -/

/-- CXL.mem is carried, and the window has a size: the host has committed its decoder to that size. -/
def memUp (d : Dev) : Bool := decide (2 ≤ d.host.rate) && decide (d.host.winSize ≠ 0)

/-- CXL_LINK_DOWN (R348): the link is down, or at 2.5 GT/s. -/
def cxlLinkDown (slow : Bool) (d : Dev) : Dev := d.modHost (fun h => { h with rate := if slow then 1 else 0 })

def execCxlLinkDown (slow : Bool) (s : State) : Res := s.upd (cxlLinkDown slow)

/-- CXL_LINK_UP (R347, R348): the link has trained; the held records are written in order. A training after the publication
of the shape table is a retrain. -/
def cxlLinkUp (rate : BitVec 3) (width : BitVec 5) (d : Dev) : Dev :=
  if rate.toNat = 0 ∨ 5 < rate.toNat then d
  else
    let d := d.modHost (fun h => { h with rate := rate.toNat, width := width.toNat
                                          retrains := h.retrains + b2n d.shape.published })
    { d with tills := Tab.mapAll {} d.tills (flushHeld true) }

def execCxlLinkUp (rate : BitVec 3) (width : BitVec 5) (s : State) : Res := s.upd (cxlLinkUp rate width)

/-- HOST_LINK (R379): returned, and RETRAINS cleared. -/
def hostLinkRead (d : Dev) : Dev :=
  let h := d.host
  let (n, d) := shown 32 h.retrains d
  answer (h.rate + put 3 5 h.width + put 8 1 (b2n (h.rate == 5)) + put 9 1 (b2n (decide (2 ≤ h.rate))) + put 10 1 (b2n (memUp d)) +
    put 32 32 n) (d.modHost (fun h => { h with retrains := 0 }))

def execHostLinkRead (s : State) : Res := s.upd hostLinkRead

/-- CXL_SNOOP (R351): answered with RspIHitI; the device holds no host line. -/
def execCxlSnoop (s : State) : Res := s.upd (fun d => d.modHost (fun h => { h with snoops := h.snoops + 1 }))

/-- The names of a window access, where the window serves it. -/
def windowNames (d : Dev) (x n : Nat) : List Nat :=
  (List.range n).map (fun i => d.host.winName.toNat + x + i)

/-- The window serves an access (R348, R352). -/
def windowServes (d : Dev) (x n : Nat) : Bool := memUp d && decide (x + n ≤ d.host.winSize)

/-- CXL_MEM_READ (R352): translated under R279; poisoned where a name lies in no object or a block cannot be rebuilt. -/
def cxlMemRead (x n : Nat) (d : Dev) : Dev :=
  if !windowServes d x n then d
  else
    let ps := (windowNames d x n).map (translate d)
    let bad := ps.any (fun p => match p with | none => true | some a => blockBad d a)
    if bad then
      let (g, d) := useFree (8 * n) d
      answer g (d.modHost (fun h => { h with poison := true }))
    else
      answer (leNat (ps.map (fun p => rdByte d (p.getD 0)))) (d.modHost (fun h => { h with poison := false }))

def execCxlMemRead (x : BitVec 48) (len : BitVec 16) (s : State) : Res := s.upd (cxlMemRead x.toNat len.toNat)

/-! ### The DOE mailbox -/

/-- Answer a DOE request (R350). -/
def doeAnswer (l : List Byte) (d : Dev) : Dev := d.modHost (fun h => { h with doeReply := l })

/-- DOE_DISCOVERY (R350): vendor, type and next index of each object, laid out as PCIe lays the discovery reply out; Mladpol's
vendor ID is an open value (log entry 24). -/
def doeDiscovery (index : Nat) (d : Dev) : Dev :=
  let (g, d) := useFree 16 d
  let row := fun (v ty nx : Nat) => leBytes 2 v ++ leBytes 1 ty ++ leBytes 1 nx
  doeAnswer (match index with
    | 0 => row 0x0001 0 1 | 1 => row 0x1E98 2 2 | 2 => row g 1 3 | 3 => row g 2 0
    | _ => row 0xFFFF 0 0) d

def execDoeDiscovery (index : BitVec 8) (s : State) : Res := s.upd (doeDiscovery index.toNat)

/-- CDAT_ACCESS (R350): the table of the window's latency and bandwidth; its bytes are open values (log entry 24). -/
def cdatAccess (d : Dev) : Dev :=
  let (n, d) := useFree 16 d
  let (g, d) := useFree (8 * n) d
  doeAnswer (leBytes n g) d

def execCdatAccess (s : State) : Res := s.upd cdatAccess

/-- The attestation report without its signature (R488). -/
def attestation (d : Dev) (nonce : BitVec 256) : List Byte :=
  let b := d.lease.holderB
  let flags := b2n b + put 1 1 (b2n (!d.lease.valid)) + put 2 1 (b2n d.fw.staged) + put 3 1 (b2n d.sec.recovery)
  leBytes 4 0x54545341 ++ leBytes 2 1 ++ leBytes 1 0x21 ++ leBytes 1 (match d.grade with | .g33 => 33 | .g26 => 26) ++
    leBytes 32 nonce.toNat ++ leBytes 32 d.sec.identity.toNat ++ leBytes 4 (leadVersion d).toNat ++ leBytes 1 d.sec.svn ++
    leBytes 1 d.ledger.arSvn ++ leBytes 1 flags ++ leBytes 1 d.sec.signSlot ++ leBytes 8 0 ++
    (List.range 8).flatMap (fun i => leBytes 32 (Tab.get 0 d.sec.slots (8 * b2n b + i)).toNat) ++ leBytes 8 0

/-- DOE_ATTESTATION (R486, R488): the certificates, which are open values (log entry 24) and none while ID_BAD; or a report with its
signature, whose 32 random bytes FIPS 204 leaves to the signer. A request that breaks its form has no reply that the spec gives. -/
def doeAttestation (kind reserved : Nat) (nonce : BitVec 256) (d : Dev) : Dev :=
  if reserved ≠ 0 then d
  else match kind with
    | 0 =>
      if d.sec.idBad then doeAnswer [] d
      else
      let (n, d) := useFree 14 d
      let (m, d) := useFree 14 d
      let (x, d) := useFree (8 * n) d
      let (y, d) := useFree (8 * m) d
      doeAnswer (leBytes 4 n ++ leBytes n x ++ leBytes 4 m ++ leBytes m y) d
    | 1 =>
      let (g, d) := useFree 256 d
      let l := attestation d nonce
      doeAnswer (l ++ MlDsa.sign (MlDsa.identityKey d.sec.idSeed).2 (leBytes 32 (sha3 l).toNat) (leBytes 32 g)) d
    | _ => d

def execDoeAttestation (kind : BitVec 8) (reserved : BitVec 24) (nonce : BitVec 256) (s : State) : Res :=
  s.upd (doeAttestation kind.toNat reserved.toNat nonce)

end Sys2Proof.Machine
end

