-- ==== Sys2Proof/Machine/Stacks.lean ====
section
/-! DEFINITION. The stack controllers (11_rinmuca_memory.md): channels and groups, block accesses, the loss of a channel,
drains, REPAIR_STACK with its journal, start-up and scrub. -/

namespace Sys2Proof.Machine

/-! ### Channels and groups -/

/-- STK_CHAN of a channel (R269). -/
def chanImage (c : Chan) : Nat :=
  put 0 3 c.state + put 3 3 c.group + put 6 2 c.role + put 8 7 c.rowsLeft + put 15 5 c.colsLeft + put 20 8 c.errors

/-- STK_STATUS of a stack (R269). -/
def stkStatus (d : Dev) (s : Nat) : Nat :=
  (which 136 (fun x => (d.chan s x).role != 1 && (d.chan s x).state == 0)).length +
    (which 8 (exposed d s)).foldl (fun acc g => acc + 2 ^ (8 + g)) 0 + put 16 1 (b2n (d.stk s).trained) +
    put 17 1 (b2n (d.losses.any (fun l => l.stack == s && (l.phase == 1 || l.phase == 2)))) +
    put 18 1 (b2n (d.repair.step != 0 && d.repair.stack == s))

/-- The stack event (R428). -/
def stackEvent (s x : Nat) (d : Dev) : Dev := raiseEvent (288 + s) (x + put 8 3 (d.chan s x).state) d

/-- The exposure clock of a stack runs while some group has no redundancy (R451). -/
def noteExposure (s : Nat) (d : Dev) : Dev :=
  let now := (List.range 8).any (exposed d s)
  match now, (d.stk s).exposedFrom with
  | true, none => d.modStk s (fun z => { z with exposedFrom := some d.wall })
  | false, some w =>
    { (d.modStk s (fun z => { z with exposedFrom := none })) with
        err := { d.err with exposedMs := satAdd 32 d.err.exposedMs ((d.wall - w) / msCycles) } }
  | _, _ => d

/-! ### Blocks -/

/-- The error record of a stack access (R452, R453). -/
def stackRecord (cls action : Nat) (st : Status) (s x : Nat) (consumer : Option CtxId) (d : Dev) : Dev :=
  errReport { cls := cls, level := 3, action := action, status := st.code, loc := errLoc s x none, detail := chanImage (d.chan s x)
              ctx := consumer, flags := b2n (exposed d s (d.chan s x).group), die := some (s / 3) } d

/-- Step 2 of R251: the block fails until it is written whole, and the consumer's task aborts. -/
def blockFails (a : Nat) (consumer : Option CtxId) (d : Dev) : Dev :=
  let (s, x) := chanOfAddr d a
  let blk := a / 4096 * 4096
  let d := { d with badBlocks := if d.badBlocks.contains blk then d.badBlocks else d.badBlocks ++ [blk] }
  let d := d.modStk s (fun z => { z with mismatch := satAdd 16 z.mismatch 1 })
  let d := stackRecord 3 (if consumer.isSome then 13 else 15) .checksumMismatch s x consumer d
  match consumer with
  | some t => abortTask t .checksumMismatch (blockNo a % 2 ^ 26 + put 26 2 (dieOfAddr a)) d
  | none => d

/-- The stack of an address serves accesses: it is not in self-refresh (R463, R469). -/
def serving (d : Dev) (a : Nat) : Bool := !(d.stk (chanOfAddr d a).1).refresh

/-- STACK_READ (R249 to R251, R254, R257): the bytes asked for of the block at `a`. -/
def stackRead (a n : Nat) (consumer : Option CtxId) (chk : AccessCheck) (d : Dev) : Dev :=
  if !isStack a ∨ !populated d a then answer 0 (logIgnored d)
  else
    let (s, x) := chanOfAddr d a
    let data := leNat (rdBytes d a n)
    if !serving d a then d
    else if blockBad d a then blockFails a consumer d
    else match chk with
      | .clean => answer data d
      | .corrected =>
        answer data (stackRecord 3 0 .ok s x consumer (d.modStk s (fun z => { z with corrected := satAdd 16 z.corrected 1 })))
      | .onDie => answer data (stackRecord 3 0 .ok s x consumer (d.modStk s (fun z => { z with onDie := satAdd 16 z.onDie 1 })))
      | .mismatch =>
        if !rebuildable d s x then blockFails a consumer d
        else
          let d := d.modStk s (fun z => { z with mismatch := satAdd 16 z.mismatch 1, rebuilt := satAdd 16 z.rebuilt 1 })
          answer data (stackRecord 3 6 .checksumMismatch s x consumer (d.modChan s x (fun c => { c with errors := satAdd 8 c.errors 1 })))
      | .unrebuilt => blockFails a consumer d

def execStackRead (a : BitVec 48) (len : BitVec 13) (consumer : Option CtxId) (chk : AccessCheck) (s : State) : Res :=
  s.upd (stackRead a.toNat len.toNat consumer chk)

/-- Bytes reach the stack controllers: they are stored, with parity and CRC renewed; a block written whole is good again; part
of a failing block is not written (R250 to R254). Unpopulated addresses are ignored and logged (R28). -/
def stackBytes (l : List (Nat × Byte)) (d : Dev) : Dev :=
  let as_ := l.map Prod.fst
  let whole := wholeBlocks as_
  let ok := fun (x : Nat) => isStack x && populated d x &&
    (!blockBad d x || whole.contains (x / 4096 * 4096))
  let failing := ((as_.map (fun x => x / 4096 * 4096)).dedup).filter (fun b => blockBad d b && !whole.contains b)
  let e := if as_.all (fun x => isStack x && populated d x) then d else logIgnored d
  let e := failing.foldl (fun e b => e.modStk (chanOfAddr e b).1 (fun z => { z with mismatch := satAdd 16 z.mismatch 1 })) e
  let e := l.foldl (fun e p => if ok p.1 then wrByte p.1 p.2 e else e) e
  { e with badBlocks := e.badBlocks.filter (fun b => !(whole.contains b && populated d b)) }

/-- STACK_WRITE (R250, R253). -/
def execStackWrite (a : BitVec 48) (data : List Byte) (s : State) : Res :=
  s.upd (fun d => if serving d a.toNat then stackBytes (((List.range data.length).map (a.toNat + ·)).zip data) d else d)

/-- CXL_MEM_WRITE (R352): translated and stored; the part under names that lie in no object is dropped and logged. -/
def cxlMemWrite (x : Nat) (data : List Byte) (d : Dev) : Dev :=
  if !windowServes d x data.length then d
  else
    let ps := ((windowNames d x data.length).map (translate d)).zip data
    let e := stackBytes (ps.filterMap (fun p => p.1.map (fun a => (a, p.2)))) d
    if ps.any (fun p => p.1.isNone) then logIgnored e else e

def execCxlMemWrite (x : BitVec 48) (data : List Byte) (s : State) : Res := s.upd (cxlMemWrite x.toNat data)

/-! ### Losing a channel -/

/-- Change a stack's published capacity (R23, R257, R264). -/
def publishCap (s : Nat) (f : Nat → Nat) (d : Dev) : Dev :=
  publishShape (fun z => { z with stackCap := z.stackCap.mapIdx (fun i c => if i = s then f c else c) }) d

/-- Announce (R257): capacities fall, the event and the record are made, and Evacuate begins. -/
def announceLoss (l : Loss) (x : Nat) (noRed : Bool) (d : Dev) : Dev :=
  let d := publishCap l.stack (· - chanBytes) { d with losses := d.losses ++ [l] }
  let d := errReport { cls := 4, level := 3, action := 7, status := Status.capacityShrunk.code, loc := errLoc l.stack x none
                       detail := chanImage (d.chan l.stack x), spare := 3, flags := b2n noRed, die := some (l.stack / 3) } d
  let d := stackEvent l.stack x d
  if d.moves.isEmpty then evacuate 1 d else d

/-- The number k of a new loss on a die (R257). -/
def newBand (d : Dev) (s : Nat) : Nat := bandsLost d (s / 3) 0 + 1

/-- The even member of the highest-numbered whole pair of a group (R260). -/
def topPair (d : Dev) (s g : Nat) : Option Nat :=
  let whole := fun (x : Nat) => (d.chan s x).state == 0 && (d.chan s x).role == 0 && (d.chan s x).group == g && (lossOf d s x).isNone
  ([7, 6, 5, 4, 3, 2, 1, 0].map (fun j => 17 * g + 2 * j)).find? (fun x => whole x && whole (x + 1))

/-- CHANNEL_FAILED (R256, R257, R260): Detect and Announce; the capacity that goes is announced, and Evacuate begins. -/
def channelFailed (s x : Nat) (d : Dev) : Dev :=
  let c := d.chan s x
  if c.state = 1 ∨ (lossOf d s x).isSome then d
  else
    let noRed := !(troubled d s c.group).all (· == x)
    let d := d.modStk s (fun z => { z with resilver := z.resilver.filter (· ≠ x) })
    let d := d.modChan s x (fun c => { c with state := 1, errors := satAdd 8 c.errors 1 })
    let d := noteExposure s d
    if c.role = 1 then
      match topPair d s c.group with
      | some e => announceLoss { stack := s, chan := e, band := newBand d s, phase := 0, parity := some x } x noRed d
      | none => stackEvent s x d
    else announceLoss { stack := s, chan := x, band := newBand d s, phase := 0 } x noRed d

/-- Change the loss of a channel. -/
def modLoss (s x : Nat) (f : Loss → Loss) (d : Dev) : Dev :=
  { d with losses := d.losses.map (fun l =>
      if l.stack = s ∧ ((l.parity.isNone ∧ l.chan = x) ∨ l.parity = some x) then f l else l) }

/-- Drop the contents of a range. -/
def clearRange (a n : Nat) (d : Dev) : Dev :=
  { d with mem := d.mem.filter (fun (p : Nat × Byte) => !(decide (a ≤ p.1) && decide (p.1 < a + n)))
           badBlocks := d.badBlocks.filter (fun b => !(decide (a ≤ b) && decide (b < a + n))) }

/-- CHANNEL_CUT (R257): no home meets the band any more, and the cuts of the die run in order of detection (R261). -/
def channelCut (s x : Nat) (d : Dev) : Dev :=
  match lossOf d s x with
  | none => d
  | some l =>
    let die := s / 3
    let first := d.losses.find? (fun q => q.stack / 3 == die && q.phase == 0)
    if l.phase ≠ 0 ∨ first ≠ some l ∨ d.moves.any (·.evac) ∨ (liveHomes d).any (fun p => p.2.tier == 1 && inBand l p.2) then d
    else
      let d := modLoss s x (fun l => { l with phase := 1 }) d
      clearRange (dieBase die + populatedBytes d die) chanBytes d

def execChannelCut (x_ : StackId) (x : ChanId) (s : State) : Res := s.upd (channelCut x_.val x.val)

/-- The populated blocks that a position holds, by the place each is held at, ascending (R258). -/
def heldBlocks (d : Dev) (die pos : Nat) : List (Nat × Nat) :=
  let lines := populatedBytes d die / (384 * 4096)
  let own := ((List.range lines).map (fun o => (384 * o + pos, 384 * o + pos))).filter (fun p => heldAt d die p.1 == p.1)
  let rel := (d.reloc.filter (fun (p : Nat × Nat) => p.1 / 2 ^ 26 == die && (p.2 - 1) % 384 == pos)).map (fun (p : Nat × Nat) =>
    (p.2 - 1, p.1 % 2 ^ 26))
  own ++ rel.mergeSort (fun a b => decide (a.1 ≤ b.1))

/-- The free slots of a die above the cut, in ascending order of line, then of position (R258). -/
def freeSlots (d : Dev) (die : Nat) : List Nat :=
  let lines := populatedBytes d die / (384 * 4096)
  let used := (d.reloc.filter (fun (p : Nat × Nat) => p.1 / 2 ^ 26 == die)).map (fun (p : Nat × Nat) => p.2 - 1)
  ((List.range (98304 - lines)).flatMap (fun o => (List.range 384).map (fun i => 384 * (lines + o) + i))).filter (fun q =>
    let (s, x) := posChan die (q % 384)
    !used.contains q && !(d.losses.any (fun l => l.stack == s && l.chan == x)))

/-- RELOCATE_DONE (R258): every block the channel held has its slot in the relocation map. -/
def relocateDone (s x : Nat) (d : Dev) : Dev :=
  match lossOf d s x with
  | none => d
  | some l =>
    if l.phase ≠ 1 then d
    else
      let die := s / 3
      let m := match chanPos s l.chan with
        | some pos => ((heldBlocks d die pos).zip (freeSlots d die)).foldl (fun m p => Tab.set 0 m (2 ^ 26 * die + p.1.2) (p.2 + 1)) d.reloc
        | none => d.reloc
      modLoss s x (fun l => { l with phase := 2 }) { d with reloc := m }

def execRelocateDone (x_ : StackId) (x : ChanId) (s : State) : Res := s.upd (relocateDone x_.val x.val)

/-- The group that takes a widow of group `g`: the next without one (R259). -/
def widowHost (d : Dev) (s g : Nat) : Option Nat :=
  ([1, 2, 3, 4, 5, 6, 7].map (fun i => (g + i) % 8)).find? (fun h =>
    (which 136 (fun y => (d.chan s y).role == 2 && (d.chan s y).group == h && (d.chan s y).state != 4)).isEmpty)

/-- A channel whose pair partner is out becomes a widow, or is lost as well (R259). -/
def becomeWidow (s p g : Nat) (d : Dev) : Dev :=
  let c := d.chan s p
  if c.state = 1 ∨ c.state = 4 ∨ c.role ≠ 0 ∨ (lossOf d s p).isSome then d
  else match widowHost d s g with
    | some h => d.modChan s p (fun c => { c with role := 2, group := h })
    | none => channelFailed s p d

/-- The groups of a stack re-form after a loss (R259, R260). -/
def reform (s : Nat) (l : Loss) (d : Dev) : Dev :=
  match l.parity with
  | some x =>
    let g := (d.chan s x).group
    becomeWidow s (l.chan + 1) g ((d.modChan s x (fun c => { c with state := 4 })).modChan s l.chan (fun c => { c with role := 1 }))
  | none =>
    let c := d.chan s l.chan
    let d := d.modChan s l.chan (fun c => { c with state := 4 })
    if c.role = 2 then d
    else match partnerOf l.chan with
      | some p => becomeWidow s p c.group d
      | none => d

/-- The loss of a channel is complete: it is MAPPED_OUT and its groups have re-formed (R259). -/
def completeLoss (s x : Nat) (d : Dev) : Dev :=
  match lossOf d s x with
  | none => d
  | some l => noteExposure s (reform s l (modLoss s x (fun l => { l with phase := 3 }) d))

/-- REFORM_DONE (R257, R259): parity is recomputed, the channel is MAPPED_OUT, and the maps are committed. -/
def reformDone (s x kib : Nat) (holdup : BitVec 10) (d : Dev) : Dev :=
  match lossOf d s x with
  | none => d
  | some l => if l.phase ≠ 2 then d else mirror (firmwareCommit .maps kib holdup (completeLoss s x d))

/-- A loss without contents to move is complete at once: the maps alone are set (R266, R267). -/
def loseEmpty (s x : Nat) (d : Dev) : Dev :=
  match lossOf d s x with
  | none => d
  | some l => if l.phase = 3 then d else completeLoss s x (relocateDone s x (modLoss s x (fun l => { l with phase := 1 }) d))

def execReformDone (x_ : StackId) (x : ChanId) (kib : Nat) (holdup : BitVec 10) (s : State) : Res :=
  s.upd (reformDone x_.val x.val kib holdup)

/-! ### Drains -/

/-- A drain of channel `x` is refused (R262). -/
def drainRefused (d : Dev) (s x : Nat) : Bool :=
  !(troubled d s (d.chan s x).group).all (· == x) ||
    (match partnerOf x with | some p => (d.chan s p).state != 0 && !isOut d s p | none => false) ||
    !(which 136 (fun y => y != x && ((d.chan s y).state == 2 || (d.chan s y).state == 3) && !isOut d s y)).isEmpty ||
    (d.repair.step != 0 && d.repair.stack == s)

/-- Begin a drain. -/
def drain (s x : Nat) (d : Dev) : Dev := noteExposure s (d.modChan s x (fun c => { c with state := 2 }))

/-- The drain of a channel ends: it is resilvered (R262). -/
def endDrain (s x : Nat) (d : Dev) : Dev :=
  if (d.chan s x).state ≠ 2 ∨ isOut d s x then d
  else d.modStk s (fun z => { z with resilver := if z.resilver.contains x then z.resilver else z.resilver ++ [x] })

/-- A test lets go of its channel: what was drained is resilvered, and a MAPPED_OUT channel is MAPPED_OUT (R378). -/
def leaveChan (s x : Nat) (d : Dev) : Dev :=
  let d := d.modStk s (fun z => { z with tasteRunning := z.tasteRunning && z.tasteChan != x })
  if (d.chan s x).state ≠ 3 then endDrain s x d
  else if isOut d s x then d.modChan s x (fun c => { c with state := 4 })
  else endDrain s x (d.modChan s x (fun c => { c with state := 2 }))

/-- Stack and channel of a test's INDEX (R375). -/
def jobStack (j : TestJob) : Nat := j.index / 256
def jobChan (j : TestJob) : Nat := j.index % 256

/-- A calibration that runs ends when a channel of its group is lost (R378); its packet completes with RETRY (DESIGN CHOICE, log entry
52). -/
def endCalibration (s x : Nat) (d : Dev) : Dev :=
  match d.host.test with
  | some j =>
    if j.running ∧ j.scope = 4 ∧ jobStack j = s ∧ (d.chan s (jobChan j)).group = (d.chan s x).group then
      let d := finish mgmtTill .retry none none (d.modHost (fun h => { h with test := none }))
      if jobChan j = x then d else leaveChan s (jobChan j) d
    else d
  | none => d

/-- CHANNEL_FAILED (R256, R257, R378). -/
def execChannelFailed (x_ : StackId) (x : ChanId) (s : State) : Res :=
  s.upd (fun d =>
    if (d.chan x_.val x.val).state = 1 ∨ (lossOf d x_.val x.val).isSome then d
    else endCalibration x_.val x.val (channelFailed x_.val x.val d))

/-- CHANNEL_DRAIN_END (R262): not while a test or a repair has the channel. -/
def channelDrainEnd (s x : Nat) (d : Dev) : Dev :=
  let busy := (d.repair.step != 0 && d.repair.stack == s) ||
    (match d.host.test with | some j => j.running && (j.scope == 4 || j.scope == 6) && j.index == 256 * s + x | none => false)
  if busy ∨ isOut d s x then d
  else
    let d := if (d.chan s x).state = 3 then d.modChan s x (fun c => { c with state := 2 }) else d
    endDrain s x (d.modStk s (fun z => { z with tasteRunning := z.tasteRunning && z.tasteChan != x }))

def execChannelDrainEnd (x_ : StackId) (x : ChanId) (s : State) : Res := s.upd (channelDrainEnd x_.val x.val)

/-- A resilvered channel returns to service (R262). -/
def resilvered (s x : Nat) (d : Dev) : Dev :=
  let d := d.modStk s (fun z => { z with resilver := z.resilver.filter (· ≠ x) })
  stackEvent s x (noteExposure s (d.modChan s x (fun c => { c with state := 0 })))

/-! ### REPAIR_STACK -/

/-- Form a journal record and commit it (R264, R265, R422). -/
def journalRecord (phase kib : Nat) (holdup : BitVec 10) (d : Dev) : Dev :=
  let r := d.repair
  let n := r.sequence + 1
  firmwareCommit .journal kib holdup { d with repair := { r with sequence := n, unwritten := r.unwritten ++ [
    { stack := r.stack, chan := r.chan, step := r.step, phase := phase, sequence := n, rows := r.rows, cols := r.cols, prior := r.prior }] } }

/-- The state STK_CHAN shows for the channel in a step after its loss: tasting in steps 3 and 5, repairing in 4 and 6. -/
def repairShown (step : Nat) : Nat := if step = 3 ∨ step = 5 then 3 else 5

/-- Start the next step of a repair. -/
def repairBegin (step kib : Nat) (holdup : BitVec 10) (d : Dev) : Dev :=
  let d := { d with repair := { d.repair with step := step } }
  let d := journalRecord 0 kib holdup d
  let r := d.repair
  if 3 ≤ step then d.modChan r.stack r.chan (fun c => { c with state := repairShown step }) else d

/-- REPAIR_STACK (R262, R264, R422): refused with BUSY where the drain is refused or the channel is neither in service nor
MAPPED_OUT; HOLDUP_LOW, with nothing begun, where its first journal record cannot be committed. -/
def repairStack (s x kib : Nat) (holdup : BitVec 10) (d : Dev) : Dev :=
  if !executing d mgmtTill 0x0022 ∨ d.repair.step ≠ 0 then d
  else
    let out := isOut d s x
    let partner := match partnerOf x with | some p => if (d.chan s p).state = 0 then some p else none | none => none
    let refused := if out then (match partner with | some p => drainRefused d s p | none => false)
      else (d.chan s x).state != 0 || drainRefused d s x || (match partner with | some p => drainRefused d s p | none => false)
    if refused then finish mgmtTill .busy none none d
    else if !(holdupCheck kib holdup d).1 then finish mgmtTill .holdupLow none none (holdupCheck kib holdup d).2
    else
      let d := { d with repair := { d.repair with
        stack := s, chan := x, rolled := false, repaired := false, prior := (d.chan s x).state, rows := 0, cols := 0, partner := partner
        needRows := 0, needCols := 0 } }
      let d := repairBegin 1 kib holdup d
      let d := if out then d else drain s x d
      match partner with | some p => drain s p d | none => d

def execRepairStack (x_ : StackId) (x : ChanId) (kib : Nat) (holdup : BitVec 10) (s : State) : Res :=
  s.upd (repairStack x_.val x.val kib holdup)

/-- The drain of a repair's partner ends (R264, R266). -/
def freePartner (d : Dev) : Dev := match d.repair.partner with | some p => endDrain d.repair.stack p d | none => d

/-- The repair ends after its last step (R264): REPAIRED, spare rows and columns used, the last step. -/
def repairEnd (last : Nat) (ok : Bool) (d : Dev) : Dev :=
  let r := d.repair
  let d := freePartner (d.modChan r.stack r.chan (fun c => { c with state := if ok then 0 else 4 }))
  let d := { d with repair := { d.repair with step := 0, repaired := ok, partner := none } }
  finish mgmtTill .ok none (some (b2n ok + put 8 8 r.rows + put 16 8 r.cols + put 24 8 last)) (mirror (noteExposure r.stack d))

/-- A band returns: what other losses' blocks hold on its lines moves to the lowest free slots above the cut, where R258 keeps slots
(DEDUCED, log entry 52). -/
def clearSlots (die : Nat) (d : Dev) : Dev :=
  let lines := populatedBytes d die / (384 * 4096)
  let below := d.reloc.filter (fun (p : Nat × Nat) => p.1 / 2 ^ 26 == die && decide ((p.2 - 1) / 384 < lines))
  if below = [] then d
  else { d with reloc := (below.zip (freeSlots d die)).foldl (fun m q => Tab.set 0 m q.1.1 (q.2 + 1)) d.reloc }

/-- Step 6 (R264): the channel returns with zeros, its relocated blocks move back, its groups re-form, and the die's populated
region grows by one band. -/
def remap (s x : Nat) (d : Dev) : Dev :=
  match lossOf d s x with
  | none => d
  | some l =>
    let die := s / 3
    let home := fun (y : Nat) (d : Dev) => d.modChan s y (fun c => { c with group := (factoryChan y).group, role := (factoryChan y).role })
    let d := match chanPos s l.chan with
      | some pos => { d with reloc := d.reloc.filter (fun (p : Nat × Nat) => !(p.1 / 2 ^ 26 == die && p.1 % 2 ^ 26 % 384 == pos)) }
      | none => d
    let d := { d with losses := d.losses.filter (· ≠ l) }
    let d := clearSlots die d
    let d := home x (home l.chan d)
    let d := match partnerOf l.chan with
      | some p => if (lossOf d s p).isNone then home p d else d
      | none => d
    let d := clearRange (dieBase die + populatedBytes d die - chanBytes) chanBytes d
    publishCap s (· + chanBytes) d

/-- REPAIR_JOURNAL_RESOLVE (R266): the latest journal record decides; `kept` tells whether the stacks kept their contents. -/
def repairJournalResolve (kept : Bool) (kib : Nat) (holdup : BitVec 10) (d : Dev) : Dev :=
  match d.repair.journal.getLast? with
  | none => d
  | some j =>
    if j.phase = 2 ∨ (j.step = 6 ∧ j.phase = 1) then d
    else
      let s := j.stack
      let x := j.chan
      let back := fun (y : Nat) (d : Dev) =>
        if (d.chan s y).state = 2 then (if kept then endDrain s y d else d.modChan s y (fun c => { c with state := 0 })) else d
      let partner := fun (d : Dev) => match partnerOf x with | some p => back p d | none => d
      let d := match j.step with
        | 1 => partner (if j.prior = 0 then back x d else d.modChan s x (fun c => { c with state := 4 }))
        | 2 =>
          let d := if (lossOf d s x).isSome then d else channelFailed s x d
          partner (if kept then d else loseEmpty s x d)
        | _ => partner (d.modChan s x (fun c => { c with state := 4 }))
      let d := { d with repair := { d.repair with
        stack := s, chan := x, step := j.step, prior := j.prior, rows := j.rows, cols := j.cols, rolled := true, repaired := false
        cut := false, partner := none, sequence := max d.repair.sequence j.sequence } }
      let d := journalRecord 2 kib holdup d
      noteExposure s { d with repair := { d.repair with step := 0 } }

def execRepairJournalResolve (kept : Bool) (kib : Nat) (holdup : BitVec 10) (s : State) : Res :=
  s.upd (repairJournalResolve kept kib holdup)

/-- REPAIR_STEP_DONE (R264): the step's end record, its event, and the next step or the end. Step 2 ends when the loss of a
channel that was in service is complete. A repair that was cut short goes no further (R361), and one whose record cannot be committed
stops (R422). -/
def repairStepDone (r : TasteResult) (kib : Nat) (holdup : BitVec 10) (d : Dev) : Dev :=
  let p := d.repair
  let s := p.stack
  let x := p.chan
  if p.step = 0 ∨ p.cut ∨ (p.step = 2 ∧ !isOut d s x) then d
  else if !(holdupCheck kib holdup d).1 then
    finish mgmtTill .holdupLow none none (repairJournalResolve true kib holdup (holdupCheck kib holdup d).2)
  else
    let d := match p.step with
      | 3 => { d with repair := { d.repair with needRows := r.rows, needCols := r.cols } }
      | 4 =>
        let d := d.modChan s x (fun c => { c with rowsLeft := c.rowsLeft - p.needRows, colsLeft := c.colsLeft - p.needCols })
        { d with repair := { d.repair with rows := p.needRows, cols := p.needCols } }
      | _ => d
    let d := stackEvent s x (journalRecord 1 kib holdup d)
    let c := d.chan s x
    match p.step with
    | 1 =>
      let d := repairBegin 2 kib holdup d
      if isOut d s x then d else channelFailed s x d
    | 2 => repairBegin 3 kib holdup d
    | 3 => if c.rowsLeft < r.rows ∨ c.colsLeft < r.cols then repairEnd 3 false d else repairBegin 4 kib holdup d
    | 4 => repairBegin 5 kib holdup d
    | 5 => if r.pass then repairBegin 6 kib holdup d else repairEnd 5 false d
    | _ => repairEnd 6 true (remap s x d)

def execRepairStepDone (r : TasteResult) (kib : Nat) (holdup : BitVec 10) (s : State) : Res := s.upd (repairStepDone r kib holdup)

/-- REPAIR_STATUS (R270). -/
def repairStatus (d : Dev) : Nat :=
  let r := d.repair
  r.stack + put 8 8 r.chan + put 16 3 r.step + put 19 1 (b2n r.rolled) + put 20 1 (b2n r.repaired)

/-! ### Start-up and scrub -/

/-- A channel that fails training is lost; where contents are not kept there is nothing to relocate (R267). -/
def trainLoss (kept : Bool) (s x : Nat) (d : Dev) : Dev :=
  let d := channelFailed s x d
  if kept then d else loseEmpty s x d

/-- STACK_TRAINING (R255, R267): the stacks are trained, their listed lines' parity recomputed; without kept contents every block is
zero. -/
def stackTraining (failed : List (StackId × ChanId)) (kept : Bool) (d : Dev) : Dev :=
  let d := if kept then d
    else { d with mem := d.mem.filter (fun (p : Nat × Byte) => !isStack p.1), badBlocks := [] }
  let d := (List.range 12).foldl (fun d s => repairLines s (d.modStk s (fun z => { z with trained := true }))) d
  let d := failed.foldl (fun d p => trainLoss kept p.1.val p.2.val d) d
  announceReady { d with fabric := { d.fabric with stacksReady := true } }

def execStackTraining (failed : List (StackId × ChanId)) (kept : Bool) (s : State) : Res := s.upd (stackTraining failed kept)

def Dev.stkCfg (d : Dev) (s : Nat) : StackCfg := Tab.get {} d.cfg.stk s

/-- SCRUB_PASS (R268): a pass over every block; parity lines that disagreed are rewritten, and logged. -/
def scrubPass (s fixed : Nat) (d : Dev) : Dev :=
  if !(d.stkCfg s).scrubEnable ∨ !(d.stk s).trained then d
  else { d.modStk s (fun z => { z with passes := z.passes + 1 }) with logged := d.logged + fixed }

def execScrubPass (x_ : StackId) (parityFixed : Nat) (s : State) : Res := s.upd (scrubPass x_.val parityFixed)

/-- STK_ERRORS (R269): returned and cleared. -/
def stkErrorsRead (s : Nat) (d : Dev) : Dev :=
  let z := d.stk s
  answer (z.onDie + put 16 16 z.corrected + put 32 16 z.mismatch + put 48 16 z.rebuilt)
    (d.modStk s (fun z => { z with onDie := 0, corrected := 0, mismatch := 0, rebuilt := 0 }))

def execStkErrorsRead (x_ : StackId) (s : State) : Res := s.upd (stkErrorsRead x_.val)

end Sys2Proof.Machine
end

