-- ==== Sys2Proof/Machine/Spares.lean ====
section
/-! DEFINITION. Cores that leave and enter service, self-tests and tasters asked for while work runs (01_organisation.md R14 to
R21; 15_host_commands.md R375 to R378; 19_reliability.md R440, R441, R449, R450). -/

namespace Sys2Proof.Machine

/-! ### Cores -/

/-- Position of a core in its cluster. -/
def corePos (core : Nat) : BitVec 9 := BitVec.ofNat 9 (2 ^ (core % 9))

/-- A core in service is bound to a slot or deals tiles. -/
def coreBound (d : Dev) (core : Nat) : Bool := !(slotsOfCore d core).isEmpty

/-- Spares of a core's cluster other than itself. -/
def otherSpares (d : Dev) (core : Nat) : List Nat := (d.cluster (core / 9)).spareList.filter (· ≠ core % 9)

/-- The core event: retirement, retry (R428). -/
def coreEvent (core : Nat) (d : Dev) : Dev := raiseEvent (128 + core) (mxFault d core) d

/-- A core is retired (R21): it leaves service for good, and the spare map has it. -/
def retireCore (core : Nat) (d : Dev) : Dev := coresChanged (core / 9) (orderedOut core true d)

/-- A core is ordered out of service, retired or reset (R14): at the next checkpoint bell where it holds a slot while a task runs,
else at once. -/
def orderOut (core : Nat) (retire : Bool) (d : Dev) : Dev :=
  if coreBound d core ∧ d.seq.running.isSome then { d with seq := { d.seq with adopt := d.seq.adopt ++ [(core, retire)] } }
  else coresChanged (core / 9) (orderedOut core retire d)

/-- A core in service, or under a test, returns to service: as a spare where its cluster has its eight (R375, R470). -/
def returnCore (core : Nat) (d : Dev) : Dev :=
  let c := core / 9
  let d := d.modCluster c (fun x => { x with coreOk := x.coreOk ||| corePos core, retired := x.retired &&& ~~~(corePos core) })
  let d := d.modCore core (fun x => { x with failed := false })
  mirror (coresChanged c (resettle c d))

/-- The cluster's spare takes the slot of a bound core, which stays in service unbound (R376). The slot's state is saved and
restored, so the accumulator bytes stay at the slot's address. -/
def swapSpare (core : Nat) (d : Dev) : Dev :=
  let c := core / 9
  match otherSpares d core with
  | [] => d
  | p :: _ =>
    let d := d.modCluster c (fun x => { x with bound := x.bound.map (fun q => if q = core % 9 then p else q) })
    coresChanged c { d with accHeld := (takeRange (accSize * (9 * c + p)) accSize d.accHeld).2 }

/-- The record of a spare bound with no slot replayed (R453): predictive retirement or a core test. -/
def rebindRecord (core flags : Nat) (d : Dev) : Dev :=
  errReport { cls := 0, level := 1, action := 16, loc := errLoc core 0 (slotsOfCore d core).head?, detail := mxFault d core, spare := 1
              flags := flags, die := some (dieOfCore core) } d

/-- The running task is at a yield point, and no replay, pre-emption or abort stops it there (R376). -/
def atYield (d : Dev) : Bool :=
  match d.seq.running with
  | some t => (d.ctx t).phase == .running && !(d.ctx t).ended && d.seq.replay.isNone && d.seq.preempt == .none &&
      (d.seq.mode == .issuing || d.seq.mode == .bellWait) && atYieldPoint (d.ctx t)
  | none => false

/-- No context holds a task that has started and not ended, and nothing waits in a task till that could start one (R376). -/
def idleWindow (d : Dev) : Bool :=
  allCtx.all (fun t => (d.ctx t).phase == .idle && (let x := d.till (taskTill t); !x.enable || x.head == x.tail))

/-- Retries of a core in the last 24 h (R449). -/
def retriesIn24h (d : Dev) (core : Nat) : Nat :=
  ((Tab.get [] d.err.retries24h core).filter (fun w => decide (d.wall ≤ w + 86400000 * msCycles))).length

/-- PREDICTIVE_RETIRE (R449), by the leading complex: at a yield point, or with no task; never where the cluster would lose its
last spare's cover. -/
def predictiveRetire (core : Nat) (d : Dev) : Dev :=
  if !d.lease.valid ∨ !d.cfg.predictEn ∨ retriesIn24h d core < d.cfg.wearReplays.toNat ∨ !((d.cluster (core / 9)).coreOk.getLsbD (core % 9)) ∨
      (d.cluster (core / 9)).spareList.isEmpty ∨ !(atYield d || allCtx.all (fun t => (d.ctx t).phase == .idle)) then d
  else
    let d := if coreBound d core then swapSpare core d else d
    retireCore core (rebindRecord core 2 d)

def execPredictiveRetire (c : CoreId) (s : State) : Res := s.upd (predictiveRetire c.val)

/-- Retire one position by the spare path (R14, R21). -/
def retirePosition (core : Nat) (d : Dev) : Dev :=
  if ((d.cluster (core / 9)).retired &&& corePos core ≠ 0) ∨ d.seq.adopt.contains (core, true) then d else orderOut core true d

/-- Retire the positions of a cluster that a write of CLUSTER_RETIRE names (R20, R21). -/
def retireBits (c : Nat) (bits : BitVec 9) (d : Dev) : Dev :=
  mirror ((which 9 (fun p => bits.getLsbD p)).foldl (fun d p => retirePosition (9 * c + p) d) d)

/-- CLUSTER_RETIRE (R21). -/
def execClusterRetire (src : Source) (c : ClusterId) (bits : BitVec 9) (s : State) : Res :=
  s.upd (dieOwnWrite (.clusterRetire src c bits) src (dieOfCluster c.val) (retireBits c.val bits))

/-- SEQUENCER_PAIR_MISMATCH (R441): a core logic fault. -/
def execSequencerPairMismatch (c : CoreId) (s : State) : Res := s.upd (coreLogicFault 7 c.val)

/-- ENGINE_PROGRESS_TIMEOUT (R441): a busy engine without progress, not under a pause, is a core logic fault. -/
def execEngineProgressTimeout (c : CoreId) (s : State) : Res :=
  s.upd (fun d =>
    let x := d.core c.val
    if (x.mxQ ++ x.vxQ ++ x.txQ).isEmpty ∨ Tab.get false d.awning.paused (dieOfCore c.val) then d else coreLogicFault 7 c.val d)

/-- The number of a voted unit. -/
def votedKey : VotedUnit → Nat
  | .streamSequencer x => x.val
  | .clusterController c => 4 + c.val

/-- Die and error location of a voted unit (R452): a sequencer by its die, a cluster controller by its cluster. -/
def votedDie : VotedUnit → Nat
  | .streamSequencer x => x.val
  | .clusterController c => dieOfCluster c.val
def votedLoc : VotedUnit → Nat
  | .streamSequencer x => errLoc x.val 5 none
  | .clusterController c => errLoc c.val 6 none

/-- VOTE_DISSENT (R441): a copy is outvoted and reloaded at the next checkpoint bell; a second dissent within
MX_FAIL_WINDOW switches it off; a difference between two remaining copies aborts every task. -/
def voteDissent (u : VotedUnit) (copy : Fin 3) (d : Dev) : Dev :=
  let k := 3 * votedKey u + copy.val
  let level := match u with | .streamSequencer _ => 3 | .clusterController _ => 2
  let off := ([0, 1, 2].filter (fun i => Tab.get false d.err.copiesOff (3 * votedKey u + i))).length
  let (g, d) := useFree 32 d
  if Tab.get false d.err.copiesOff k then d
  else if off ≠ 0 then
    let d := errReport { cls := 7, level := level, action := 13, status := Status.internal.code, loc := votedLoc u, detail := g
                         die := some (votedDie u) } d
    let (g, d) := useFree 32 d
    abortAll .internal g d
  else
    let again := match Tab.get none d.err.copyFaultAt k with | some w => decide (d.wall ≤ w + failWindow d) | none => false
    let d := errReport { cls := 7, level := level, action := if again then 15 else 5, loc := votedLoc u, detail := g, die := some (votedDie u) } d
    { d with err := { d.err with
        copyFaultAt := Tab.set none d.err.copyFaultAt k (some d.wall)
        copiesOff := if again then Tab.set false d.err.copiesOff k true else d.err.copiesOff
        copyReload := if again then d.err.copyReload else Tab.set false d.err.copyReload k true } }

def execVoteDissent (u : VotedUnit) (copy : Fin 3) (s : State) : Res := s.upd (voteDissent u copy)

/-! ### Tests -/

/-- Every peer that port `p` leads to is still reached without it (R303, R375). -/
def detourExists (d : Dev) (p : Nat) : Bool :=
  match peerOf d p with
  | none => true
  | some c => (nextHop (d.modPort p (fun x => { x with state := 0 })) c).isSome

/-- What a test needs besides its moment (R375, R376): no drain refused, a detour, a spare for a core that serves a slot. In an
idle window a core without a spare is tested as it is. -/
def testNeeds (d : Dev) (idle : Bool) (j : TestJob) : Bool :=
  match j.scope with
  | 0 => idle || !coreBound d j.index || !(otherSpares d j.index).isEmpty
  | 4 | 6 => isOut d (jobStack j) (jobChan j) ||
      ((d.chan (jobStack j) (jobChan j)).state == 0 && !drainRefused d (jobStack j) (jobChan j))
  | 5 => detourExists d j.index
  | _ => true

/-- The running task's yield point serves a test (R376, R378): the test of a core that serves a slot begins once the task's engine
operations have completed, or in the switch of a pre-emption that is due there. -/
def yieldServes (d : Dev) (j : TestJob) : Bool :=
  match j.scope with
  | 0 => (match d.seq.preempt with | .saved _ => true | _ => false) ||
      (atYield d && (!coreBound d j.index || (match d.seq.running with | some t => enginesIdle d t | none => true)))
  | 4 | 5 | 6 => atYield d
  | _ => false

/-- A test may start now (R376). -/
def testMay (d : Dev) (j : TestJob) : Bool :=
  let idle := idleWindow d
  (idle || yieldServes d j) && testNeeds d idle j

/-- A test starts (R376): a spare takes the slot of a core to be tested; a channel is drained; a port leaves service. -/
def startTest (j : TestJob) (d : Dev) : Dev :=
  let idle := idleWindow d
  let d := d.modHost (fun h => { h with test := some { j with running := true, window := idle } })
  let d := d.modTill mgmtTill (fun x => { x with deferred := false })
  match j.scope with
  | 0 => if coreBound d j.index ∧ !(otherSpares d j.index).isEmpty then swapSpare j.index (rebindRecord j.index 0 d) else d
  | 4 => if isOut d (jobStack j) (jobChan j) then d else drain (jobStack j) (jobChan j) d
  | 5 => let d := portLeaves false j.index d
         if trainable d j.index then setPort j.index 1 d else d
  | 6 =>
    let d := d.modStk (jobStack j) (fun z => { z with tasteChan := jobChan j, tastePattern := j.pattern, tasteRunning := true })
    noteExposure (jobStack j) (d.modChan (jobStack j) (jobChan j) (fun c => { c with state := 3 }))
  | _ => d

/-- A test is accepted (R376, R377): it starts, or it is deferred. -/
def acceptTest (j : TestJob) (d : Dev) : Dev :=
  if testMay d j then startTest j d
  else interimDeferred mgmtTill (d.modHost (fun h => { h with test := some j }))

/-- SCOPE and INDEX of SELF_TEST name a unit (R375). -/
def selfTestOk (scope index : Nat) : Bool :=
  match scope with
  | 0 => decide (index < 144) | 1 => decide (index < 16) | 2 => decide (index < 4) | 3 => index == 0
  | 4 => decide (index / 256 < 12) && decide (index % 256 < 136) | 5 => decide (index < 24)
  | _ => false

/-- SELF_TEST (R375 to R377). -/
def selfTest (scope index : Nat) (d : Dev) : Dev :=
  if !executing d mgmtTill 0x0020 ∨ d.host.test.isSome then d
  else if !selfTestOk scope index then finish mgmtTill .badParam none none d
  else acceptTest { scope := scope, index := index } d

def execSelfTest (scope : BitVec 8) (index : BitVec 16) (s : State) : Res := s.upd (selfTest scope.toNat index.toNat)

/-- TASTE_CHANNEL (R263, R375 to R377). -/
def tasteChannel (s x pattern : Nat) (d : Dev) : Dev :=
  if !executing d mgmtTill 0x0021 ∨ d.host.test.isSome then d
  else if 6 < pattern then finish mgmtTill .badParam none none d
  else acceptTest { scope := 6, index := 256 * s + x, pattern := pattern } d

def execTasteChannel (x_ : StackId) (x : ChanId) (pattern : BitVec 8) (s : State) : Res :=
  s.upd (tasteChannel x_.val x.val pattern.toNat)

/-- TEST_START (R376): the moment of a deferred test has come. -/
def testStart (d : Dev) : Dev :=
  match d.host.test with
  | some j => if !j.running ∧ testMay d j then startTest j d else d
  | none => d

def execTestStart (s : State) : Res := s.upd testStart

/-- TEST_DEFER_EXPIRY (R377): BUSY, with what the test waited for. -/
def testDeferExpiry (d : Dev) : Dev :=
  match d.host.test with
  | some j =>
    if j.running then d
    else
      let detail := match j.scope with
        | 0 => if coreBound d j.index ∧ (otherSpares d j.index).isEmpty then 2 else 1
        | 4 | 6 => if testNeeds d false j then 1 else 3
        | 5 => if testNeeds d false j then 1 else 4
        | _ => 1
      finish mgmtTill .busy (some detail) none (d.modHost (fun h => { h with test := none }))
  | none => d

def execTestDeferExpiry (s : State) : Res := s.upd testDeferExpiry

/-- TASTE_DONE (R263): the result is in STK_TASTE; a drained channel is resilvered, and a MAPPED_OUT one is done. -/
def tasteResultWord (z : Stack) (n : Nat) : Nat := b2n z.tastePass + put 1 23 n

def tasteDone (s : Nat) (r : TasteResult) (d : Dev) : Dev :=
  match d.host.test with
  | some j =>
    if !j.running ∨ j.scope ≠ 6 ∨ jobStack j ≠ s ∨ !(d.stk s).tasteRunning then d
    else
      let x := jobChan j
      let d := d.modStk s (fun z => { z with
        tasteRunning := false, tastePass := r.pass, tasteFirst := r.first, tasteLast := r.last, tasteCount := min r.failing (2 ^ 17 - 1) })
      if isOut d s x then
        let d := stackEvent s x (d.modChan s x (fun c => { c with state := 4 }))
        finish mgmtTill .ok none (some (tasteResultWord (d.stk s) r.failing)) (d.modHost (fun h => { h with test := none }))
      else
        let d := stackEvent s x (d.modChan s x (fun c => { c with state := 2 }))
        endDrain s x (d.modHost (fun h => { h with test := some { j with failing := r.failing } }))
  | none => d

def execTasteDone (x_ : StackId) (r : TasteResult) (s : State) : Res := s.upd (tasteDone x_.val r)

/-- RESILVER_DONE (R262, R263): the channel returns to service, and a taste of it completes. -/
def resilverDone (s x : Nat) (d : Dev) : Dev :=
  if !(d.stk s).resilver.contains x then d
  else
    let d := resilvered s x d
    match d.host.test with
    | some j =>
      if j.running ∧ j.scope = 6 ∧ j.index = 256 * s + x ∧ !(d.stk s).tasteRunning then
        finish mgmtTill .ok none (some (tasteResultWord (d.stk s) j.failing)) (d.modHost (fun h => { h with test := none }))
      else d
    | none => d

def execResilverDone (x_ : StackId) (x : ChanId) (s : State) : Res := s.upd (resilverDone x_.val x.val)

/-- Cores that a test covers (R375). -/
def testedCores (j : TestJob) : List Nat :=
  match j.scope with
  | 0 => [j.index]
  | 1 => (List.range 9).map (9 * j.index + ·)
  | 2 => (List.range 36).map (36 * j.index + ·)
  | 3 => List.range 144
  | _ => []

/-- After a die reset the die's own test of scope 2 has ended (R469): failed cores are retired, its stacks serve again, its clocks
have locked, and it is in service. -/
def dieBack (x : Nat) (failed : List Nat) (d : Dev) : Dev :=
  let d := failed.foldl (fun d c => retireCore c d) d
  let d := [0, 1, 2].foldl (fun d i => d.modStk (3 * x + i) (fun z => { z with refresh := false })) d
  { d with pwr := { d.pwr with
      dieDown := Tab.set false d.pwr.dieDown x false
      locked := d.pwr.locked ||| BitVec.ofNat 10 (2 ^ (1 + x)) ||| BitVec.ofNat 10 (2 ^ (5 + x)) } }

/-- SELF_TEST_DONE (R375, R469): failed cores are retired, retired cores that pass return; a calibrated channel returns to
service. With no test of a packet it ends the test of a die that was reset. The number of units that a test of more than one unit
covers is open. -/
def selfTestDone (failed : List Nat) (others : Nat) (d : Dev) : Dev :=
  match d.host.test with
  | some j =>
    if !j.running ∨ j.scope = 6 then d
    else
      let bad := failed.filter (fun c => (testedCores j).contains c)
      let d := d.modHost (fun h => { h with test := none })
      let retired := (testedCores j).filter (fun c => !bad.contains c && ((d.cluster (c / 9)).retired &&& corePos c != 0))
      let d := bad.foldl (fun d c => retireCore c d) d
      let d := retired.foldl (fun d c => returnCore c d) d
      let d := if j.scope = 4 ∧ (d.chan (jobStack j) (jobChan j)).state = 2 then resilvered (jobStack j) (jobChan j) d else d
      let (n, d) := if j.scope = 0 ∨ j.scope = 4 ∨ j.scope = 5 then (1, d) else useFree 8 d
      let f := bad.length + others
      finish mgmtTill .ok none (some (b2n (f == 0) + put 1 8 n + put 9 8 f)) d
  | none =>
    match [0, 1, 2, 3].find? (fun x => Tab.get false d.pwr.dieDown x) with
    | some x => if d.awning.tripped ∨ d.pwr.asleep ≠ 0 then d else dieBack x (failed.filter (fun c => dieOfCore c == x)) d
    | none => d

def execSelfTestDone (failed : List CoreId) (others : Nat) (s : State) : Res :=
  s.upd (selfTestDone (failed.map (·.val)) others)

/-! ### SRAM scrub -/

/-- The context whose window holds an SRAM address (R125, R508). -/
def windowOwner (d : Dev) (a : Nat) : Option CtxId :=
  allCtx.find? (fun t =>
    let c := d.ctx t
    c.started && (c.theProg.slotShare ++ c.theProg.clusterShare).any (fun s => decide (s.1 ≤ a) && decide (a < s.1 + s.2)))

/-- An SRAM word that its code cannot correct (R440, R450): the task whose window holds it aborts, and its bank is marked. -/
def sramFails (c a : Nat) (d : Dev) : Dev :=
  let w := a / 8 * 8
  let d := { d with badSram := if d.badSram.contains w then d.badSram else d.badSram ++ [w]
                    err := { d.err with bankMarked := d.err.bankMarked ||| BitVec.ofNat 16 (2 ^ c) } }
  let o := windowOwner d a
  let (g, d) := useFree 32 d
  let d := errReport { cls := 1, level := 2, action := if o.isSome then 13 else 15, status := if o.isSome then Status.checksumMismatch.code else 0
                       loc := errLoc c 6 none, detail := g, ctx := o, die := some (dieOfCluster c) } d
  match o with
  | some t => abortTask t .checksumMismatch (put 30 2 3 + w / 8 % 2 ^ 30) d
  | none => d

/-- SRAM_SCRUB (R440, R450): a pass over a cluster's SRAM: corrected errors leave a record, rows and columns corrected twice are
marked, and words that cannot be corrected are handled. -/
def sramScrub (c rows cols : Nat) (bad : List Nat) (d : Dev) : Dev :=
  let d := if rows + cols = 0 then d
    else
      let (g, d) := useFree 32 d
      errReport { cls := 1, level := 2, action := 0, loc := errLoc c 6 none, detail := g, die := some (dieOfCluster c) } d
  let d := { d with err := { d.err with rowsMarked := d.err.rowsMarked + rows, colsMarked := d.err.colsMarked + cols } }
  bad.foldl (fun d a => sramFails c a d) d

def execSramScrub (c : ClusterId) (rows cols : Nat) (bad : List Nat) (s : State) : Res := s.upd (sramScrub c.val rows cols bad)

end Sys2Proof.Machine
end

