-- ==== Sys2Proof/Machine/Handover.lean ====
section
/-! DEFINITION. Firmware steps cut short: a change of the leading complex, an update's Quiesce, and a crier's return
(15_host_commands.md R361, R378; 17_firmware.md R408 to R417). -/

namespace Sys2Proof.Machine

/-- The identity exchanges of a die's ports end where its crier restarts (R490): each port drops to training. -/
def exchangesDrop (x : Nat) (d : Dev) : Dev :=
  (which 6 (fun i => (d.port (6 * x + i)).state == 2 && !(d.fabric.state == 3 && peerMatches d (6 * x + i)))).foldl
    (fun d i => setPort (6 * x + i) 1 d) d

/-- A crier crashes, and with a die crier the exchanges of its ports (R411, R490). -/
def crierStops (c : CrierId) (d : Dev) : Dev :=
  if (d.crier c).state = 0 ∨ (d.crier c).state = 4 then d
  else
    let d := crash c d
    if 4 ≤ c.val then exchangesDrop (c.val - 4) d else d

/-- CRIER_WATCHDOG_EXPIRY (R411). -/
def execCrierWatchdogExpiry (c : CrierId) (s : State) : Res := s.upd (crierStops c)

/-- CRIER_CRASH (R411): an exception it cannot handle, or an uncorrectable error of its SRAM. -/
def execCrierCrash (c : CrierId) (s : State) : Res := s.upd (crierStops c)

/-- A die crier restarts in the Dies phase of an update (R414). -/
def dieCrierRestart (c : CrierId) (d : Dev) : Dev :=
  exchangesDrop (c.val - 4) (clearCrierEn (BitVec.ofNat 8 (2 ^ c.val)) (d.modCrier c (fun x => { x with state := 1, lastBeat := none })))

/-- FW_REJOIN_DONE (R414): the old complex is standby on the new image; the die criers restart one at a time, D0 first. -/
def fwRejoinDone (d : Dev) : Dev :=
  if d.fw.phase ≠ 9 then d
  else
    let d := (complexCriers d.fw.fromB).foldl (fun d c =>
      d.modCrier c (fun x => { x with state := 2, version := activeVersion d })) d
    setFwPhase 10 (dieCrierRestart 4 d)

def execFwRejoinDone (s : State) : Res := s.upd fwRejoinDone

/-- The running test stops without a result (R378): a core is its cluster's spare again, a drained channel is resilvered, a port
retrains. -/
def cutTest (d : Dev) : Dev :=
  match d.host.test with
  | none => d
  | some j =>
    let d := d.modHost (fun h => { h with test := none })
    if j.running ∧ (j.scope = 4 ∨ j.scope = 6) then leaveChan (jobStack j) (jobChan j) d else d

/-- A REPAIR_STACK that runs goes no further; its journal decides (R361). -/
def cutRepair (d : Dev) : Dev := if d.repair.step = 0 then d else { d with repair := { d.repair with cut := true } }

/-- The RUN_TASKs and STEP_REPLAYs that have not issued a bundle complete with RETRY (R361). -/
def retryRuns (d : Dev) : Dev :=
  allCtx.foldl (fun d t => if (d.ctx t).phase = .starting then endUnstarted t .retry none none d else d) d

/-- What firmware had begun and not ended completes with RETRY (R361, R410, R412): the management till's packet, and each task-till
packet whose first bundle has not issued. An FW_ACTIVATE among them leaves its package staged (R417). -/
def retryFirmware (d : Dev) : Dev :=
  let d := match (d.till mgmtTill).cur with
    | some _ =>
      let d := cutRepair (cutTest d)
      finish mgmtTill .retry none none (if d.fw.phase = 0 then d else setFwPhase 0 d)
    | none => d
  retryRuns d

/-- CONTENTION_WINDOW_END (R408): A if A has requested, otherwise B; the new holder completes what was begun with
RETRY (R410). -/
def contentionWindowEnd (d : Dev) : Dev :=
  if !d.lease.window then d
  else if d.lease.reqA then retryFirmware (grant false d)
  else if d.lease.reqB then retryFirmware (grant true d)
  else { d with lease := { d.lease with window := false } }

def execContentionWindowEnd (s : State) : Res := s.upd contentionWindowEnd

/-- LEASE_YIELD (R410, R425): carried out only from the holder's criers; ignored when the other complex does not
request. -/
def leaseYield (src : Source) (d : Dev) : Dev :=
  writeFrom src false (fun _ => false) (fun d =>
    let e := passLease d
    if e.lease.holderB != d.lease.holderB then retryFirmware e else e) d

def execLeaseYield (src : Source) (s : State) : Res := s.upd (leaseYield src)

/-- FW_QUIESCED (R414, R416): what was begun on the task tills is cut short, and the handoff block is written; an emergency found now
backs the activation out, and it waits again; otherwise the lease is yielded. -/
def fwQuiesced (d : Dev) : Dev :=
  if d.fw.phase ≠ 4 then d
  else
    let d := setFwPhase 6 (setFwPhase 5 (retryRuns d))
    if emergency d then setFwPhase 1 (interimDeferred mgmtTill d)
    else setFwPhase 7 (passLease d)

def execFwQuiesced (s : State) : Res := s.upd fwQuiesced

/-- The die whose unit a test has, where one die has it (R375). -/
def testDie (j : TestJob) : Option Nat :=
  match j.scope with
  | 0 => some (dieOfCore j.index)
  | 1 => some (dieOfCluster j.index)
  | 2 => some j.index
  | 4 | 6 => some (jobStack j / 3)
  | 5 => some (j.index / 6)
  | _ => none

/-- A die crier that had crashed is back (R378, R412): a test on its die, or a REPAIR_STACK, has been cut short. -/
def dieCrierBack (x : Nat) (d : Dev) : Dev :=
  let testing := match d.host.test with | some j => j.running && testDie j == some x | none => false
  if testing then finish mgmtTill .retry none none (cutTest d)
  else if d.repair.step ≠ 0 ∧ !d.repair.cut ∧ d.repair.stack / 3 = x then finish mgmtTill .retry none none (cutRepair d)
  else d

/-- CRIER_RESTORED (R411, R412, R414): the crier runs and re-enables its deliveries. In the Dies phase of an update the next
die crier restarts; after D3 the FW_ACTIVATE completes with the new version. -/
def crierRestored (c : CrierId) (d : Dev) : Dev :=
  let st := (d.crier c).state
  if st = 2 ∨ st = 0 then d
  else
    let d := d.modCrier c (fun x => { x with state := 2, lastBeat := some d.wall })
    let d := { d with evt := { d.evt with enabled := d.evt.enabled ||| BitVec.ofNat 8 (2 ^ c.val) } }
    let d := if 4 ≤ c.val then dieCrierBack (c.val - 4) d else d
    if d.fw.phase ≠ 10 ∨ c.val < 4 then d
    else if h : c.val < 7 then dieCrierRestart ⟨c.val + 1, by omega⟩ d
    else finish mgmtTill .ok none (some (activeVersion d).toNat) (setFwPhase 0 d)

def execCrierRestored (c : CrierId) (s : State) : Res := s.upd (crierRestored c)

end Sys2Proof.Machine
end

