-- ==== Sys2Proof/Machine/Image.lean ====
section
/-! DEFINITION. Program images (15_host_commands.md R364): header, section table, sections, and what a bundle of an image
names. -/

namespace Sys2Proof.Machine

/-- An entry of the section table (R364). -/
structure Sect where
  typ : Nat
  rsv : Nat
  off : Nat
  len : Nat
  crc : Nat

def imgSections (l : List Byte) : Nat := leAt l 6 2

def sectAt (l : List Byte) (i : Nat) : Sect :=
  let o := 64 + 16 * i
  { typ := leAt l o 2, rsv := leAt l (o + 2) 2, off := leAt l (o + 4) 4, len := leAt l (o + 8) 4, crc := leAt l (o + 12) 4 }

/-- The header (R364). -/
def headerOk (l : List Byte) (bytes : Nat) : Bool :=
  let n := imgSections l
  decide (64 ≤ bytes) && leAt l 0 4 == 0x4D494753 && leAt l 4 2 == 1 && decide (1 ≤ n) && decide (n ≤ 16) && leAt l 16 8 == bytes &&
    zerosAt l 24 40 && decide (64 + 16 * n ≤ bytes)

/-- Section `i` lies in the image after the table, is of a known type that no earlier one has, meets no earlier one, and
its CRC holds (R364). -/
def sectOk (l : List Byte) (bytes i : Nat) : Bool :=
  let s := sectAt l i
  decide (1 ≤ s.typ) && decide (s.typ ≤ 11) && s.rsv == 0 && decide (64 + 16 * imgSections l ≤ s.off) && decide (s.off + s.len ≤ bytes) &&
    (List.range i).all (fun j => let z := sectAt l j; z.typ != s.typ && !meets s.off s.len z.off z.len) &&
    (crc32c (slice l s.off s.len)).toNat == s.crc

/-- Bytes of a record of a section type, and how many records it may hold (R364, R46, R44, R110, R204, R219, R106, R280,
R326); the layout of type 10 is not given. -/
def sectRule (typ : Nat) : Option (Nat × Nat) :=
  match typ with
  | 1 => some (64, 65536) | 2 => some (16, 4096) | 3 => some (192, 64) | 4 => some (64, 64) | 5 => some (64, 64) | 6 => some (16, 64)
  | 7 => some (16, 1024) | 8 => some (32, 128) | 9 => some (64, 2048)
  | _ => none

def sectLenOk (s : Sect) : Bool :=
  match sectRule s.typ with
  | some (b, n) => s.len % b == 0 && decide (s.len ≤ b * n)
  | none => s.typ != 11 || s.len == 2304

/-- The bytes of the section of a type; none where the image has no such section. -/
def sectionOf (l : List Byte) (typ : Nat) : List Byte :=
  match ((List.range (imgSections l)).map (sectAt l)).find? (fun s => s.typ == typ) with
  | some s => slice l s.off s.len
  | none => []

/-- Check 2 of R365: the detail word of the first failure. -/
def formFault (l : List Byte) (bytes : Nat) (digest : BitVec 256) : Option Nat :=
  let n := imgSections l
  if l.length ≠ bytes ∨ !headerOk l bytes then some 0x2000FFFF
  else match (List.range n).find? (fun i => !sectOk l bytes i) with
    | some i => some (0x20000000 + i)
    | none =>
      if !(List.range n).any (fun i => (sectAt l i).typ == 1) ∨ (digest ≠ 0 ∧ digest ≠ sha3 l) then some 0x2000FFFF
      else ((List.range n).find? (fun i => !sectLenOk (sectAt l i))).map (0x20000000 + ·)

/-- Records of `b` bytes. -/
def records (b : Nat) (l : List Byte) : List (List Byte) := (List.range (l.length / b)).map (fun i => slice l (b * i) b)

/-- The program of an image (R364). -/
def progOf (l : List Byte) (names : List (BitVec 48)) : Prog :=
  let shares := sectionOf l 11
  let pair := fun (i : Nat) => (leAt shares (16 * i) 8, leAt shares (16 * i + 8) 8)
  { bundles := (records 64 (sectionOf l 1)).map (fun x => BitVec.ofNat 512 (leNat x))
    pool := (records 16 (sectionOf l 2)).map (fun x => BitVec.ofNat 128 (leNat x))
    descs := (records 192 (sectionOf l 3)).map Desc.ofBytes, descBytes := sectionOf l 3
    conv := records 64 (sectionOf l 4), attn := records 64 (sectionOf l 5)
    objects := sectionOf l 7, placement := sectionOf l 8, reductions := sectionOf l 9, pools := sectionOf l 10
    slotShare := (List.range 128).map pair, clusterShare := (List.range 16).map (fun c => pair (128 + c)), names := names
    digest := sha3 l, features := BitVec.ofNat 64 (leAt l 8 8) }

/-- The image's policy entries (R106); entries that the section does not hold are zero. -/
def imagePolicy (l : List Byte) : List (BitVec 128) :=
  (List.range 64).map (fun i => BitVec.ofNat 128 (leAt (sectionOf l 6) (16 * i) 16))

/-- The raw bytes of descriptor `i`; one that the section does not hold is all zeros. -/
def rawDesc (l : List Byte) (i : Nat) : List Byte := slice (sectionOf l 3) (192 * i) 192

/-! ### Entries of the object list (R280) -/

structure ObjEntry where
  size : Nat
  number : Nat
  cls : Nat
  hint : Nat
  base : Nat
  die : Nat
  rsv : Nat
  /-- the image-given name of a compiler-placed object -/
  name : Nat

def objEntry (objs : List Byte) (names : List (BitVec 48)) (i : Nat) : ObjEntry :=
  let o := 16 * i
  { size := leAt objs o 8, number := leAt objs (o + 8) 2, cls := leAt objs (o + 10) 1, hint := leAt objs (o + 11) 1
    base := leAt objs (o + 12) 1, die := leAt objs (o + 13) 1, rsv := leAt objs (o + 14) 2
    name := (names.getD i 0).toNat }

def objEntries (objs : List Byte) (names : List (BitVec 48)) : List ObjEntry := (List.range (objs.length / 16)).map (objEntry objs names)

/-! ### What a bundle names -/

/-- A slot's operation in a bundle: its opcode and fields. -/
def Bundle.mxOp (b : Bundle) : Option (Nat × MxOp) :=
  if b.cls = 0 ∧ cut b.mx 0 8 ≠ 0 then some (cut b.mx 0 8, mxFields b.mx) else none
def Bundle.vxOp (b : Bundle) : Option (Nat × VxOp) :=
  if b.cls = 0 ∧ cut b.vx 0 8 ≠ 0 then some (cut b.vx 0 8, vxFields b.vx) else none
def Bundle.ptOp (b : Bundle) : Option (Nat × PtOp) :=
  if b.cls = 0 ∧ cut b.pt 0 8 ≠ 0 then some (cut b.pt 0 8, ptSlotFields b.pt (b.extOf 3)) else none
def Bundle.txOp (b : Bundle) : Option (Nat × TxOp) :=
  if b.cls = 0 ∧ cut b.tx 0 8 ≠ 0 then some (cut b.tx 0 8, txFields b.tx) else none

/-- Features that an image uses, as R371 lists what each bit gates: a bit mask. What codec tokens and frame outputs look like
in an image is not said, so bit 7 is never among them. -/
def usedFeatures (l : List Byte) (p : Prog) : Nat :=
  let bs := p.bundles.map Bundle.of
  let pts := bs.filterMap Bundle.ptOp
  let has := fun (f : Nat → Bool) => pts.any (fun o => f o.1)
  let words := p.descs.flatMap (fun x => [x.fa, x.fb, x.fc, x.fp])
  let bitIf := fun (n : Nat) (c : Bool) => if c then 2 ^ n else 0
  bitIf 2 (has (· == 0x21) || (objEntries p.objects []).any (fun e => e.hint == 5)) +
    bitIf 4 (has (fun o => decide (0x10 ≤ o) && decide (o ≤ 0x1F))) +
    bitIf 5 (bs.any (fun b => b.cls == 0 && ptStandby b.pt)) + bitIf 6 (!p.pools.isEmpty) +
    bitIf 11 (words.any (·.blk16)) + bitIf 12 ((imagePolicy l).any (fun e => polMode e == 1 || polMode e == 3))

/-- Another context holds a program. -/
def otherResident (d : Dev) (t : CtxId) : Bool := allCtx.any (fun u => u != t && (d.ctx u).prog.isSome)

/-- Check 3 of R365: the lowest offending feature bit. -/
def featureFault (d : Dev) (t : CtxId) (l : List Byte) (p : Prog) : Option Nat :=
  let used := usedFeatures l p
  (List.range 64).find? (fun n =>
    (p.features.getLsbD n && !d.host.agreed.getLsbD n) || (bit used n && !p.features.getLsbD n) ||
      (n == 0 && otherResident d t && !p.features.getLsbD 0))

end Sys2Proof.Machine
end

