-- ==== Sys2Proof/Machine/ImageCheck.lean ====
section
/-! DEFINITION. Check 5 of LOAD_PROGRAM (R509), rows 1 to 4: bundles, loop descriptors, latency limits, convolution records;
and check 4 (R216). -/

namespace Sys2Proof.Machine

/-! ### Formats -/

/-- A format word's code and blocking obey R89 and R91. -/
def wordOk (w : FmtWord) : Bool :=
  decide (w.code ≤ 0xA) && w.rsv == 0 && decide (w.tag ≤ 1023) && (!w.blk16 || w.blocked) &&
    (match w.code with
     | 0x5 | 0x6 | 0x7 | 0x9 => w.blocked
     | 0x0 | 0x1 | 0x2 => !w.blocked
     | _ => true)

/-- The two rules of R91 that R38 applies: the slot's code is the word's CODE, and the word's tag and BLK16. -/
def slotWord (w : FmtWord) : Bool := decide (w.tag ≤ 1023) && (!w.blk16 || w.blocked)

/-- Formats that pair in the array (R67, R68). -/
def arrayPair (a b : Nat) : Bool :=
  let ok := fun (n : Nat) => decide (1 ≤ n) && decide (n ≤ 9)
  let int := fun (n : Nat) => decide (8 ≤ n)
  ok a && ok b && int a == int b && (a == 1) == (b == 1) && (a == 2) == (b == 2)

/-! ### Row 1: bundles -/

/-- Operands of a matrix operation that the slot's format fields describe: A, B, C. -/
def mxUses (op : Nat) (o : MxOp) : Bool × Bool × Bool :=
  match op with
  | 0x02 => (o.stat == 2, o.stat == 0, false)
  | 0x03 => (false, false, true)
  | 0x04 => (false, false, false)
  | 0x21 => (true, false, true)
  | 0x23 => (false, true, false)
  | _ => (true, true, true)

/-- The stationary format of an SLOAD that loads into the array's cells: FP32 never is one (R67, R68, R71). -/
def stationaryOk (o : MxOp) : Bool :=
  match o.stat.toNat with | 0 => o.fmtB != 0 | 2 => o.fmtA != 0 | _ => true

/-- The array formats of an operation that multiplies (R68). -/
def multiplies (op : Nat) : Bool := op == 0x01 || (decide (0x10 ≤ op) && decide (op ≤ 0x14)) || op == 0x20 || op == 0x22 || op == 0x24

/-- Format rules of an MX slot (R38, R68, R87, R91, R226). -/
def mxFormats (p : Prog) (op : Nat) (o : MxOp) : Bool :=
  let x := p.desc o.ldesc.toNat
  let (a, b, c) := mxUses op o
  decide (o.fmtA.toNat ≤ 0xA) && decide (o.fmtB.toNat ≤ 0xA) && decide (o.fmtC.toNat < 0xA) &&
    (!(multiplies op || op == 0x02) || arrayPair o.fmtA.toNat o.fmtB.toNat) && (op != 0x02 || stationaryOk o) &&
    (!a || o.fmtA.toNat == x.fa.code) && (!b || o.fmtB.toNat == x.fb.code) && (!c || o.fmtC.toNat == x.fc.code) &&
    slotWord x.fa && slotWord x.fb && slotWord x.fc && slotWord x.fp && !(op == 0x24 && o.accInto)

/-- Format rules of a VX slot (R38, R91, R129, R132). -/
def vxFormats (p : Prog) (op : Nat) (o : VxOp) : Bool :=
  let x := p.desc o.ldesc.toNat
  let (a, b) := vxUses op
  decide (o.fmtIn.toNat ≤ 0xA) && decide (o.fmtOut.toNat < 0xA) && (o.fmtIn.toNat != 0xA || op == 0x09 || op == 0x40) &&
    (op != 0x13 || o.fmtIn == 0) && (!a || o.fmtIn.toNat == x.fa.code) && (!b || o.fmtIn.toNat == x.fb.code) &&
    o.fmtOut.toNat == x.fc.code && slotWord x.fa && slotWord x.fb && slotWord x.fc && slotWord x.fp

/-- Format rules of a TX slot (R38, R91). -/
def txFormats (p : Prog) (o : TxOp) : Bool :=
  let x := p.desc o.ldesc.toNat
  decide (o.fmtIn.toNat ≤ 0xA) && decide (o.fmtOut.toNat ≤ 0xA) && o.fmtIn.toNat == x.fa.code && o.fmtOut.toNat == x.fc.code &&
    (!o.dual || o.fmtOut.toNat == x.fb.code) && slotWord x.fa && slotWord x.fb && slotWord x.fc && slotWord x.fp

/-- The words of the descriptor that a PT slot names (R91). -/
def ptFormats (p : Prog) (o : PtOp) : Bool :=
  let x := p.desc o.ldesc.toNat
  slotWord x.fa && slotWord x.fb && slotWord x.fc && slotWord x.fp

/-- A bundle of the image obeys row 1 of R509. -/
def bundleFits (p : Prog) (w : BitVec 512) : Bool :=
  let b := Bundle.of w
  bundleOk p.bundles.length w &&
    (match b.mxOp with | some (op, o) => mxFormats p op o | none => true) &&
    (match b.vxOp with | some (op, o) => vxFormats p op o | none => true) &&
    (match b.ptOp with | some (op, o) => op == 0x1A || ptFormats p o | none => true) &&
    (match b.txOp with | some (_, o) => txFormats p o | none => true)

/-- The address of the first bundle that fails a rule. -/
def firstBundle (p : Prog) (ok : BitVec 512 → Bool) : Option Nat := p.bundles.findIdx? (fun w => !ok w)

/-! ### Row 2: descriptors -/

/-- ORDER values of the levels form a permutation of 0 to LEVELS − 1 (R115). -/
def ordersOk (x : Desc) : Bool := (List.range x.levels.length).all (fun i => x.levels.any (fun l => l.order == i))

/-- A blocked operand has exactly one level on which its stride is 1 (R92). The rule is held against the word as the image has it: a
steered operand planned as BF16 is unblocked there, whatever its effective format becomes (DESIGN CHOICE, log entry 74). -/
def blockedOk (x : Desc) (w : FmtWord) (s : OpSel) : Bool := !w.blocked || (x.levels.filter (fun l => l.stride s == 1)).length == 1

/-- The reserved fields of a descriptor's bytes (R110, R111). -/
def descClean (l : List Byte) : Bool :=
  let n := leAt l 0 1
  leAt l 1 1 / 4 == 0 && leAt l 2 1 / 64 == 0 && zerosAt l 3 1 && zerosAt l 6 2 && zerosAt l 168 24 &&
    (n == 0 || decide (6 < n) || zerosAt l (24 + 24 * n) (24 * (6 - n))) &&
    (List.range (min n 6)).all (fun i => leAt l (24 + 24 * i) 4 / 2 ^ 29 == 0 && leAt l (24 + 24 * i + 6) 2 / 2 ^ 11 == 0)

/-- The entry of the policy that a steered word names is in use (R106). Whether the entry's PLANNED is the word's CODE is not looked at:
the spec names no refusal for it (R105; DESIGN CHOICE, log entry 75). -/
def steerOk (pol : Tab (BitVec 128)) (w : FmtWord) : Bool := !w.steered || Tab.get 0 pol w.mapIndex != 0

/-- The general rules of R115; `pre` says whose strides the preload operand uses (R112). -/
def ldescOk (pol : Tab (BitVec 128)) (pre : OpSel) (l : List Byte) : Bool :=
  let x := Desc.ofBytes l
  let n := x.levels.length
  let role := fun (o : Nat) => (x.levels.find? (fun l => l.order == o)).map (·.role)
  let lists := x.levels.filter (·.plist)
  descClean l && decide (1 ≤ leAt l 0 1) && decide (leAt l 0 1 ≤ 6) && ordersOk x &&
    x.levels.all (fun z => decide (1 ≤ z.tile) && decide (z.tile ≤ 4096) && (z.strideAcc == 0 || decide (z.role ≤ 1))) &&
    x.curve != 3 && !(decide (x.curve ≤ 1) && decide (2 ≤ n) && (role (n - 1) == some 2 || role (n - 2) == some 2)) &&
    decide (lists.length ≤ 1) && lists.all (fun z => z.role == 3) &&
    (if lists.isEmpty then x.plistLen == 0 else decide (1 ≤ x.plistLen) && decide (x.plistLen ≤ 4096)) &&
    decide ((x.levels.filter (·.split)).length ≤ 1) &&
    wordOk x.fa && wordOk x.fb && wordOk x.fc && wordOk x.fp &&
    blockedOk x x.fa .a && blockedOk x x.fb .b && blockedOk x x.fc .c && blockedOk x x.fp pre &&
    steerOk pol x.fa && steerOk pol x.fb && steerOk pol x.fc && steerOk pol x.fp

def countRole (x : Desc) (r : Nat) : Nat := (x.levels.filter (fun l => l.role == r)).length
/-- Block size of a word. -/
def blkOf (w : FmtWord) : Nat := if w.blk16 then 16 else 32

/-- Roles and split of an MX descriptor (R115). The K level of ATTN_FIN has another ORDER than 0, which R227 gives to the parts. -/
def mxRoles (op : Nat) (x : Desc) : Bool :=
  countRole x 0 == 1 && countRole x 1 == 1 && countRole x 2 == 1 &&
    (op == 0x21 || (match levelOf x 2 with | some l => l.order == 0 | none => false)) &&
    x.levels.all (fun l => (l.role != 3 || l.tile == 1) && (!l.split || l.role == 0))

/-- The MX tile limits (R115), but for those that depend on the block count. -/
def mxTiles (o : MxOp) (x : Desc) : Bool :=
  let m := roleTile x 0
  let n := roleTile x 1
  let k := decide (roleTile x 2 ≤ depthOf o.fmtA.toNat o.fmtB.toNat)
  match o.stat.toNat with
  | 0 => decide (m ≤ 4096) && decide (n ≤ 128) && k
  | 1 => decide (m ≤ 128) && decide (n ≤ 128)
  | _ => decide (m ≤ 128) && decide (n ≤ 4096) && k

/-- An operand is blocked along the level of a role. -/
def blockedAlong (x : Desc) (w : FmtWord) (s : OpSel) (r : Nat) : Bool :=
  !w.blocked || x.levels.any (fun l => l.role == r && l.stride s == 1)

/-- An output with M innermost has TILE_M a multiple of its block (R151). -/
def mInner (x : Desc) : Bool :=
  !(x.fc.blocked && x.levels.any (fun l => l.role == 0 && l.strideC == 1)) || roleTile x 0 % blkOf x.fc == 0

/-- The descriptor rules of attention (R220, R226, R227, R237). -/
def attnDesc (op : Nat) (q : AttnRec) (x : Desc) : Bool :=
  let xs := (x.levels.filter (fun l => l.role == 3))
  let first := xs.foldl (fun (b : Option Level) l => match b with
    | some z => if l.order < z.order then some l else some z | none => some l) none
  let top := fun (r : Nat) => match levelOf x r with | some l => decide (l.bound ≤ 4194304) | none => true
  (match levelOf x 1 with
   | some l => l.bound == q.dim && l.tile == q.dim && (q.dim == 64 || q.dim == 128) && l.strideA == 1 && l.strideB == 1 && l.strideC == 1 &&
      l.strideAcc == 1
   | none => false) &&
    roleTile x 2 == 128 && top 0 && top 2 &&
    x.levels.all (fun l => l.role == 1 || l.strideC % (q.dim : Int) == 0) &&
    (op != 0x21 || (match first with | some l => l.order == 0 && !l.split | none => false)) &&
    decide (roleTile x 0 ≤ 2048) && (op != 0x24 || roleTile x 0 == 1)

/-- A matrix operation accepts the descriptor it names. -/
def mxDesc (p : Prog) (op : Nat) (o : MxOp) : Bool :=
  let x := p.desc o.ldesc.toNat
  let one := op == 0x03 || op == 0x04
  let unsplit := !x.levels.any (·.split)
  mxRoles op x &&
    (if 0x20 ≤ op then attnDesc op (AttnRec.ofBytes (p.attn.getD o.baseM.toNat [])) x else mxTiles o x) &&
    (!unsplit || blockRules x 1 op one o) &&
    (op != 0x01 || (blockedAlong x x.fa .a 2 && blockedAlong x x.fb .b 2 && mInner x))

/-- A vector operation accepts its descriptor (R115, R132). -/
def vxDesc (p : Prog) (op : Nat) (o : VxOp) : Bool :=
  let x := p.desc o.ldesc.toNat
  x.levels.all (fun l => l.strideAcc == 0) &&
    (op != 0x13 || (match levelOf x 3 with | some l => l.order == 0 && !l.split | none => false))

/-- The tensor's element bits that the porter's tile limit counts (R115). -/
def ptBitsOf (op : Nat) (x : Desc) : Nat := if op = 0x03 ∨ op = 0x23 then codeBits x.fc.code else codeBits x.fa.code

/-- COPY's rule (R275). -/
def copyDesc (x : Desc) : Bool :=
  x.fa.code == x.fc.code && x.fa.blocked == x.fc.blocked && x.fa.blk16 == x.fc.blk16 &&
    (!x.fa.blocked || x.levels.any (fun l => l.strideA == 1 && l.strideC == 1 && !l.split && l.tile % blkOf x.fa == 0))

/-- A porter operation accepts its descriptor (R115, R274, R275, R300, R327). -/
def ptDesc (p : Prog) (op : Nat) (o : PtOp) : Bool :=
  let x := p.desc o.ldesc.toNat
  let frc := o.frc.toNat
  let coded := decide (1 ≤ frc) && decide (frc ≤ 4)
  if op = 0x1A then frc == 0
  else
    x.levels.all (fun l => l.strideAcc == 0) &&
    decide (x.levels.foldl (fun acc l => acc * l.tile) 1 * ptBitsOf op x ≤ 8 * 65536) &&
    (match op with
     | 0x01 | 0x10 => frc == 0 && copyDesc x
     | 0x02 => coded && x.fa.code != 0xA && x.levels.all (fun l => l.strideC == 0)
     | 0x03 => coded && !x.fc.blocked && x.fc.code != 0xA && x.levels.all (fun l => l.strideA == 0)
     | 0x04 => frc == 0 && x.fa == x.fc && !x.levels.any (·.split)
     | 0x18 | 0x19 => frc == 0 && x.fa.code == 0 && !x.fa.blocked
     | _ => true)

/-- A transpose operation accepts its descriptor (R137, R138). -/
def txDesc (p : Prog) (op : Nat) (o : TxOp) : Bool :=
  let x := p.desc o.ldesc.toNat
  x.levels.all (fun l => l.strideAcc == 0 && (decide (2 ≤ l.order) || decide (l.tile ≤ 128))) &&
    decide (x.levels.foldl (fun acc l => acc * l.tile) 1 * 4 ≤ 65536) &&
    (op != 0x01 || !x.fc.blocked || !x.fa.blocked || x.levels.all (fun l => (l.strideA == 1) == (l.strideC == 1))) &&
    (!o.dual || (op == 0x01 && decide (o.fmtOut.toNat ≤ 1) && !x.fc.blocked && !x.fb.blocked && o.fmtIn.toNat != 0xA))

/-- Whose strides the preload operand of a descriptor uses: a bias vector's where an operation with PRELOAD = 1 names it, otherwise C's
(R112). -/
def preloadSel (p : Prog) (i : Nat) : OpSel :=
  if p.bundles.any (fun w => match (Bundle.of w).mxOp with | some (_, o) => o.ldesc.toNat == i && o.preload == 1 | none => false) then .bias
  else .c

/-- The descriptors that a bundle's operations name, each with whether the operation accepts it. -/
def descUses (p : Prog) (b : Bundle) : List (Nat × Bool) :=
  (match b.mxOp with | some (op, o) => [(o.ldesc.toNat, mxDesc p op o)] | none => []) ++
    (match b.vxOp with | some (op, o) => [(o.ldesc.toNat, vxDesc p op o)] | none => []) ++
    (match b.ptOp with | some (op, o) => [(o.ldesc.toNat, ptDesc p op o)] | none => []) ++
    (match b.txOp with | some (op, o) => [(o.ldesc.toNat, txDesc p op o)] | none => [])

/-- The first descriptor that breaks a rule: one that the section holds, or one that an operation names. -/
def firstDesc (pol : Tab (BitVec 128)) (l : List Byte) (p : Prog) : Option Nat :=
  let uses := p.bundles.flatMap (fun w => descUses p (Bundle.of w))
  (List.range 64).find? (fun i =>
    let mine := uses.filter (fun u => u.1 == i)
    ((decide (i < p.descs.length) || !mine.isEmpty) && !ldescOk pol (preloadSel p i) (rawDesc l i)) || mine.any (fun u => !u.2))

/-! ### Row 3: latency limits -/

/-- The operations of a bundle keep within 19,800 fabric cycles (R141, R222). -/
def latencyFits (g : Grade) (p : Prog) (w : BitVec 512) : Bool :=
  let b := Bundle.of w
  (match b.vxOp with | some (op, o) => decide (vxLatency p op o ≤ 19800) | none => true) &&
    (match b.txOp with | some (_, o) => decide (txLatency p o ≤ 19800) | none => true) &&
    (match b.mxOp with | some (op, o) => !decide (0x20 ≤ op) || decide (attnLatency g p op o ≤ 19800) | none => true)

/-! ### Check 4 and row 4: convolution records -/

/-- The filter limits of check 4 (R216). -/
def firstLarge (p : Prog) : Option Nat :=
  p.conv.findIdx? (fun l => decide (7 < leAt l 0 1) || decide (11 < leAt l 1 1) || decide (11 < leAt l 2 1))

/-- Ranges and reserved fields of a record (R204); `wino` whether Winograd operations, and no others, name it. -/
def convOk (l : List Byte) (wino : Bool) : Bool :=
  let b := fun o => leAt l o 1
  let within := fun (o hi : Nat) => decide (1 ≤ b o) && decide (b o ≤ hi)
  within 0 7 && within 1 11 && within 2 11 && b 3 == 0 && within 4 8 && within 5 16 && within 6 16 && b 7 == 0 && within 8 255 &&
    within 9 255 && within 10 255 && b 11 == 0 && b 15 == 0 && zerosAt l 56 8 && (wino || zerosAt l 52 4)

/-- The levels that count batches: the third and later X levels from inner to outer (R205). -/
def batchOrders (x : Desc) : List Nat :=
  (((x.levels.filter (fun l => l.role == 3)).map (·.order)).mergeSort).drop 2

/-- The rules of R205, R206 and R213 that an operation sets for the record it names. A steered A is refused, for its effective format may
be blocked (R105; DEDUCED, log entry 76). -/
def convUse (p : Prog) (op : Nat) (o : MxOp) (l : List Byte) : Bool :=
  let x := p.desc o.ldesc.toNat
  let c := ConvRec.ofBytes l
  let batch := batchOrders x
  let wino := op == 0x12 || op == 0x13
  let n := if op = 0x12 then 4 else 2
  let row := (((x.levels.filter (fun l => l.role == 3)).map (·.order)).mergeSort).head?
  let bound := fun (f : Level → Bool) => match x.levels.find? f with | some z => z.bound | none => 1
  (o.stat == 0 || (op == 0x14 && o.stat == 2)) &&
    x.levels.all (fun z => z.strideA == 0 || batch.contains z.order) &&
    !x.fa.blocked && !x.fa.steered && (x.fa.code == 1 || x.fa.code == 2 || x.fa.code == 3 || x.fa.code == 4 || x.fa.code == 8) &&
    (!wino || (c.fh == 3 && c.fw == 3 && c.sh == 1 && c.sw == 1 && c.dh == 1 && c.dw == 1 && !o.accInto && decide (o.preload.toNat ≤ 1) &&
      decide (roleTile x 1 ≤ 128) && (x.levels.any (·.split) || oneTile x 1) && decide (roleTile x 0 ≤ (if op = 0x12 then 240 else 819)) &&
      decide (ceilDiv c.ow n ≤ bound (fun z => z.role == 0)) &&
      decide (ceilDiv c.oh n ≤ bound (fun z => z.role == 3 && some z.order == row))))

/-- The convolution operations of a program with the records they name. -/
def convOps (p : Prog) : List (Nat × MxOp) :=
  p.bundles.filterMap (fun w => (Bundle.of w).mxOp.filter (fun (u : Nat × MxOp) => decide (0x10 ≤ u.1) && decide (u.1 ≤ 0x14)))

/-- The first convolution record that breaks a rule; a named record that the section does not hold reads as zeros. -/
def firstConv (p : Prog) : Option Nat :=
  let ops := convOps p
  (List.range 64).find? (fun i =>
    let l := p.conv.getD i []
    let mine := ops.filter (fun u => u.2.baseM.toNat == i)
    (decide (i < p.conv.length) || !mine.isEmpty) &&
      (!convOk l (!mine.isEmpty && mine.all (fun u => u.1 == 0x12 || u.1 == 0x13)) || mine.any (fun u => !convUse p u.1 u.2 l)))

end Sys2Proof.Machine
end

