-- ==== Sys2Proof/Machine/Load.lean ====
section
/-! DEFINITION. LOAD_PROGRAM (15_host_commands.md R364, R365, R508, R509): rows 5 to 11 of check 5, checks 6 and 7, and what a
loaded image leaves. -/

namespace Sys2Proof.Machine

/-! ### Row 5: attention records (R219, R237) -/

/-- The attention operations of a program. -/
def attnOps (p : Prog) : List (Nat × MxOp) :=
  p.bundles.filterMap (fun w => (Bundle.of w).mxOp.filter (fun (u : Nat × MxOp) => decide (0x20 ≤ u.1)))

def attnOk (l : List Byte) (ops : List Nat) : Bool :=
  let b := fun o => leAt l o 1
  let hq := b 0; let hkv := b 1; let m := field (b 3) 1 0
  let dec := ops.contains 0x24
  decide (1 ≤ hq) && decide (hq ≤ 64) && decide (1 ≤ hkv) && decide (hkv ≤ 64) && hq % hkv == 0 && decide (hq / hkv ≤ 16) &&
    (b 2 == 64 || b 2 == 128) && m != 3 && decide (b 3 < 8) &&
    (m != 2 || (decide (1 ≤ leAt l 8 4) && decide (leAt l 8 4 ≤ 4194304))) &&
    (!bit (b 3) 2 || (decide (1 ≤ leAt l 12 4) && decide (leAt l 12 4 ≤ 4194304))) &&
    decide (b 16 < 32) && decide (b 17 < 32) && decide (b 18 < 32) && (b 19 == 1 || b 19 == 3) && decide (b 20 < 4) &&
    (if dec || ops.contains 0x23 then decide (1 ≤ b 21) && decide (b 21 ≤ 128) else b 21 == 0) &&
    zerosAt l 22 2 && zerosAt l 36 28 && (List.range 8).all (fun i => decide (b (24 + i) < 64)) && (!dec || m == 1 || m == 2)

def firstAttn (p : Prog) : Option Nat :=
  let ops := attnOps p
  (List.range 64).find? (fun i =>
    let mine := (ops.filter (fun u => u.2.baseM.toNat == i)).map Prod.fst
    (decide (i < p.attn.length) || !mine.isEmpty) && !attnOk (p.attn.getD i []) mine)

/-! ### Row 7: objects (R280) -/

def inSram (a : Nat) : Bool := decide (a < 0x200000000)

/-- The whole object lies in one of the context's SRAM shares (R508). -/
def sramFits (p : Prog) (a n : Nat) : Bool :=
  let inside := fun (s : Nat × Nat) => decide (s.1 ≤ a) && decide (a + n ≤ s.1 + s.2)
  if a < 0x100000000 then inside (p.slotShare.getD (a / 0x02000000) (0, 0))
  else inside (p.clusterShare.getD ((a - 0x100000000) / 0x10000000) (0, 0))

def objectOk (p : Prog) (es : List ObjEntry) (i : Nat) (e : ObjEntry) : Bool :=
  let comp := e.cls == 1
  let stackName := decide (stackBase ≤ e.name) && decide (e.name < 0x11000000000)
  decide (1 ≤ e.size) && decide (e.number ≤ 1023) && decide (e.cls ≤ 1) && decide (e.hint ≤ 5) && decide (e.base < 64) && decide (e.die ≤ 3) &&
    e.rsv == 0 && (e.die == 0 || (comp && stackName)) && !(es.take i).any (fun z => z.number == e.number) &&
    (!comp || (e.name % unit64 == 0 && (isName e.name || (inSram e.name && e.hint == 0 && sramFits p e.name (roundSize e.size)))))

def firstObject' (p : Prog) (es : List ObjEntry) : Option Nat := es.zipIdx.findIdx? (fun q => !objectOk p es q.2 q.1)

/-! ### Row 8: reduction descriptors (R326) -/

def redOk (l : List Byte) : Bool :=
  let w := FmtWord.ofNat (leAt l 24 4)
  let f := (w.code == 3 && w.blocked && !w.blk16) || (w.code == 1 && !w.blocked && !w.blk16)
  decide (1 ≤ leAt l 0 8) && decide (leAt l 0 8 ≤ 25769803776) && f && leAt l 48 16 != 0 &&
    decide (leAt l 32 2 ≤ 4095) && decide (leAt l 34 2 ≤ 4095) && decide (leAt l 36 2 ≤ 4095) &&
    leAt l 8 8 % 4096 == 0 && leAt l 16 8 % 4096 == 0

/-! ### Row 9: barrow and checkpoint placement (R156, R173) -/

/-- The barrow registers of a slot's placement record (R176). -/
def barrowOf (l : List Byte) : Barrow :=
  let win := leAt l 0 8; let cap := leAt l 16 8
  { winBase := field win 47 0, winUnits := field win 56 48, spillBase := field (leAt l 8 8) 47 0, capUnits := field cap 23 0
    spillMark := field cap 32 24, refillMark := field cap 41 33, accSave := field (leAt l 24 8) 47 0 }

def barrowOk (p : Prog) (es : List ObjEntry) (k : Nat) (b : Barrow) : Bool :=
  let (base, n) := p.slotShare.getD k (0, 0)
  let n := if p.features.getLsbD 0 then n - saveAreaBytes else n
  let win := b.winUnits * unit64
  b.accSave % 4096 == 0 && (b.winUnits == 0 || !meets b.accSave 0x200000 b.winBase win) &&
    (b.winUnits == 0 ||
      (decide (2 ≤ b.winUnits) && decide (b.winUnits ≤ 384) && b.winBase % unit64 == 0 && decide (base ≤ b.winBase) &&
        decide (b.winBase + win ≤ base + n) && b.spillBase % unit64 == 0 &&
        es.any (fun e => e.cls == 1 && e.die == k / 32 && decide (stackBase ≤ e.name) && decide (e.name < 0x11000000000) &&
          decide (e.name ≤ b.spillBase) && decide (b.spillBase + b.capUnits * unit64 ≤ e.name + roundSize e.size)) &&
        decide (b.refillMark < b.spillMark) && decide (b.spillMark ≤ b.winUnits)))

/-- The record of slot `k`; all zeros where the section does not hold it: no barrow and no checkpoint area. -/
def placementOf (p : Prog) (k : Nat) : List Byte := slice p.placement (32 * k) 32

def firstBarrow (p : Prog) (es : List ObjEntry) : Option Nat :=
  (List.range 128).find? (fun k => !zerosAt (placementOf p k) 0 32 && !barrowOk p es k (barrowOf (placementOf p k)))

/-! ### Row 10: pitch pools (R231) -/

/-- The pool that an image describes (R231, R246). -/
def poolOf (q : PoolPlace) : Pool :=
  let g := q.geom.toNat
  { table := q.table.toNat, seq := q.seq.toNat, seqs := q.seqs, pitches := field g 20 0, sramPitches := field g 41 21
    layers := field g 49 42, hkv := field g 56 50, d128 := bit g 57, fmt := field g 61 58, sramAt := q.sramAt.toNat
    stackAt := q.stackAt.toNat }

/-- Two pools have one geometry (R231). -/
def sameGeom (a b : Pool) : Bool :=
  a.table == b.table && a.seq == b.seq && a.seqs == b.seqs && a.pitches == b.pitches && a.sramPitches == b.sramPitches &&
    a.layers == b.layers && a.hkv == b.hkv && a.d128 == b.d128 && a.fmt == b.fmt && a.sramAt == b.sramAt && a.stackAt == b.stackAt

def poolOk (d : Dev) (q : PoolPlace) : Bool :=
  let p := poolOf q
  decide (1 ≤ p.pitches) && decide (p.pitches ≤ 1048576) && decide (p.sramPitches ≤ p.pitches) && decide (1 ≤ p.layers) &&
    decide (1 ≤ p.hkv) && decide (p.hkv ≤ 64) && (p.fmt == 1 || p.fmt == 3 || p.fmt == 4) && field q.geom.toNat 63 62 == 0 &&
    decide (1 ≤ p.seqs) && decide (p.seqs ≤ 4096) && p.pitchBytes % 4096 == 0 &&
    ((d.pool q.pool.val).attach == 0 || sameGeom p (d.pool q.pool.val))

/-- The pools that the image names: none without a section of type 10. -/
def imagePools (p : Prog) (pl : Places) : List PoolPlace := if p.pools.isEmpty then [] else pl.pools

def firstPool (d : Dev) (qs : List PoolPlace) : Option Nat :=
  (List.range 4).find? (fun n =>
    let mine := qs.filter (fun q => q.pool.val == n)
    decide (2 ≤ mine.length) || mine.any (fun q => !poolOk d q))

/-! ### Row 11: SRAM shares (R508) -/

def slotShareOk (p : Prog) (k : Nat) : Bool :=
  let (b, n) := p.slotShare.getD k (0, 0)
  n == 0 || (decide (localBase k ≤ b) && decide (b + n ≤ localBase k + 0x02000000) && !(p.features.getLsbD 0 && decide (n ≤ saveAreaBytes)))

def clusterShareOk (p : Prog) (c : Nat) : Bool :=
  let (b, n) := p.clusterShare.getD c (0, 0)
  n == 0 || (decide (sharedBase c ≤ b) && decide (b + n ≤ sharedBase c + sharedSize - 0x400000))

def firstShare (p : Prog) : Option Nat :=
  ((List.range 128).find? (fun k => !slotShareOk p k)).or
    (((List.range 16).find? (fun c => !clusterShareOk p c)).map (0x80 + ·))

/-! ### The checks in order -/

/-- The policy that the load would leave: the ledger's copy for the digest if there is one, else the image's (R106). -/
def loadPolicy (d : Dev) (l : List Byte) : Tab (BitVec 128) :=
  let es := match d.ledger.policy.find? (fun q => q.1 == sha3 l) with | some q => q.2 | none => imagePolicy l
  Tab.setMany 0 [] 0 (es.take 64)

/-- FMT_B of KV_APPEND and ATTN_DEC is the format of the pool that their record names (R220; that a load refuses it under row 1 is
DEDUCED, log entry 77). -/
def poolFormats (p : Prog) (qs : List PoolPlace) (w : BitVec 512) : Bool :=
  match (Bundle.of w).mxOp with
  | some (op, o) =>
    !(op == 0x23 || op == 0x24) ||
      (match qs.find? (fun q => q.pool.val == leAt (p.attn.getD o.baseM.toNat []) 20 1 % 4) with
       | some q => o.fmtB.toNat == (poolOf q).fmt
       | none => true)
  | none => true

/-- Check 5: the detail word of the first failing rule (R509). -/
def imageFault (d : Dev) (l : List Byte) (p : Prog) (pl : Places) : Option Nat :=
  let es := objEntries p.objects pl.names
  (firstBundle p (fun w => bundleFits p w && poolFormats p (imagePools p pl) w)).or <|
  ((firstDesc (loadPolicy d l) l p).map (0x80000000 + ·)).or <|
  (firstBundle p (latencyFits d.grade p)).or <|
  ((firstConv p).map (0x40000000 + ·)).or <|
  ((firstAttn p).map (0x41000000 + ·)).or <|
  (((imagePolicy l).findIdx? (fun e => !policyOk e)).map (0x50000000 + ·)).or <|
  ((firstObject' p es).map (0x51000000 + ·)).or <|
  (((records 64 p.reductions).findIdx? (fun r => !redOk r)).map (0x52000000 + ·)).or <|
  ((firstBarrow p es).map (0x53000000 + ·)).or <|
  ((firstPool d (imagePools p pl)).map (0x54000000 + ·)).or <|
  (firstShare p).map (0x55000000 + ·)

/-- The hint an object is placed by: the host's for the context, else the image's (R280, R281). -/
def hintOf (d : Dev) (t : CtxId) (e : ObjEntry) : Nat := (Tab.get none (d.ctx t).hints e.number).getD e.hint

/-- Bytes of stack memory that an object needs on a die (R280, R281). -/
def stackNeed (d : Dev) (t : CtxId) (die : Nat) (e : ObjEntry) : Nat :=
  if e.cls = 1 then
    if stackBase ≤ e.name ∧ e.name < 0x11000000000 ∧ e.die = die then roundSize e.size else 0
  else ((hintHomes (hintOf d t e) e.size).map (fun q => if q.1 = some die then q.2 else 0)).foldl (· + ·) 0

/-- The capacity of a die's stacks in the shape table (R22, R26). -/
def dieCapacity (d : Dev) (die : Nat) : Nat := (slice' d.shape.stackCap die).foldl (· + ·) 0
  where slice' (l : List Nat) (die : Nat) : List Nat := (l.drop (3 * die)).take 3

/-- Check 6 (R26). -/
def overCapacity (d : Dev) (t : CtxId) (es : List ObjEntry) : Bool :=
  [0, 1, 2, 3].any (fun die => decide (dieCapacity d die < (es.map (stackNeed d t die)).foldl (· + ·) 0))

/-- Bundles of the resident programs (R46). -/
def residentBundles (d : Dev) : Nat :=
  (allCtx.map (fun t => match (d.ctx t).prog with | some p => p.bundles.length | none => 0)).foldl (· + ·) 0

/-- A share meets a share of another resident context (R508). -/
def sharesMeet (d : Dev) (t : CtxId) (p : Prog) : Bool :=
  allCtx.any (fun u => u != t && (match (d.ctx u).prog with
    | some q =>
      (List.zip (p.slotShare ++ p.clusterShare) (q.slotShare ++ q.clusterShare)).any (fun z =>
        decide (z.1.2 ≠ 0) && decide (z.2.2 ≠ 0) && meets z.1.1 z.1.2 z.2.1 z.2.2)
    | none => false))

/-- Allocate one object, or join the one that another loaded program has allocated at the same name with the same size
(R280). -/
def allocObject (t : CtxId) (e : ObjEntry) (d : Dev) : Option Dev :=
  if e.cls = 1 then
    match (liveHomes d).find? (fun h => h.2.compiler && h.2.name == e.name && h.2.size == roundSize e.size) with
    | some (i, _) => some (d.modHome i (fun h => { h with contexts := h.contexts ||| BitVec.ofNat 16 (2 ^ t.val) }))
    | none => allocCompiler t e.number e.name e.die e.size d
  else allocUser t e.number (hintOf d t e) e.size d

def allocObjects (t : CtxId) (es : List ObjEntry) (d : Dev) : Option Dev :=
  es.foldl (fun (acc : Option Dev) e => acc.bind (allocObject t e)) (some d)

/-- Attach a pool, which its first image creates: every pitch FREE, in pitch-number order (R231, R232). -/
def attachPool (t : CtxId) (q : PoolPlace) (d : Dev) : Dev :=
  let n := q.pool.val
  let bit : BitVec 16 := BitVec.ofNat 16 (2 ^ t.val)
  if (d.pool n).attach ≠ 0 then d.modPool n (fun z => { z with attach := z.attach ||| bit })
  else
    let p := poolOf q
    let d := d.modPool n (fun _ => { p with attach := bit })
    (List.range p.pitches).foldl (fun d i =>
      let sram := decide (i < p.sramPitches)
      let e : PitchE := {
        addr := if sram then p.sramAt + i * p.pitchBytes else p.stackAt + (i - p.sramPitches) * p.pitchBytes
        refs := 0, state := 0, home := b2n (!sram), first := 0, owner := 0, stamp := 0 }
      hubWr (p.table + 32 * i) e.bytes d) d

/-- What a load leaves in its context (R44, R106, R156, R173, R192, R281, R365). -/
def installProg (t : CtxId) (l : List Byte) (p : Prog) (d : Dev) : Dev :=
  let pol := loadPolicy d l
  let d := d.modCtx t (fun c => {
    prog := some p, policy := pol, lastRecorded := c.lastRecorded, ckptCount := c.ckptCount, lastCkpt := c.lastCkpt
    slots := (List.range 128).foldl (fun m k => Tab.set {} m k { bar := barrowOf (placementOf p k) }) [] })
  { d with health := d.health.filter (fun (h : Nat × Health) => h.1 / 1024 ≠ t.val) }

/-- LOAD_PROGRAM (R365). Which word a failure of check 6 or 7 returns is open. -/
def loadProgram (t : CtxId) (image : List Byte) (bytes : Nat) (digest : BitVec 256) (pl : Places) (d : Dev) : Dev :=
  let n := taskTill t
  if !executing d n 0x0100 then d
  else if (d.ctx t).phase ≠ .idle then finish n .busy (some 0x00020000) none d
  else
    let d := if (d.ctx t).prog.isSome then unload t d else d
    match formFault image bytes digest with
    | some w => finish n .badParam (some w) none d
    | none =>
      let p := progOf image pl.names
      let es := objEntries p.objects pl.names
      match featureFault d t image p with
      | some b => finish n .notNegotiated (some b) none d
      | none =>
        match firstLarge p with
        | some i => finish n .filterTooLarge (some i) none d
        | none =>
          match imageFault d image p pl with
          | some w => finish n .badParam (some w) none d
          | none =>
            if overCapacity d t es then finish n .capacityShrunk none none d
            else if 65536 < residentBundles d + p.bundles.length ∨ sharesMeet d t p then finish n .busy none none d
            else match allocObjects t es d with
              | none => finish n .busy none none d
              | some a =>
                let a := installProg t image p ((imagePools p pl).foldl (fun d q => attachPool t q d) a)
                finish n .ok none (some (65536 - residentBundles a)) (mirror a)

def execLoadProgram (t : CtxId) (image : List Byte) (bytes : BitVec 64) (digest : BitVec 256) (places : Places) (s : State) : Res :=
  s.upd (loadProgram t image bytes.toNat digest places)

end Sys2Proof.Machine
end

