-- ==== Sys2Proof/Machine/Resets.lean ====
section
/-! DEFINITION. Resets, the ledger restore and start-up (20_power_clocks_reset.md R462, R467 to R474; 17_firmware.md R418, R424;
22_package.md R497 to R500). -/

namespace Sys2Proof.Machine

def Dev.modPwr (d : Dev) (f : Power → Power) : Dev := { d with pwr := f d.pwr }

/-! ### A compute die -/

/-- A task has started and not ended, nor is it aborting already (R469). -/
def begun (c : Ctx) : Bool := c.phase == .ready || c.phase == .running

/-- Every task that has started and not ended aborts with INTERNAL, and a replay or a pre-emption's drain ends (R418, R469,
R474): a task whose END bundle has issued too, for its operations end without their results (DEDUCED, log entry 64). The detail
word is open. -/
def abortBegun (d : Dev) : Dev :=
  let d := { d with seq := { d.seq with
      replay := none, dispatch := none, adopt := [], preempt := match d.seq.preempt with | .draining _ => .none | p => p } }
  allCtx.foldl (fun d t =>
    if begun (d.ctx t) then
      let (g, d) := useFree 32 d
      abortTask t .internal g (d.modCtx t (fun c => { c with ended := false }))
    else d) d

/-- The operations of a die's engines and porters end without work (R418, R469): its cores are as after reset. -/
def dieWork (x : Nat) (d : Dev) : Dev :=
  let ks := which 128 (fun k => k / 32 == x)
  { d with
    cores := d.cores.filter (fun (p : Nat × Core) => p.1 / 36 ≠ x)
    ctxs := Tab.mapAll {} d.ctxs (fun (c : Ctx) => { c with
      slots := Tab.modMany {} c.slots ks (fun _ s => { s with mxWait := [], sloadOut := 0, bar := { s.bar with armed := [] } }) })
    seq := { d.seq with stall := Tab.set 0 d.seq.stall x 0, hold := Tab.set 0 d.seq.hold x 0 } }

/-- A stack goes into self-refresh; its controller's counts and taster are as after reset (R467, R469). -/
def refreshStack (s : Nat) (d : Dev) : Dev :=
  d.modStk s (fun z => { chans := z.chans, trained := z.trained, resilver := z.resilver, exposedFrom := z.exposedFrom, refresh := true })

/-- A die stops (R255, R469): the writes its stacks have under way are cut short and their lines repaired, its work ends, its ports
go down, its stacks enter self-refresh, its codec streams stop with reason 10. -/
def dieStop (x : Nat) (d : Dev) : Dev :=
  let d := [0, 1, 2].foldl (fun d i => repairLines (3 * x + i) (cutWrites (3 * x + i) d)) d
  let d := pruneIntent (dieWork x d)
  let d := (List.range 6).foldl (fun d i =>
    (portLeaves false (6 * x + i) d).modPort (6 * x + i) (fun y => { state := y.state, spareUsed := y.spareUsed })) d
  let d := [0, 1, 2].foldl (fun d i => refreshStack (3 * x + i) d) d
  let d := (List.range 16).foldl (fun d s => if (d.stream x s).state = 1 then stopOpen x s 10 d else d) d
  d.modCodec x (fun c => { streams := c.streams, held := c.held })

/-- The die crier leaves service in a state: off, or booting (R411, R430). -/
def dieCrierTo (x st : Nat) (d : Dev) : Dev :=
  if h : x < 4 then
    clearCrierEn (BitVec.ofNat 8 (2 ^ (4 + x))) (d.modCrier ⟨4 + x, by omega⟩ (fun c => { c with state := st, lastBeat := none }))
  else d

/-- A die reset (R469). -/
def resetDie (x : Nat) (d : Dev) : Dev :=
  let d := dieCrierTo x 1 (dieStop x (abortBegun d))
  d.modPwr (fun p => { p with
    darkValid := false, dieDown := Tab.set false p.dieDown x true, dieResets := p.dieResets + 1, dieResetAt := Tab.set 0 p.dieResetAt x d.wall })

/-- DIE_RESET (R469, R476): by hardware, or by a write of RESET_CTRL.DIE. -/
def execDieReset (src : Option Source) (x : DieId) (s : State) : Res :=
  s.upd (fun d => match src with
    | none => resetDie x.val d
    | some w => hubWrite w (resetDie x.val) d)

/-- THERMAL_TRIP (R418, R499): the dies' clocks stop and they are held in reset; source 97 is raised. -/
def thermalTrip (x : Nat) (temp : BitVec 8) (d : Dev) : Dev :=
  let d := d.modAwning (fun a => { a with temp := Tab.set 0 a.temp x temp.toNat })
  if temp.toNat < 115 ∨ d.awning.tripped then d
  else
    let d := [0, 1, 2, 3].foldl (fun d y => dieCrierTo y 0 (dieStop y d)) (abortBegun d)
    let d := d.modAwning (fun a => { a with tripped := true })
    let d := d.modPwr (fun p => { p with dieDown := [(0, true), (1, true), (2, true), (3, true)], thermtripN := false })
    raiseEvent 97 (awningStatus d) d

def execThermalTrip (x : DieId) (temp : BitVec 8) (s : State) : Res := s.upd (thermalTrip x.val temp)

/-! ### Resets that reach the hub -/

/-- What a reset records of itself (R476). -/
structure ResetInfo where
  kind : Nat
  sag : Option (Nat × Nat) := none
  commit : Bool := false

/-- A warm or package soft reset (R467, R472): everything but the always-on domain, the ledger, the fuses and the error capture
queue is as after reset; a commit that had begun has completed. `held` keeps the package in reset; a package soft reset leaves
the CXL link and the configuration space alone, and cannot clear a trip. Memory of the host tier is the host's. -/
def hubReset (i : ResetInfo) (held soft : Bool) (d : Dev) : Dev :=
  let tripped := d.awning.tripped && (soft || [0, 1, 2, 3].any (fun x => decide (95 ≤ Tab.get 0 d.awning.temp x)))
  { grade := d.grade, wall := d.wall, freeIdx := d.freeIdx, readData := d.readData, logged := d.logged
    evt := { messages := d.evt.messages }
    err := { queue := d.err.queue, overflow := d.err.overflow, nextIndex := d.err.nextIndex }
    lease := { d.lease with
      valid := false, window := false, reqA := false, reqB := false, lastRenewal := none, mirrorWritten := 0, mirrorApplied := 0 }
    fw := { d.fw with phase := 0 }
    awning := { d.awning with tripped := tripped }
    ledger := { d.ledger with pending := [], configValid := false, factory := false }
    pwr := {
      kind := i.kind
      rail := match i.sag with | some s => s.1 | none => d.pwr.rail
      sagDie := match i.sag with | some s => s.2 | none => d.pwr.sagDie
      commitFinished := i.commit, resetLow := held, starting := !held, locked := if held then 0 else 0x3FF
      dieDown := if tripped then [(0, true), (1, true), (2, true), (3, true)] else []
      sags := d.pwr.sags, recentWarnings := d.pwr.recentWarnings, lastWarning := d.pwr.lastWarning, lastLimit := d.pwr.lastLimit
      thermtripN := !tripped, alertPulses := d.pwr.alertPulses
      dieResetAt := [0, 1, 2, 3].foldl (fun m x => Tab.set 0 m x d.wall) [], hubResetAt := d.wall }
    sec := { d.sec with recovery := false, raising := false, fallback := false, authFails := 0, slots := [] }
    host := if soft then
        { rate := d.host.rate, width := d.host.width, retrains := d.host.retrains, writes := d.host.writes
          msixEnable := d.host.msixEnable, msixFuncMask := d.host.msixFuncMask }
      else { writes := d.host.writes }
    mem := d.mem.filter (fun (p : Nat × Byte) => decide (hostBase ≤ p.1))
    repair := { journal := d.repair.journal }
    intent := d.intent }

/-- A cold reset (R467): the always-on domain, the capture queue and the awning too; a commit in progress has been cut short
(R472). What the ledger and the fuses hold stays. The key engine derives the identity key pair, and ID_BAD tells whether the device
certificate names it (R486). -/
def allReset (i : ResetInfo) (d : Dev) : Dev :=
  let e := hubReset i true false d
  { e with
    err := {}, lease := {}, intent := []
    awning := { temp := d.awning.temp, coolest := d.awning.coolest, railMv := d.awning.railMv, railDa := d.awning.railDa
                tripped := e.awning.tripped }
    ledger := { e.ledger with commits := 0, energy := 0, needed10 := 0, low := false }
    sec := { e.sec with identity := sha3 (MlDsa.identityKey d.sec.idSeed).1, idBad := !d.sec.certOk }
    pwr := { e.pwr with
      rail := match i.sag with | some s => s.1 | none => 0
      sagDie := match i.sag with | some s => s.2 | none => 0
      commitFinished := false, commitCut := i.commit, sags := [], recentWarnings := [], lastWarning := none, lastLimit := none } }

/-- COLD_RESET (R467, R472): VAON rises. -/
def execColdReset (commit : Bool) (s : State) : Res := s.upd (allReset { kind := 0, commit := commit })

/-- WARM_RESET (R467, R497): RESET_N is low. In Dark with a valid save it only precedes the wake (R498). -/
def warmReset (commit : Bool) (d : Dev) : Dev :=
  if d.pwr.asleep = 2 ∧ d.pwr.darkValid then d.modPwr (fun p => { p with resetLow := true })
  else hubReset { kind := 1, commit := commit } true false d

def execWarmReset (commit : Bool) (s : State) : Res := s.upd (warmReset commit)

/-- PACKAGE_SOFT_RESET (R467, R476). -/
def execPackageSoftReset (src : Source) (commit : Bool) (s : State) : Res :=
  s.upd (hubWrite src (hubReset { kind := 4, commit := commit } false true))

/-- RESET_N_RELEASE (R458, R471): time 0 of the start-up; the PLLs lock. A release in Dark with a valid save is the Dark wake
(R463). -/
def resetNRelease (d : Dev) : Dev :=
  if !d.pwr.resetLow ∨ (d.pwr.asleep = 2 ∧ d.pwr.darkValid) then d
  else d.modPwr (fun p => { p with resetLow := false, starting := true, locked := 0x3FF })

def execResetNRelease (s : State) : Res := s.upd resetNRelease

/-- The error record of a lost clock or a sag past the reset threshold (R439, R453). -/
def clockRecord (die : Option Nat) (rail : Nat) (d : Dev) : Dev :=
  errReport { cls := 9, level := if die.isSome then 3 else 4, action := 14, loc := errLoc (die.getD 0) rail none
              detail := awningStatus d, die := die } d

/-- Bits of CLK_STATUS.LOCKED that a lost clock clears (R475). -/
def clockBits : ClockId → BitVec 10
  | .hubRoot => 0x001
  | .dieRoot x => BitVec.ofNat 10 (2 ^ (1 + x.val))
  | .dieSerdes x => BitVec.ofNat 10 (2 ^ (5 + x.val))
  | .cxlPll => 0x200
  | .refclk => 0x3FF

/-- CLOCK_LOSS (R458): a die reset or a warm reset; a loss of REFCLK holds it. -/
def clockLoss (k : ClockId) (commit : Bool) (d : Dev) : Dev :=
  let d := d.modPwr (fun p => { p with locked := p.locked &&& ~~~(clockBits k), losses := p.losses + 1 })
  match k with
  | .dieRoot x | .dieSerdes x => resetDie x.val (clockRecord (some x.val) 0 d)
  | .hubRoot | .cxlPll => hubReset { kind := 3, commit := commit } false false (clockRecord none 0 d)
  | .refclk => hubReset { kind := 3, commit := commit } true false (clockRecord none 0 d)

def execClockLoss (k : ClockId) (commit : Bool) (s : State) : Res := s.upd (clockLoss k commit)

/-- In Dark the board has removed every rail but VAON and VMEM_STK (R498). -/
def railGone (d : Dev) (rail : Nat) : Bool := d.pwr.asleep == 2 && rail != 4 && rail != 6

/-- SAG_RESET (R462): VCORE resets its die, VAON everything, any other rail as a warm reset. -/
def sagReset (rail x : Nat) (commit : Bool) (d : Dev) : Dev :=
  if railGone d rail then d
  else if rail = 0 then
    (resetDie x (clockRecord (some x) rail d)).modPwr (fun p => { p with rail := rail, sagDie := x })
  else if rail = 6 then allReset { kind := 0, sag := some (rail, x), commit := commit } d
  else hubReset { kind := 2, sag := some (rail, x), commit := commit } false false (clockRecord (some x) rail d)

def execSagReset (rail : Fin 7) (x : DieId) (commit : Bool) (s : State) : Res := s.upd (sagReset rail.val x.val commit)

/-! ### CXL conventional reset -/

/-- End a context's task at once (R468): its operations are cancelled, its completion record is discarded. -/
def dropTask (t : CtxId) (d : Dev) : Dev :=
  if (d.ctx t).phase = .idle then d
  else
    let d := cancelSweep t d
    let keep := fun (l : List Flight) => l.filter (fun f => f.ctx ≠ t)
    let d := { d with cores := Tab.mapAll {} d.cores (fun (c : Core) => { c with
      mxQ := keep c.mxQ, vxQ := keep c.vxQ, txQ := keep c.txQ, cancelling := if c.cancelling = some t then none else c.cancelling
      entries := Tab.mapAll {} c.entries (fun (e : Entry) => if e.state = 3 ∧ e.ctx = t.val then e.freed else e) }) }
    closeTask t (pruneIntent d)

/-- CXL_CONVENTIONAL_RESET (R468): tasks abort and their records are discarded, programs are unloaded, the tills are disabled,
HOST_MAP is cleared and every host-tier home is freed. Criers, lease, fabric and ledger are untouched; what every reset that
reaches the hub loses is lost (R473, R487). -/
def cxlConventionalReset (d : Dev) : Dev :=
  let d := allCtx.foldl (fun d t => dropTask t d) d
  let d := { d with seq := { d.seq with replay := none, preempt := .none } }
  let d := allCtx.foldl (fun d t => if (d.ctx t).prog.isSome then unload t d else d) d
  let d := (liveHomes d).foldl (fun d p => if p.2.tier = 2 then freeHome p.1 d else d) d
  { d with
    tills := [], host := { writes := d.host.writes, totals := d.host.totals, test := d.host.test, snoops := d.host.snoops }
    ledger := { d.ledger with pending := [] }, sec := { d.sec with slots := [] }
    pwr := { d.pwr with kind := 5, darkValid := false, hubResetAt := d.wall } }

def execCxlConventionalReset (s : State) : Res := s.upd cxlConventionalReset

/-! ### Core reset -/

/-- CORE_RESET (R14, R470): the core leaves service by the spare path, and its check begins. A retired position comes back only
by a self-test (R21), so it is left alone. -/
def coreReset (core : Nat) (d : Dev) : Dev :=
  if ((d.cluster (core / 9)).retired &&& corePos core ≠ 0) ∨ d.seq.adopt.contains (core, false) then d else orderOut core false d

def execCoreReset (src : Source) (c : CoreId) (s : State) : Res :=
  s.upd (dieWrite (.coreReset src c) src (dieOfCore c.val) (coreReset c.val))

/-- CORE_CHECK_DONE (R470): the core returns as a spare, or is retired; one retired during its check does not return (R21). -/
def coreCheckDone (core : Nat) (pass : Bool) (d : Dev) : Dev :=
  if !Tab.get false d.pwr.coreCheck core then d
  else
    let d := d.modPwr (fun p => { p with coreCheck := Tab.set false p.coreCheck core false })
    if (d.cluster (core / 9)).retired &&& corePos core ≠ 0 then d
    else if pass then returnCore core d else retireCore core d

def execCoreCheckDone (c : CoreId) (pass : Bool) (s : State) : Res := s.upd (coreCheckDone c.val pass)

/-! ### Ledger restore and start-up -/

/-- Maps as the ledger has them (R11, R424): every core that is not retired is in service until its self-test. -/
def restoreMaps (m : LedgerMaps) (d : Dev) : Dev :=
  let d := { d with
    clusters := Tab.mapAll {} m.clusters (fun (c : Cluster) => { coreOk := ~~~c.retired, retired := c.retired, bound := c.bound })
    stks := Tab.modMany {} d.stks (List.range 12) (fun s (z : Stack) => { z with chans := Tab.get [] m.chans s })
    ports := Tab.modMany {} d.ports m.lanes (fun _ (p : Port) => { p with spareUsed := true })
    losses := m.losses, reloc := m.reloc
    err := { d.err with rowsMarked := m.rowsMarked, colsMarked := m.colsMarked, bankMarked := m.bankMarked, banksUsed := m.banksUsed } }
  (List.range 16).foldl (fun d c => settleCluster c d) d

/-- The factory values of the retained fields (R424, R426). -/
def factoryCfg (d : Dev) : Cfg := { divMin := BitVec.ofNat 4 (divCap d) }

/-- LEDGER_STATUS [31:0] (R427); a commit is one step, so none is in progress between commands. -/
def ledgerStatus (d : Dev) : Nat :=
  b2n d.ledger.configValid + put 1 1 (b2n d.ledger.factory) + put 3 1 (b2n (!d.ledger.pending.isEmpty))

/-- LEDGER_RESTORE (R424, R473): each region is restored from its latest valid mark, and a field takes its factory value where
its region has none. After a Dark wake the event controller keeps what it restored (R436), and maps whose commit still waits
stay. -/
def ledgerRestore (valid : List Region) (d : Dev) : Dev :=
  if !d.pwr.starting then d
  else
    let has := fun (r : Region) => valid.contains r && (Tab.get ({} : LedgerRegion) d.ledger.regions (regionKey r)).valid
    let cfg := if has .config then d.ledger.config else factoryCfg d
    let d := { d with
      cfg := if d.evt.restored = 2 then { cfg with evt := d.cfg.evt } else cfg
      ledger := { d.ledger with configValid := has .config, factory := !(has .config && has .maps && has .counters) } }
    let d := if has .config then fabricStart (d.modFabric (fun f => { f with written := d.ledger.fabricTable, table := wholeTable d.ledger.fabricTable }))
      else fabricStart d
    let d := if has .maps ∧ !d.ledger.pending.any (fun p => p.1 == .maps) then restoreMaps d.ledger.maps d else d
    let last := match d.ledger.errorLog.getLast? with | some e => e.index + 1 | none => 0
    let d := { d with err := { d.err with
      lifetime := if has .counters then d.ledger.counters.lifetime else d.err.lifetime
      exposedMs := if has .counters then d.ledger.counters.exposedMs else d.err.exposedMs
      nextIndex := max d.err.nextIndex last } }
    let d := extendConfig (raiseToDivMin d)
    if d.ledger.factory then raiseEvent 65 (ledgerStatus d) d else d

def execLedgerRestore (valid : List Region) (s : State) : Res := s.upd (ledgerRestore valid)

/-- SRAM repairs marked before a power-up or a Dark wake take effect (R450): a marked bank is replaced by the cluster's spare
bank where that is not in use. -/
def applyRepairs (d : Dev) : Dev :=
  { d with badSram := [], err := { d.err with
      rowsMarked := 0, colsMarked := 0, banksUsed := d.err.banksUsed ||| d.err.bankMarked
      bankMarked := d.err.bankMarked &&& d.err.banksUsed } }

/-- Usable bytes of each stack by the losses of its channels (R22, R257). -/
def stackCaps (d : Dev) : List Nat :=
  (List.range 12).map (fun s => 0x0C00000000 - chanBytes * (d.losses.filter (fun l => l.stack == s)).length)

/-- STARTUP_PUBLISH (R471): with the stacks trained and a complex leading, the shape table is published and the tills are
taken. -/
def startupPublish (d : Dev) : Dev :=
  if !d.pwr.starting ∨ !d.lease.valid ∨ !(List.range 12).all (fun s => (d.stk s).trained) then d
  else
    let d := applyRepairs (d.modPwr (fun p => { p with starting := false }))
    let d := (List.range 12).foldl (fun d s => noteExposure s d) d
    let caps := stackCaps d
    mirror (publishShape (fun s => { s with published := true, stackCap := caps }) d)

def execStartupPublish (s : State) : Res := s.upd startupPublish

end Sys2Proof.Machine
end

