-- ==== Sys2Proof/Machine/Power.lean ====
section
/-! DEFINITION. Supply sag, Shutter, Close and Dark (20_power_clocks_reset.md R461, R463 to R466, R474 to R476; 18_events.md
R436). -/

namespace Sys2Proof.Machine

/-! ### Supply sag -/

/-- A warning of a die is noted; the fourth within 1 ms steps its divider down (R461). -/
def noteWarning (x : Nat) (d : Dev) : Dev :=
  let l := d.wall :: (Tab.get [] d.pwr.recentWarnings x).filter (fun w => decide (d.wall < w + msCycles))
  if l.length < 4 then d.modPwr (fun p => { p with recentWarnings := Tab.set [] p.recentWarnings x l })
  else stepDown x 0b1000 (d.modPwr (fun p => { p with recentWarnings := Tab.set [] p.recentWarnings x [], sagSteps := p.sagSteps + 1 }))

/-- SAG_WARNING (R461): the arrays that the rail serves pause, and source 98 is raised. -/
def sagWarning (rail x : Nat) (d : Dev) : Dev :=
  if railGone d rail then d
  else
    let ds := railDies rail x
    let d := ds.foldl (fun d y => pauseDie y d) d
    let d := d.modPwr (fun p => { p with
      sags := if p.sags.contains (rail, x) then p.sags else p.sags ++ [(rail, x)], sagRail := rail, warnDie := x
      warnings := p.warnings + 1, lastWarning := some d.wall })
    raiseEvent 98 (x + put 2 4 rail) (ds.foldl (fun d y => noteWarning y d) d)

def execSagWarning (rail : Fin 7) (x : DieId) (s : State) : Res := s.upd (sagWarning rail.val x.val)

/-- SAG_RECOVERY (R461): the rail has recovered; arrays that nothing else holds resume. -/
def sagRecovery (rail x : Nat) (d : Dev) : Dev :=
  if !d.pwr.sags.contains (rail, x) then d
  else
    let d := d.modPwr (fun p => { p with sags := p.sags.filter (· ≠ (rail, x)) })
    (railDies rail x).foldl (fun d y =>
      if sagHolds d y ∨ targetOf d y ≠ divOf d y ∨ (d.causeOf y).getLsbD 2 then d
      else d.modAwning (fun a => { a with paused := Tab.set false a.paused y false })) d

def execSagRecovery (rail : Fin 7) (x : DieId) (s : State) : Res := s.upd (sagRecovery rail.val x.val)

/-- SAG_STEP_UP (R461): 10 ms without a warning. -/
def execSagStepUp (x : DieId) (s : State) : Res := s.upd (stepUp x.val 0b1000)

/-! ### Idle dies -/

/-- A move touches a die's stacks (R464). -/
def movesOn (d : Dev) (x : Nat) : Bool :=
  d.moves.any (fun m =>
    let h := d.home m.index
    (h.tier == 1 && h.die == x) || (h.toTier == 1 && h.toDie == x)) ||
  d.losses.any (fun l => l.phase == 0 && l.stack / 3 == x)

/-- The conditions of R464 for a die. -/
def dieIdle (d : Dev) (x : Nat) : Bool :=
  allCtx.all (fun t => (d.ctx t).phase == .idle) && (List.range 16).all (fun s => (d.stream x s).state != 1) && openCount d == 0 &&
    !movesOn d x && (d.cores : List (Nat × Core)).all (fun p => p.2.entries.all (fun (q : Nat × Entry) => q.2.state == 0))

/-- SHUTTER_ENTRY (R464): the conditions have held for IDLE_US. -/
def shutterEntry (x : Nat) (d : Dev) : Dev :=
  if !d.cfg.shutterEn ∨ d.pwr.asleep ≠ 0 ∨ !dieIdle d x then d
  else d.modPwr (fun p => { p with shutter := p.shutter ||| BitVec.ofNat 4 (2 ^ x) })

def execShutterEntry (x : DieId) (s : State) : Res := s.upd (shutterEntry x.val)

/-- SHUTTER_WAKE (R464). -/
def shutterWake (x : Nat) (d : Dev) : Dev :=
  if !d.pwr.shutter.getLsbD x then d
  else d.modPwr (fun p => { p with shutter := p.shutter &&& ~~~(BitVec.ofNat 4 (2 ^ x)), wakes := p.wakes + 1 })

def execShutterWake (x : DieId) (s : State) : Res := s.upd (shutterWake x.val)

/-! ### Close and Dark -/

/-- Entry is requested (R463, R465): by the function's power state, or by a write of PWR_CTRL.ENTER. -/
def pwrEnter (n : Nat) (d : Dev) : Dev := if d.pwr.asleep = 2 then d else d.modPwr (fun p => { p with want := n })

/-- PWR_ENTER_CLOSE. -/
def execPwrEnterClose (src : Option Source) (s : State) : Res :=
  s.upd (fun d => match src with | none => pwrEnter 1 d | some w => hubWrite w (pwrEnter 1) d)

/-- PWR_ENTER_DARK. -/
def execPwrEnterDark (src : Option Source) (s : State) : Res :=
  s.upd (fun d => match src with | none => pwrEnter 2 d | some w => hubWrite w (pwrEnter 2) d)

/-- Entry may begin (R465): every die is idle, no management packet runs, no commit is in progress. -/
def canSleep (d : Dev) : Bool := d.pwr.asleep == 0 && [0, 1, 2, 3].all (dieIdle d) && (d.till mgmtTill).cur.isNone

/-- The event controller is saved (R436): delivery stops, ACTIVE sources are folded into PEND, and the state goes to the
retention registers. -/
def saveEvents (d : Dev) : Dev :=
  { d with evt := { d.evt with
      frozen := true, queues := []
      retention := some {
        srcs := Tab.mapAll {} d.evt.srcs (fun (e : EvtSrc) => { e with active := false }), routes := d.cfg.evt, enabled := d.evt.enabled } } }

/-- The event controller is restored (R436): delivery restarts with empty queues. -/
def restoreEvents (how : Nat) (d : Dev) : Dev :=
  match d.evt.retention with
  | none => d
  | some r =>
    { d with
      evt := { d.evt with srcs := r.srcs, enabled := r.enabled, queues := [], frozen := false, retention := none, restored := how }
      cfg := { d.cfg with evt := r.routes } }

/-- The events are saved, the ports go down, and the stacks enter self-refresh (R465). -/
def enterSleep (n : Nat) (d : Dev) : Dev :=
  let d := (List.range 24).foldl (fun d p => portLeaves false p d) (saveEvents d)
  let d := (List.range 12).foldl (fun d s => d.modStk s (fun z => { z with refresh := true })) d
  d.modPwr (fun p => { p with asleep := n, want := 0, shutter := 0 })

/-- CLOSE_ENTRY (R465). -/
def closeEntry (d : Dev) : Dev := if d.pwr.want = 1 ∧ canSleep d then enterSleep 1 d else d

def execCloseEntry (s : State) : Res := s.upd closeEntry

/-- CLOSE_WAKE (R463, R465): the function goes to D0, or a source with WAKE = 1 is raised; the ports retrain. -/
def closeWake (d : Dev) : Dev :=
  if d.pwr.asleep ≠ 1 then d
  else
    let d := d.modPwr (fun p => { p with asleep := 0, wakes := p.wakes + 1 })
    let d := (List.range 12).foldl (fun d s => d.modStk s (fun z => { z with refresh := false })) d
    let d := restoreEvents 1 d
    (List.range 24).foldl (fun d p => if trainable d p then setPort p 1 d else d) d

def execCloseWake (s : State) : Res := s.upd closeWake

/-- DARK_ENTRY (R466, R498): the Dark save is written, DARK_VALID is set, and SLEEP_N goes low; the function's link is down. -/
def darkEntry (d : Dev) : Dev :=
  if d.pwr.want = 2 ∧ canSleep d then
    let d := enterSleep 2 d
    { d with pwr := { d.pwr with darkValid := true, sleepN := false }, host := { d.host with rate := 0, width := 0 } }
  else d

def execDarkEntry (s : State) : Res := s.upd darkEntry

/-- The pages of sequence `s` that name LIVE pitches of the pool's SRAM region. -/
def sramPages (d : Dev) (p s : Nat) : List Nat :=
  (List.range (ceilDiv (seqLength d p s) 16)).filter (fun n =>
    let e := pageAt d p s n
    pageValid e && decide (field e 19 0 < (d.pool p).sramPitches))

/-- A sequence loses the pages whose pitches are gone (R242, R466): LENGTH falls to the lowest of them, and REDO is marked. -/
def dropPages (p s : Nat) (d : Dev) : Dev :=
  match sramPages d p s with
  | [] => d
  | n :: r =>
    let old := seqLength d p s
    let d := (n :: r).foldl (fun d m => setPage p s m (field (pageAt d p s m) 19 0 + 2 ^ 21) d) d
    let d := seqWr p s 8 4 (16 * n) d
    if seqFlag d p s 4 then d else seqWr p s 32 4 old (setSeqFlag p s 4 true d)

/-- Every LIVE pitch homed in SRAM is dropped on a Dark wake (R466). -/
def dropSramPitches (p : Nat) (d : Dev) : Dev :=
  let z := d.pool p
  let entry := fun (d : Dev) (n : Nat) => PitchE.ofBytes (hubRd d (z.table + 32 * n) 32)
  let live := (List.range (min z.sramPitches z.pitches)).filter (fun n => (entry d n).state = 1)
  let d := (List.range z.seqs).foldl (fun d s => if seqFlag d p s 0 then dropPages p s d else d) d
  let d := live.foldl (fun d n => hubWr (z.table + 32 * n) { entry d n with refs := 0, state := 3, stamp := z.epoch }.bytes d) d
  d.modPool p (fun q => { q with drops := q.drops + live.length, stamped := q.stamped || !live.isEmpty })

/-- DARK_WAKE (R466, R467, R498): the rails are back and RESET_N is released. The stacks resume; the state mirror's contents and
the contexts are reloaded from the save; the contents of SRAM are gone. A save that fails its checks is followed by a full
start-up. -/
def darkWake (saveOk : Bool) (d : Dev) : Dev :=
  if d.pwr.asleep ≠ 2 ∨ !d.pwr.darkValid then d
  else
    let e := hubReset { kind := if saveOk then 6 else 1 } false false d
    if !saveOk then e
    else
      let e := { e with
        evt := d.evt, tills := d.tills, ctxs := d.ctxs, homes := d.homes, pools := d.pools, red := d.red, health := d.health
        stks := Tab.mapAll {} d.stks (fun (z : Stack) => { z with refresh := false }), losses := d.losses, reloc := d.reloc, intent := []
        badBlocks := d.badBlocks, repair := d.repair, mem := d.mem.filter (fun (p : Nat × Byte) => decide (stackBase ≤ p.1))
        ledger := { e.ledger with pending := d.ledger.pending }
        err := { e.err with rowsMarked := d.err.rowsMarked, colsMarked := d.err.colsMarked, bankMarked := d.err.bankMarked
                            banksUsed := d.err.banksUsed }
        host := { e.host with
          tierOffset := d.host.tierOffset, tierSize := d.host.tierSize, winName := d.host.winName, winSize := d.host.winSize
          negotiated := d.host.negotiated, agreed := d.host.agreed, totals := d.host.totals }
        stewardStep := d.stewardStep, stewardTask := d.stewardTask
        pwr := { e.pwr with darkValid := true, wakes := d.pwr.wakes + 1 } }
      restoreEvents 2 (applyRepairs ([0, 1, 2, 3].foldl (fun d p => dropSramPitches p d) e))

def execDarkWake (saveOk : Bool) (s : State) : Res := s.upd (darkWake saveOk)

/-! ### Registers -/

/-- ERR_STATUS (R456): returned, and OVERFLOW cleared. -/
def errStatusRead (d : Dev) : Dev :=
  answer (d.err.queue.length + put 9 1 (b2n d.err.overflow) + put 32 32 d.err.nextIndex) { d with err := { d.err with overflow := false } }

def execErrStatusRead (s : State) : Res := s.upd errStatusRead

/-- CLK_STATUS with a count of losses (R475). -/
def clkStatus (d : Dev) (losses : Nat) : Nat := d.pwr.locked.toNat + put 32 16 losses

/-- CLK_STATUS (R475): returned, and LOSSES cleared. -/
def clkStatusRead (d : Dev) : Dev :=
  let (n, d) := shown 16 d.pwr.losses d
  answer (clkStatus d n) (d.modPwr (fun p => { p with losses := 0 }))

def execClkStatusRead (s : State) : Res := s.upd clkStatusRead

/-- SAG_STATUS with its counts (R475). -/
def sagStatus (d : Dev) (warnings steps : Nat) : Nat :=
  d.pwr.sagRail % 16 + put 4 2 d.pwr.warnDie + put 6 1 (b2n (!d.pwr.sags.isEmpty)) + put 32 16 warnings + put 48 16 steps

/-- SAG_STATUS (R475): returned, and its counts cleared. -/
def sagStatusRead (d : Dev) : Dev :=
  let (a, d) := shown 16 d.pwr.warnings d
  let (b, d) := shown 16 d.pwr.sagSteps d
  answer (sagStatus d a b) (d.modPwr (fun p => { p with warnings := 0, sagSteps := 0 }))

def execSagStatusRead (s : State) : Res := s.upd sagStatusRead

/-- PWR_STATUS with its count (R476). STATE shows the state being entered until the package is Active again. -/
def pwrStatus (d : Dev) (wakes : Nat) : Nat :=
  d.pwr.asleep % 4 + put 2 4 d.pwr.shutter.toNat + put 6 1 (b2n d.pwr.darkValid) + put 7 1 (b2n (d.pwr.want != 0)) + put 32 32 wakes

/-- PWR_STATUS (R476): returned, and WAKES cleared. -/
def pwrStatusRead (d : Dev) : Dev :=
  let (n, d) := shown 32 d.pwr.wakes d
  answer (pwrStatus d n) (d.modPwr (fun p => { p with wakes := 0 }))

def execPwrStatusRead (s : State) : Res := s.upd pwrStatusRead

/-- RESET_CAUSE with its count (R476). -/
def resetCause (d : Dev) (resets : Nat) : Nat :=
  d.pwr.kind % 16 + put 4 4 d.pwr.rail + put 8 2 d.pwr.sagDie + put 10 1 (b2n d.pwr.commitFinished) + put 11 1 (b2n d.pwr.commitCut) +
    put 32 32 resets

/-- RESET_CAUSE (R476): returned, and DIE_RESETS cleared. -/
def resetCauseRead (d : Dev) : Dev :=
  let (n, d) := shown 32 d.pwr.dieResets d
  answer (resetCause d n) (d.modPwr (fun p => { p with dieResets := 0 }))

def execResetCauseRead (s : State) : Res := s.upd resetCauseRead

end Sys2Proof.Machine
end

