-- ==== Sys2Proof/Machine/Regs.lean ====
section
/-! DEFINITION. Writes of registers (01_organisation.md R12, R13, R28; 15_host_commands.md R372, R380, R381): the injection bits
of an engine (R85, R147) and the registers that have no row of their own. -/

namespace Sys2Proof.Machine

/-- The action is the leading complex's alone (R85, R316): from any other source it is ignored and logged. -/
def leadOnly (src : Source) (act : Dev → Dev) (d : Dev) : Dev :=
  match src with
  | .crier c => if leads d c then act d else logIgnored d
  | .host => logIgnored d

/-- A write of INJECT = 1 (R85, R147): carried out from the leading complex while the core is bound to no slot. -/
def injectCore (core : Nat) (f : Core → Core) (d : Dev) : Dev :=
  if coreBound d core then logIgnored d else d.modCore core f

/-- MX_INJECT (R85): the residue of one partial of the next pass is corrupted. -/
def execMxInject (src : Source) (c : CoreId) (s : State) : Res :=
  s.upd (dieLeadWrite (.mxInject src c) src (dieOfCore c.val) (injectCore c.val (fun x => { x with mxInject := true })))

/-- VX_INJECT (R147). -/
def execVxInject (src : Source) (c : CoreId) (s : State) : Res :=
  s.upd (dieLeadWrite (.vxInject src c) src (dieOfCore c.val) (injectCore c.val (fun x => { x with vxInject := true })))

/-- TX_INJECT (R147). -/
def execTxInject (src : Source) (c : CoreId) (s : State) : Res :=
  s.upd (dieLeadWrite (.txInject src c) src (dieOfCore c.val) (injectCore c.val (fun x => { x with txInject := true })))

/-! ### Fields -/

/-- A field's bits as a bit vector. -/
def fld (w v hi lo : Nat) : BitVec w := BitVec.ofNat w (field v hi lo)

/-- A field whose writes of 0 are stored as 1. -/
def fld1 (w v hi lo : Nat) : BitVec w := BitVec.ofNat w (max 1 (field v hi lo))

/-- A write of the retained configuration by the common rule of hub registers. -/
def cfgWrite (src : Source) (f : Cfg → Cfg) (d : Dev) : Dev := hubWrite src (fun d => { d with cfg := f d.cfg }) d

/-- The same for a register of a die. -/
def cfgDie (cmd : Instr) (src : Source) (die : Nat) (f : Cfg → Cfg) (d : Dev) : Dev :=
  dieWrite cmd src die (fun d => { d with cfg := f d.cfg }) d

/-! ### Registers whose write does more than store -/

/-- MX_CTRL (R84, R85): FORCE_RAMP is stored, INJECT acts as MX_INJECT. -/
def writeMxCtrl (cmd : Instr) (src : Source) (core v : Nat) (d : Dev) : Dev :=
  dieWrite cmd src (dieOfCore core) (fun d =>
    let d := d.modCore core (fun x => { x with forceRamp := bit v 0 })
    if bit v 1 then leadOnly src (injectCore core (fun x => { x with mxInject := true })) d else d) d

/-- BARROW_CAP (R156, R176): the marks of a slot's barrow; a write that would break R156 is ignored and logged, a valid one
applies from the next spill or refill decision. -/
def writeBarrowCap (cmd : Instr) (src : Source) (t : CtxId) (k v : Nat) (d : Dev) : Dev :=
  let spill := field v 32 24
  let refill := field v 41 33
  dieWrite cmd src (k / 32) (fun d =>
    if refill < spill ∧ spill ≤ (d.bar t k).winUnits then
      d.modBar t k (fun b => { b with spillMark := spill, refillMark := refill })
    else logIgnored d) d

/-- LINK_CTRL (R315): ENABLE = 0 holds the port down, ENABLE = 1 lets it train again; RETRAIN acts as LINK_RETRAIN. -/
def writeLinkCtrl (cmd : Instr) (src : Source) (p v : Nat) (d : Dev) : Dev :=
  dieWrite cmd src (dieOfPort p) (fun d =>
    let was := (d.linkCfg p).enable
    let c : LinkCfg := { enable := bit v 0, laneLimit := fld1 8 v 15 8 }
    let d := { d with cfg := { d.cfg with links := Tab.set {} d.cfg.links p c } }
    let d := if !c.enable then
        let e := portLeaves false p d
        if (e.port p).state = 0 then e else setPort p 0 e
      else if !was && (d.port p).state == 0 && trainable d p then setPort p 1 d else d
    if bit v 1 then (match src with | .host => logIgnored d | .crier _ => retrainPort p d) else d) d

/-- FABRIC_CTRL (R316, R372): without EXPERT the host acts only on RESOLVE. A LEAVE from the host is ignored and logged. -/
def writeFabricCtrl (src : Source) (v : Nat) (d : Dev) : Dev :=
  let store := fun (d : Dev) => { d with cfg := { d.cfg with autojoin := bit v 2, fabricWait := fld1 16 v 31 16 } }
  match src with
  | .host =>
    if expert d then
      let d := if bit v 0 then fabricResolve src (store d) else store d
      if bit v 1 then logIgnored d else d
    else if bit v 0 then fabricResolve src d
    else logIgnored d
  | .crier _ => writeFrom src false (fun _ => false) (fun d =>
      let d := if bit v 0 then fabricResolve src (store d) else store d
      if bit v 1 then fabricLeave src d else d) d

/-- Bytes of the largest fabric table (R307). -/
def tableRoom : Nat := 64 + 32 * 729

/-- FABRIC_TABLE (R307, R372): eight bytes from an offset; carried out from the host without EXPERT too. -/
def writeFabricTable (src : Source) (o v : Nat) (d : Dev) : Dev :=
  writeFrom src true (fun _ => false) (fun d =>
    if tableRoom < o + 8 then logIgnored d
    else d.modFabric (fun f =>
      { f with written := slice f.written 0 o ++ leBytes 8 v ++ f.written.drop (o + 8) })) d

/-- HOST_TIER or HOST_WINDOW (R354, R380): only under the conditions of HOST_MAP. -/
def writeMap (src : Source) (tierOffset tierSize winName winSize : Nat) (d : Dev) : Dev :=
  hubWrite src (fun d =>
    if (tierSize ≠ 0 ∧ !agreedBit d 2) ∨ (winSize ≠ 0 ∧ !agreedBit d 3) ∨ mapBroken tierOffset tierSize winName winSize ∨
        mapBusy d tierOffset tierSize winName winSize then logIgnored d
    else mirror (setMap tierOffset tierSize winName winSize d)) d

/-- A register of BAR2 (R349, R372): the host's alone, and never gated. -/
def hostOnly (src : Source) (act : Dev → Dev) (d : Dev) : Dev := match src with | .host => act d | .crier _ => logIgnored d

/-- A till's ring registers (R13, R30, R381): the host's, and the leading complex's as any other unit. -/
def tillWrite (src : Source) (act : Dev → Dev) (d : Dev) : Dev := writeFrom src true (fun _ => false) act d

/-- TILL_RING (R381): while ENABLE = 1 a write only clears ENABLE; on a till that executes this takes effect when its packet
completes. -/
def writeTillRing (n : TillId) (v : Nat) (d : Dev) : Dev :=
  let x := d.till n
  if x.enable then
    if bit v 63 then logIgnored d
    else if x.cur.isSome ∨ !x.aborts.isEmpty then d.modTill n (fun x => { x with closing := true })
    else d.modTill n (fun x => { x with enable := false })
  else if bit v 63 then tillEnable n (fld 36 v 47 12) (fld 5 v 52 48) d
  else d.modTill n (fun x => { x with base := fld 36 v 47 12, log2 := fld 5 v 52 48 })

/-- CPL_RING (R381). -/
def writeCplRing (n : TillId) (v : Nat) (d : Dev) : Dev :=
  if (d.till n).enable then logIgnored d
  else d.modTill n (fun x => { x with cplBase := fld 43 v 47 5, cplLog2 := fld 5 v 52 48 })

/-- An MSI-X table entry's lower half holds the address, its upper half the data and the mask bit, as PCIe lays it out
(R349, R433). -/
def writeMsix (n : Nat) (upper : Bool) (v : Nat) (d : Dev) : Dev :=
  let old := Tab.get (0, 0) d.host.msixTable n
  let new : BitVec 64 × BitVec 32 := if upper then (old.1, BitVec.ofNat 32 v) else (BitVec.ofNat 64 v, old.2)
  let d := d.modHost (fun h => { h with msixTable := Tab.set (0, 0) h.msixTable n new })
  if !upper then d
  else if bit v 32 then d.modHost (fun h => { h with msixMask := Tab.set true h.msixMask n true })
  else msixUnmask (BitVec.ofNat 8 n) d

/-- MSI-X message control as PCIe lays it out: [15] enable, [14] function mask. -/
def writeMsixControl (v : Nat) (d : Dev) : Dev :=
  d.modHost (fun h => { h with msixEnable := bit v 15, msixFuncMask := bit v 14 })

/-- EVT_SRC (R437): the route of a source; die criers do not write it, and reserved sources are left alone. -/
def writeEvtSrc (src : Source) (n v : Nat) (d : Dev) : Dev :=
  hubWrite src (fun d =>
    if reservedSource n then d
    else d.modRoute n (fun r => { r with
      criers := fld 8 v 7 0, vecFirst := fld 8 v 15 8, vecCount := min 16 (field v 20 16), wake := bit v 21 })) d

/-- PWR_CTRL (R476). -/
def writePwrCtrl (src : Source) (v : Nat) (d : Dev) : Dev :=
  hubWrite src (fun d =>
    let d := { d with cfg := { d.cfg with shutterEn := bit v 2, idleUs := fld1 16 v 31 16 } }
    match field v 1 0 with
    | 1 => pwrEnter 1 d
    | 2 => pwrEnter 2 d
    | _ => d) d

/-- A write of a register by its table. A read-only register keeps its value; a write to an unpopulated address is ignored and
logged (R28). A register named by its address is Window.lean's to find. -/
def registerWrite (src : Source) (r : Reg) (w : BitVec 64) (d : Dev) : Dev :=
  let cmd : Instr := .registerWrite src r w
  let v := w.toNat
  match r with
  | .streamWdog => cfgWrite src (fun c => { c with streamWdog := BitVec.ofNat 20 (max 10 (field v 19 0)) }) d
  | .streamQuantum => cfgWrite src (fun c => { c with streamQuantum := fld 16 v 15 0 }) d
  | .mxCtrl k => writeMxCtrl cmd src k.val v d
  | .mxFailWindow => cfgWrite src (fun c => { c with mxFailWindow := fld1 20 v 19 0 }) d
  | .fmtStewardCtrl => cfgWrite src (fun c => { c with stewardEnable := bit v 0, narrowDefault := fld1 8 v 15 8 }) d
  | .fmtStewardDefaults => cfgWrite src (fun c => { c with ovfDefault := fld 16 v 15 0, flushDefault := fld 16 v 31 16 }) d
  | .bwdCtrl => cfgWrite src (fun c => { c with forceFull := bit v 0 }) d
  | .barrowCap t k => writeBarrowCap cmd src t k.val v d
  | .actCtrl => cfgWrite src (fun c => { c with healthEvt := bit v 0, hashEn := bit v 1 }) d
  | .convCtrl => cfgWrite src (fun c => { c with convNoSkip := bit v 0 }) d
  | .attnCtrl => cfgWrite src (fun c => { c with attnNoSkip := bit v 0 }) d
  | .poolWait p => cfgWrite src (fun c => { c with poolWait := Tab.set 200 c.poolWait p.val (fld1 20 v 19 0) }) d
  | .stkCeLimit k => cfgDie cmd src (dieOfStack k.val) (fun c =>
      { c with stk := Tab.mod {} c.stk k.val (fun x => { x with ceLimit := fld1 16 v 15 0 }) }) d
  | .stkScrub k => cfgDie cmd src (dieOfStack k.val) (fun c =>
      { c with stk := Tab.mod {} c.stk k.val (fun x => { x with scrubEnable := bit v 0, scrubPeriod := fld1 15 v 15 1 }) }) d
  | .homeCtrl => cfgWrite src (fun c =>
      { c with moveShare := BitVec.ofNat 7 (max 1 (min 100 (field v 6 0))), hostTimeout := fld1 16 v 31 16 }) d
  | .linkCtrl p => writeLinkCtrl cmd src p.val v d
  | .fabricCtrl => writeFabricCtrl src v d
  | .fabricTable o => writeFabricTable src o.toNat v d
  | .redCtrl => cfgWrite src (fun c => { c with substEn := bit v 0, redDeadline := fld 16 v 31 16 }) d
  | .hostCtrl => cfgWrite src (fun c => { c with hostDefer := fld1 16 v 15 0 }) d
  | .hostTier => writeMap src (4096 * field v 47 12) d.host.tierSize d.host.winName.toNat d.host.winSize d
  | .hostWindow =>
    writeMap src d.host.tierOffset.toNat (65536 * field v 31 0) (2 ^ 28 * field v 51 32) (2 ^ 28 * field v 60 52) d
  | .tillRing n => tillWrite src (writeTillRing n v) d
  | .cplRing n => tillWrite src (writeCplRing n v) d
  | .msixEntry n upper => hostOnly src (writeMsix n.toNat upper v) d
  | .msixControl => hostOnly src (writeMsixControl v) d
  | .codecCtrl x => cfgDie cmd src x.val (fun c => { c with codecPoll := Tab.set 20 c.codecPoll x.val (fld1 16 v 15 0) }) d
  | .codecLimit x => cfgDie cmd src x.val (fun c => { c with codecLimit := Tab.set 100 c.codecLimit x.val (fld1 16 v 15 0) }) d
  | .crierWdog => cfgWrite src (fun c => { c with crierWdog := BitVec.ofNat 8 (max 2 (min 100 (field v 7 0))) }) d
  | .evtSrc n => writeEvtSrc src n.val v d
  | .errCtrl => cfgWrite src (fun c =>
      { c with wearReplays := fld1 8 v 7 0, predictEn := bit v 8, scrubS := fld1 8 v 23 16 }) d
  | .sagCtrl => cfgWrite src (fun c => { c with sagWarn := BitVec.ofNat 4 (min 8 (field v 3 0)) }) d
  | .pwrCtrl => writePwrCtrl src v d
  | .readOnly => d
  | .unpopulated => logIgnored d
  | .address _ => d

end Sys2Proof.Machine
end

