-- ==== Sys2Proof/Machine/Peek.lean ====
section
/-! DEFINITION. STATUS_PEEK, the counter totals and LEDGER_COMMIT (15_host_commands.md R374; 17_firmware.md R423). -/

namespace Sys2Proof.Machine

/-! ### Counter totals (R374) -/

/-- The clear-on-read counts of a core that the pages show: number, width, the count as its register shows it. -/
def coreCounts : List (Nat × Nat × (Core → Nat)) :=
  [(0, 64, Core.swapHold), (1, 64, Core.pause), (2, 64, Core.mxBusy), (3, 64, Core.vxBusy), (4, 64, Core.txBusy),
   (5, 32, fun c => c.readBytes / 2 ^ 20), (6, 32, fun c => c.writtenBytes / 2 ^ 20), (7, 32, Core.discarded), (8, 16, Core.cancels),
   (9, 32, Core.misses), (10, 32, Core.heldCycles), (11, 32, Core.frcEncoded), (12, 32, Core.frcDecoded), (13, 64, Core.bwdSkip),
   (14, 64, Core.convSkip), (15, 64, Core.attnSkip)]

def Core.clearCounts (c : Core) : Core :=
  { c with swapHold := 0, pause := 0, mxBusy := 0, vxBusy := 0, txBusy := 0, readBytes := 0, writtenBytes := 0, discarded := 0
           cancels := 0, misses := 0, heldCycles := 0, frcEncoded := 0, frcDecoded := 0, bwdSkip := 0, convSkip := 0, attnSkip := 0 }

/-- Total `j` of die `x`, of port `p`, and of the package. -/
def dieTotal (x j : Nat) : Nat := 32 * x + j
def portTotal (p j : Nat) : Nat := 128 + 4 * p + j
def packTotal (j : Nat) : Nat := 256 + j
def Dev.total (d : Dev) (key : Nat) : Nat := Tab.get 0 d.host.totals key

/-- Add what a field of `w` bits shows to a total. -/
def addTotal (key w n : Nat) (d : Dev) : Dev :=
  let (v, d) := shown w n d
  d.modHost (fun h => { h with totals := Tab.mod 0 h.totals key (· + v) })

def coreTotals (core : Nat) (d : Dev) : Dev :=
  let c := d.core core
  let d := coreCounts.foldl (fun d (q : Nat × Nat × (Core → Nat)) => addTotal (dieTotal (dieOfCore core) q.1) q.2.1 (q.2.2 c) d) d
  d.modCore core Core.clearCounts

def barrowTotals (t : CtxId) (k : Nat) (d : Dev) : Dev :=
  let b := d.bar t k
  let d := addTotal (dieTotal (k / 32) 17) 32 b.refilled (addTotal (dieTotal (k / 32) 16) 32 b.spilled d)
  d.modBar t k (fun b => { b with spilled := 0, refilled := 0 })

def portTotals (p : Nat) (d : Dev) : Dev :=
  let x := d.port p
  let d := addTotal (portTotal p 0) 24 (min x.corrected (2 ^ 24 - 1)) d
  let d := addTotal (portTotal p 1) 16 (min x.uncorrected (2 ^ 16 - 1)) d
  let d := addTotal (portTotal p 2) 16 (min x.replays (2 ^ 16 - 1)) d
  d.modPort p (fun x => { x with corrected := 0, uncorrected := 0, replays := 0 })

def packageTotals (d : Dev) : Dev :=
  let d := addTotal (packTotal 0) 32 d.awning.throttleMs d
  let d := addTotal (packTotal 1) 16 d.awning.steps d
  let d := addTotal (packTotal 2) 16 d.awning.limitEvents d
  let d := addTotal (packTotal 3) 16 d.pwr.losses d
  let d := addTotal (packTotal 4) 16 d.pwr.warnings d
  let d := addTotal (packTotal 5) 16 d.pwr.sagSteps d
  let d := addTotal (packTotal 6) 32 d.pwr.wakes d
  let d := addTotal (packTotal 7) 32 d.pwr.dieResets d
  (d.modAwning (fun a => { a with throttleMs := 0, steps := 0, limitEvents := 0 })).modPwr (fun p =>
    { p with losses := 0, warnings := 0, sagSteps := 0, wakes := 0, dieResets := 0 })

/-- COUNTER_TOTALS (R374, R404): the service crier adds up the clear-on-read registers that the pages show. -/
def counterTotals (d : Dev) : Dev :=
  if !serviceCrierUp d then d
  else
    let d := ((d.cores : List (Nat × Core)).map (·.1)).foldl (fun d c => coreTotals c d) d
    let d := allCtx.foldl (fun d t =>
      (((d.ctx t).slots : List (Nat × CtxSlot)).map (·.1)).foldl (fun d k => barrowTotals t k d) d) d
    let d := ((d.ports : List (Nat × Port)).map (·.1)).foldl (fun d p => portTotals p d) d
    packageTotals d

def execCounterTotals (s : State) : Res := s.upd counterTotals

/-! ### Register images -/

/-- STREAM_STATUS.STATE (R66). -/
def seqCode : SeqMode → Nat
  | .idle => 0 | .issuing => 1 | .bellWait => 2 | .hold => 3 | .saving => 4 | .replay => 5 | .aborting => 6

/-- STREAM_STATUS of a context (R66); STATE and PREEMPT_PENDING are the running context's. -/
def streamStatus (d : Dev) (t : CtxId) : Nat :=
  let run := d.seq.running == some t
  (d.ctx t).pc % 65536 + put 16 4 t.val + (if run then put 20 3 (seqCode (if d.seq.ptHold then .hold else d.seq.mode)) + put 23 1 (b2n d.seq.preemptPending) else 0)

/-- STREAM_CKPT of a context (R66). -/
def streamCkpt (d : Dev) (t : CtxId) : Nat := (d.ctx t).ckptCount % 2 ^ 32 + put 32 16 (d.ctx t).lastCkpt

/-- Reductions open on the package for a context. -/
def openOf (d : Dev) (t : CtxId) : Nat :=
  ((d.redCtx t).runs.filter (fun (p : Nat × Option RedRun) => redOpen d t p.1)).length

/-- POOL_STATE (R246). -/
def poolState (d : Dev) (p : Nat) : Nat :=
  (pitchesIn p [0] d).length % 2 ^ 21 + put 21 21 (pitchesIn p [2, 3] d).length + put 42 1 (b2n (!(d.pool p).queue.isEmpty))

/-- POOL_EPOCH (R246). -/
def poolEpoch (d : Dev) (p : Nat) : Nat := (d.pool p).epoch % 2 ^ 32 + put 32 32 (poolOldest d p)

/-- FMT_STEWARD_STATUS (R109): a pass is in progress from the step's end until STEWARD_DONE. -/
def stewardStatus (d : Dev) : Nat :=
  d.stewardStep.toNat + put 32 4 d.stewardTask + put 36 1 (b2n (allCtx.any (fun t => (d.ctx t).stewardDue.isSome)))

/-- REPLAY_STATUS (R201). -/
def replayStatus (d : Dev) : Nat :=
  let r := d.replayStat
  r.pc % 65536 + put 16 4 r.task + put 20 1 (b2n r.running) + put 21 1 (b2n r.recordsMatch) + put 22 1 (b2n r.talliesMatch) +
    put 23 1 (b2n r.stoppedEarly)

/-- BARROW_TOP and BARROW_STATUS of a slot (R176). -/
def barrowTop (b : Barrow) : Nat := b.top % 2 ^ 40 + put 40 24 b.entries
def barrowStatus (b : Barrow) : Nat :=
  b.dirty.length % 512 + put 9 9 (b.win.filter (fun (p : Nat × Option WinPos) => p.2.isSome)).length + put 18 1 (b2n b.pushWait) +
    put 19 1 (b2n b.protectWait) + put 20 9 b.armedCount

/-- The 64 bytes of an error record (R452). -/
def errBytes (e : ErrEntry) : List Byte :=
  let b := e.body
  let l := leBytes 4 0x45474C45 ++ leBytes 4 e.index ++ leBytes 1 b.cls.toNat ++ leBytes 1 b.level.toNat ++ leBytes 1 b.action.toNat ++
    leBytes 1 b.status.toNat ++ leBytes 4 b.location.toNat ++ leBytes 8 b.cycle.toNat ++ leBytes 8 b.epoch.toNat ++
    leBytes 4 b.step.toNat ++ leBytes 4 b.detectNs.toNat ++ leBytes 4 b.interruptNs.toNat ++ leBytes 4 b.waitNs.toNat ++
    leBytes 4 b.detail.toNat ++ leBytes 1 b.spare.toNat ++ leBytes 1 b.context.toNat ++ leBytes 1 b.flags.toNat ++ leBytes 5 0
  l ++ leBytes 4 (crc32c l).toNat

/-! ### Pages (R374) -/

/-- Pack totals into register fields: start bit, width, total. -/
def packed (fs : List (Nat × Nat × Nat)) (d : Dev) : Nat × Dev :=
  fs.foldl (fun (acc : Nat × Dev) (f : Nat × Nat × Nat) =>
    let (v, d) := shown f.2.1 (acc.2.total f.2.2) acc.2
    (acc.1 + v * 2 ^ f.1, d)) (0, d)

/-- Several packed registers. -/
def packedAll (rs : List (List (Nat × Nat × Nat))) (d : Dev) : List Nat × Dev :=
  rs.foldl (fun (acc : List Nat × Dev) fs =>
    let (v, d) := packed fs acc.2
    (acc.1 ++ [v], d)) ([], d)

/-- The registers of page 2's die totals, in the order MX, VX, TX, porter, FRC, skip, barrow. -/
def dieRegs (x : Nat) : List (List (Nat × Nat × Nat)) :=
  let one := fun j => [(0, 64, dieTotal x j)]
  let two := fun j w => [(0, 32, dieTotal x j), (32, w, dieTotal x (j + 1))]
  [one 0, one 1, one 2, one 3, one 4, two 5 32, two 7 16, two 9 32, two 11 32, one 13, one 14, one 15, two 16 32]

/-- LINK_ERRORS totals of a port, its counts saturating (R315). -/
def linkErrorTotals (d : Dev) (p : Nat) : Nat :=
  min (d.total (portTotal p 0)) (2 ^ 24 - 1) + put 24 16 (min (d.total (portTotal p 1)) 65535) +
    put 40 16 (min (d.total (portTotal p 2)) 65535) + put 56 8 (min (d.port p).swaps 255)

/-- A sensor reading that nothing in the state gives: an open sample. -/
def sample (w : Nat) (f : Nat → Dev → Dev) (d : Dev) : Nat × Dev :=
  let (v, d) := useFree w d
  (v, f v d)

/-- DIE_TEMP of a die (R477). -/
def dieTemp (x : Nat) (d : Dev) : Nat × Dev :=
  let (c, d) := sample 8 (fun v d => d.modAwning (fun a => { a with coolest := Tab.set 0 a.coolest x v })) d
  (Tab.get 0 d.awning.temp x % 256 + put 8 8 c, d)

/-- RAIL_READ of a rail of a die (R477). -/
def railRead (x r : Nat) (d : Dev) : Nat × Dev :=
  let key := 8 * x + r
  let (v, d) := sample 16 (fun v d => d.modAwning (fun a => { a with railMv := Tab.set 0 a.railMv key v })) d
  let (i, d) := sample 16 (fun v d => d.modAwning (fun a => { a with railDa := Tab.set 0 a.railDa key v })) d
  (v + put 16 16 i, d)

/-- Run several reads in order. -/
def readAll (fs : List (Dev → Nat × Dev)) (d : Dev) : List Nat × Dev :=
  fs.foldl (fun (acc : List Nat × Dev) f =>
    let (v, d) := f acc.2
    (acc.1 ++ [v], d)) ([], d)

/-- Page 8. -/
def powerPage (d : Dev) : List Nat × Dev :=
  let (c, d) := packedAll [[(0, 32, packTotal 0), (32, 16, packTotal 1), (48, 16, packTotal 2)]] d
  let status := awningStatus d + put 32 1 (b2n d.awning.tripped)
  let fixed := [status] ++ c ++ [clkStatus d (d.total (packTotal 3)), sagStatus d (d.total (packTotal 4)) (d.total (packTotal 5)),
    pwrStatus d (d.total (packTotal 6)), resetCause d (d.total (packTotal 7))]
  let (t, d) := readAll ((List.range 4).map dieTemp) d
  let (r, d) := readAll ((List.range 4).flatMap (fun x => (List.range 7).map (railRead x))) d
  (fixed ++ t ++ r, d)

/-- The items of a page, each of 8 bytes. -/
def pageItems (page : Nat) (d : Dev) : List Nat × Dev :=
  match page with
  | 0 => ([fabricStatus d, d.host.agreed.toNat, b2n d.lease.holderB, (leadVersion d).toNat] ++
      (List.finRange 17).map (fun n => tillState (d.till n)), d)
  | 1 => (allCtx.flatMap (fun t => [streamStatus d t, streamCkpt d t, (d.ctx t).lastRecorded.toNat, (ctxEpoch d t).toNat,
      openOf d t] ++ (List.range 4).map (fun p => (d.pool p).attach.toNat)), d)
  | 2 =>
    let (v, d) := packedAll ((List.range 4).flatMap dieRegs) d
    ((List.range 16).flatMap (fun c => [clusterStatus d c, clusterSlotMap d c]) ++ v, d)
  | 3 => ((List.range 12).flatMap (fun s => stkStatus d s :: (List.range 136).map (fun x => chanImage (d.chan s x))) ++
      [repairStatus d], d)
  | 4 => ((List.range 24).flatMap (fun p => [linkStatus d p, linkErrorTotals d p]), d)
  | 5 => (homeStatus d :: (List.range 4).flatMap (fun p => [poolState d p, poolEpoch d p]), d)
  | 6 => ([stewardStatus d, replayStatus d] ++ (List.range 128).flatMap (fun k => match d.seq.running with
      | some t => [barrowTop (d.bar t k), barrowStatus (d.bar t k)]
      | none => [0, 0]), d)
  | 8 => powerPage d
  | _ => ([], d)

/-- A page with its header; none for a page that is not defined. -/
def statusPage (page : Nat) (d : Dev) : Option (List Byte) × Dev :=
  if 8 < page then (none, d)
  else
    let (body, d) : List Byte × Dev :=
      if page = 7 then ((d.err.ring.drop (d.err.ring.length - 64)).flatMap errBytes, d)
      else
        let (l, d) := pageItems page d
        (l.flatMap (leBytes 8), d)
    (some (leBytes 2 page ++ leBytes 2 0 ++ leBytes 4 body.length ++ leBytes 8 d.shape.generation.toNat ++ body), d)

/-- STATUS_PEEK (R374): over the till the page is written to REPLY, over DOE it is the reply object. -/
def statusPeek (page : Nat) (reply : BitVec 64) (doe : Bool) (d : Dev) : Dev :=
  if !doe && !executing d mgmtTill 0x0002 then d
  else match statusPage page d with
    | (none, d) => if doe then d else finish mgmtTill .badParam none none d
    | (some l, d) => if doe then doeAnswer l d else finish mgmtTill .ok none none (hostWrite reply l d)

def execStatusPeek (page : BitVec 16) (reply : BitVec 64) (doe : Bool) (s : State) : Res :=
  s.upd (statusPeek page.toNat reply doe)

/-! ### LEDGER_COMMIT -/

/-- The policy tables of loaded programs go to the ledger under their programs' digests (R106, R423). -/
def savePolicies (d : Dev) : Dev :=
  let one := fun (l : List (BitVec 256 × List (BitVec 128))) (t : CtxId) => match (d.ctx t).prog with
    | some p => l.filter (fun e => e.1 ≠ p.digest) ++ [(p.digest, Tab.getMany 0 (d.ctx t).policy 0 64)]
    | none => l
  { d with ledger := { d.ledger with policy := allCtx.foldl one d.ledger.policy } }

/-- The fabric table goes to the ledger's configuration (R307, R423). -/
def saveFabricTable (d : Dev) : Dev := extendConfig { d with ledger := { d.ledger with fabricTable := wholeTable d.fabric.written } }

/-- What a bit of SCOPE commits: the region and its records. -/
def scopeSave : Nat → Region × (Dev → Dev)
  | 0 => (.config, saveRegion .config)
  | 1 => (.policy, savePolicies)
  | _ => (.config, saveFabricTable)

/-- Consecutive commits, each with its own hold-up check; the first that fails ends the command (R423). Answers the commits
made and the KiB written, and whether all were made. -/
def commitEach : List (Nat × Nat × BitVec 10) → Nat × Nat × Bool → Dev → (Nat × Nat × Bool) × Dev
  | [], r, d => (r, d)
  | (b, kib, holdup) :: rest, (n, w, _), d =>
    let (ok, d) := holdupCheck kib holdup d
    if ok then commitEach rest (n + 1, w + kib, true) (commitRegion (scopeSave b).1 kib (scopeSave b).2 d)
    else ((n, w, false), d)

/-- One commit of everything in the scope. -/
def commitOnce (l : List (Nat × Nat × BitVec 10)) (holdup : BitVec 10) (d : Dev) : (Nat × Nat × Bool) × Dev :=
  let total := (l.map (fun e => e.2.1)).foldl (· + ·) 0
  let (ok, d) := holdupCheck total holdup d
  if !ok then ((0, 0, false), d)
  else
    let n := d.ledger.commits
    let d := l.foldl (fun d (e : Nat × Nat × BitVec 10) => commitRegion (scopeSave e.1).1 e.2.1 (scopeSave e.1).2 d) d
    ((1, total, true), { d with ledger := { d.ledger with commits := n + 1 } })

/-- LEDGER_COMMIT (R422, R423): `kib` gives the changed records of each scope bit that is set, in SCOPE bit order, and `holdup`
the reading of each commit's check. -/
def ledgerCommit (scope : Nat) (kib : List Nat) (holdup : List (BitVec 10)) (d : Dev) : Dev :=
  if !executing d mgmtTill 0x0032 then d
  else if 8 ≤ scope then finish mgmtTill .badParam none none d
  else
    let bits := which 3 (bit scope)
    let l := bits.mapIdx (fun i b => (b, kib.getD i 0, holdup.getD i 0))
    if l.isEmpty then finish mgmtTill .ok none (some 0) d
    else
      let total := (l.map (fun e => e.2.1)).foldl (· + ·) 0
      let (r, d) := if 224 < total then commitEach l (0, 0, true) d else commitOnce l (holdup.headD 0) d
      let word := r.1 % 256 + put 8 24 r.2.1
      finish mgmtTill (if r.2.2 then .ok else .holdupLow) none (some word) d

def execLedgerCommit (scope : BitVec 8) (kib : List Nat) (holdup : List (BitVec 10)) (s : State) : Res :=
  s.upd (ledgerCommit scope.toNat kib holdup)

end Sys2Proof.Machine
end

