-- ==== Sys2Proof/Machine/Window.lean ====
section
/-! DEFINITION. The management window (01_organisation.md R20, R22, R28, R30; 15_host_commands.md R349, R372): which block and
register an offset names, reads and writes by offset. The host reaches the window through BAR0 at the same offsets. No access
size is stated: an access names the first byte of a register or of an 8-byte word of a table (DESIGN CHOICE, log entry 78). -/

namespace Sys2Proof.Machine

/-- First package address of the window (R27). -/
def windowBase : Nat := 0x300000000

/-- Index and rest of an offset in `n` equal parts from a base. -/
def inRun (o base stride n : Nat) : Option (Nat × Nat) :=
  if base ≤ o ∧ o < base + stride * n then some ((o - base) / stride, (o - base) % stride) else none

/-! ### Blocks (R30) -/

/-- The block of the window that an offset falls in, and the offset there: the hub's; of a die the sequencers', the read-only
copies of its descriptors and records, and the codec unit's; a cluster controller's, a core's, a stack controller's, a port's. -/
inductive Block where
  | hub (o : Nat)
  | seq (x o : Nat)
  | descs (x o : Nat)
  | convs (x o : Nat)
  | attns (x o : Nat)
  | cluster (c o : Nat)
  | core (p o : Nat)
  | stack (s o : Nat)
  | port (p o : Nat)
  | codec (x o : Nat)
  | hole
  deriving DecidableEq, Repr

/-- The block of an offset of die `x`'s block (R30, R66, R84, R110, R204, R219, R269, R315, R403). -/
def dieBlock (x o : Nat) : Block :=
  (((inRun o 0x100000 0x100000 1).map (fun p => Block.seq x p.2)) <|>
    ((inRun o 0x200000 0x30000 1).map (fun p => Block.descs x p.2)) <|>
    ((inRun o 0x300000 0x10000 1).map (fun p => Block.convs x p.2)) <|>
    ((inRun o 0x310000 0x10000 1).map (fun p => Block.attns x p.2)) <|>
    ((inRun o 0x400000 0x10000 4).map (fun p => Block.cluster (4 * x + p.1) p.2)) <|>
    ((inRun o 0x800000 0x1000 36).map (fun p => Block.core (36 * x + p.1) p.2)) <|>
    ((inRun o 0x1000000 0x10000 3).map (fun p => Block.stack (3 * x + p.1) p.2)) <|>
    ((inRun o 0x2000000 0x10000 6).map (fun p => Block.port (6 * x + p.1) p.2)) <|>
    ((inRun o 0x4000000 0x10000 1).map (fun p => Block.codec x p.2))).getD .hole

/-- The block of an offset of the window: the hub's 256 MiB, then 256 MiB for each die (R30). -/
def blockOf (o : Nat) : Block :=
  if o < 0x10000000 then .hub o
  else match inRun o 0x10000000 0x10000000 4 with
    | some (x, r) => dieBlock x r
    | none => .hole

/-! ### Register images that no page of STATUS_PEEK shows -/

/-- A read that changes nothing but what was answered. -/
def ro (f : Dev → Nat) (d : Dev) : Dev := answer (f d) d

/-- An 8-byte word of a table's bytes. -/
def tableWord (f : Dev → List Byte) (o : Nat) : Dev → Dev := ro (fun d => leAt (f d) o 8)

/-- A home descriptor's 48 bytes (R278). -/
def homeBytes (h : Home) : List Byte :=
  let l := leBytes 8 h.name ++ leBytes 8 h.size ++ leBytes 8 h.place ++ leBytes 4 h.gen.toNat ++ leBytes 1 h.tier ++
    leBytes 1 (b2n h.valid + put 1 1 (b2n h.compiler) + put 2 1 (b2n h.moving)) ++ leBytes 1 h.hint ++ leBytes 1 h.die ++
    leBytes 2 h.contexts.toNat ++ leBytes 2 h.number ++ leBytes 4 h.moved ++ leBytes 4 0
  l ++ leBytes 4 (crc32c l).toNat

/-- A layout table (R323). -/
def layoutBytes (l : RedLayout) : List Byte :=
  leBytes 8 l.epoch.toNat ++ leBytes 4 l.maskX.toNat ++ leBytes 4 l.maskY.toNat ++ leBytes 4 l.maskZ.toNat ++ leBytes 2 l.members ++
    leBytes 10 0 ++ l.backups.flatMap (fun b => leBytes 4 (match b with
      | some c => c.1 + put 5 5 c.2.1 + put 10 5 c.2.2 + put 15 1 1
      | none => 0))

/-- An entry of RUN_HEALTH (R192). -/
def healthBytes (h : Health) : List Byte :=
  leBytes 4 h.steps ++ leBytes 4 h.lastStep.toNat ++ leBytes 1 h.nanSteps ++ leBytes 1 h.infSteps ++ leBytes 2 h.satSteps ++
    leBytes 2 h.widened ++ leBytes 2 h.narrowed

/-- The record in a place of the hub ring: the latest whose INDEX falls there (R455). -/
def ringRecord (d : Dev) (i : Nat) : List Byte :=
  match d.err.ring.reverse.find? (fun (e : ErrEntry) => decide (e.index % 4096 = i)) with
  | some e => errBytes e
  | none => []

/-- The context that the sequencers show: the one that runs. -/
def shownCtx (d : Dev) (f : CtxId → Nat) : Nat := match d.seq.running with | some t => f t | none => 0

/-- STREAM_STATUS as a die's sequencers show it (R66). -/
def dieStreamStatus (d : Dev) : Nat := match d.seq.running with | some t => streamStatus d t | none => put 20 3 (seqCode d.seq.mode)

/-- LOOP_FAULT_ADDR and LOOP_FAULT_INFO of a slot (R128). -/
def loopFaultAddr (d : Dev) (k : Nat) : Nat := match Tab.get none d.loopFaults k with
  | some f => f.addr % 2 ^ 48 + put 48 3 f.resource + put 51 3 f.level
  | none => 0
def loopFaultInfo (d : Dev) (k : Nat) : Nat := match Tab.get none d.loopFaults k with
  | some f => f.pc % 65536 + put 16 2 f.kind + put 18 6 f.ldesc + put 24 1 1 + put 25 1 (b2n f.reported) + put 26 4 f.task
  | none => 0

/-- PORTER_STATUS and PORTER_FAULT of a core (R290). -/
def porterStatus (c : Core) : Nat :=
  let n := fun (f : Nat → Bool) => (c.entries.filter (fun (p : Nat × Entry) => f p.2.state)).length
  n (· != 0) % 1024 + put 10 10 (n (· == 2)) + match c.cancelling with | some t => put 20 1 1 + put 21 4 t.val | none => 0
def porterFaultImage (c : Core) : Nat := match c.porterFault with
  | some (a, cause, t) => a % 2 ^ 48 + put 48 3 cause + put 51 1 1 + put 52 4 t
  | none => 0

/-- MX_FAULT of a core (R84). -/
def mxFaultImage (c : Core) : Nat := min c.tileReplays 255 + put 8 8 (min c.accMismatches 255) + put 16 1 (b2n c.failed)

/-- STK_SCRUB and STK_TASTE of a stack (R269). -/
def stkScrubImage (d : Dev) (s : Nat) : Nat :=
  let c := Tab.get ({} : StackCfg) d.cfg.stk s
  b2n c.scrubEnable + put 1 15 c.scrubPeriod.toNat + put 32 32 (d.stk s).passes
def stkTasteImage (d : Dev) (s : Nat) : Nat :=
  let x := d.stk s
  x.tasteChan % 256 + put 8 3 x.tastePattern + put 11 1 (b2n x.tasteRunning) + put 12 1 (b2n x.tastePass) + put 13 17 x.tasteFirst +
    put 30 17 x.tasteLast + put 47 17 (min x.tasteCount (2 ^ 17 - 1))

/-- RED_BANK_STATUS and RED_BANK_FAULT of a port (R346). -/
def bankStatus (b : Bank2) : Nat := b.chunks.length % 8192 + put 13 1 (b2n b.full)
def bankFault (b : Bank2) : Nat :=
  (match b.fault with
    | some (r, c, s, t) => r % 2048 + put 11 25 c + put 36 2 s + put 38 1 1 + put 39 4 t
    | none => 0) + put 43 8 (min b.retries 255)

/-- Till registers (R381). -/
def tillRingImage (x : Till) : Nat := x.base.toNat * 4096 + put 48 5 x.log2.toNat + put 63 1 (b2n x.enable)
def cplRingImage (x : Till) : Nat := x.cplBase.toNat * 32 + put 48 5 x.cplLog2.toNat

/-- Pool registers that the image fixes (R246). -/
def poolGeom (p : Pool) : Nat :=
  p.pitches % 2 ^ 21 + put 21 21 p.sramPitches + put 42 8 p.layers + put 50 7 p.hkv + put 57 1 (b2n p.d128) + put 58 4 p.fmt

/-- 32 bits of a group of sources (R437). -/
def sourceBits (g : Nat) (f : Nat → Bool) : Nat := ((which 32 (fun i => f (32 * g + i))).map (fun i => 2 ^ i)).foldl (· + ·) 0

/-- EVT_SRC and EVT_CODE of a source (R437). -/
def evtSrcImage (d : Dev) (n : Nat) : Nat :=
  let r := d.route n
  r.criers.toNat + put 8 8 r.vecFirst.toNat + put 16 5 r.vecCount + put 21 1 (b2n r.wake) + put 32 9 (d.src n).next
def evtCodeImage (d : Dev) (n : Nat) : Nat :=
  let e := d.src n
  e.code.toNat + put 32 8 e.count + put 40 1 (b2n e.reraise)

/-- Groups without redundancy now (R456). -/
def groupsNow (d : Dev) : Nat := ((List.range 12).map (fun s => (which 8 (exposed d s)).length)).foldl (· + ·) 0

/-! ### Reads -/

/-- Hub registers with a place of their own, by offset. -/
def hubRegs : List (Nat × (Dev → Dev)) :=
  [ -- streams, engines and formats (R65, R86, R109)
    (0x2000, ro (fun d => d.cfg.streamWdog.toNat)), (0x2004, ro (fun d => d.cfg.streamQuantum.toNat)),
    (0x2008, ro (fun d => d.cfg.mxFailWindow.toNat)),
    (0x2010, ro (fun d => b2n d.cfg.stewardEnable + put 8 8 d.cfg.narrowDefault.toNat)),
    (0x2014, ro (fun d => d.cfg.ovfDefault.toNat + put 16 16 d.cfg.flushDefault.toNat)), (0x2018, ro stewardStatus),
    -- R175, R201, R218, R245
    (0x2020, ro (fun d => b2n d.cfg.forceFull)), (0x2030, ro (fun d => b2n d.cfg.healthEvt + put 1 1 (b2n d.cfg.hashEn))),
    (0x2038, hostOffloadRead), (0x2040, ro replayStatus), (0x2050, ro (fun d => b2n d.cfg.convNoSkip)),
    (0x2060, ro (fun d => b2n d.cfg.attnNoSkip)),
    -- R270, R291, R316, R345
    (0x2070, ro repairStatus), (0x2080, ro (fun d => d.cfg.moveShare.toNat + put 16 16 d.cfg.hostTimeout.toNat)), (0x2088, ro homeStatus),
    (0x2090, ro (fun d => put 2 1 (b2n d.cfg.autojoin) + put 16 16 d.cfg.fabricWait.toNat)), (0x2098, ro fabricStatus),
    (0x20A0, ro (fun d => b2n d.cfg.substEn + put 16 16 d.cfg.redDeadline.toNat)), (0x20A8, redStatusRead) ] ++
  [ -- R379, R380
    (0x2200, ro (fun d => d.cfg.hostDefer.toNat)), (0x2208, hostLinkRead), (0x2210, ro (fun d => d.host.tierOffset.toNat)),
    (0x2218, ro (fun d => d.host.tierSize / 65536 + put 32 20 (d.host.winName.toNat / 2 ^ 28) + put 52 9 (d.host.winSize / 2 ^ 28))),
    (0x2220, ro (fun d => d.host.agreed.toNat)),
    -- R425 to R427
    (0x2300, ro (fun d => leaseStatus d + put 32 16 d.lease.demotions)), (0x2308, ro (fun _ => 0)),
    (0x2310, ro (fun d => crierStatus d + put 32 32 d.lease.restarts)), (0x2318, ro (fun d => d.cfg.crierWdog.toNat)),
    (0x2320, ro (fun d => fwStatus d + put 32 32 d.fw.stagedVersion.toNat)),
    (0x2328, ro (fun d => awningStatus d + put 32 1 (b2n d.awning.tripped))),
    (0x2330, ro (fun d => d.cfg.throttleC.toNat + put 8 12 d.cfg.powerW.toNat + put 20 4 d.cfg.divMin.toNat)),
    (0x2338, ro (fun d => divCap d + put 4 8 115 + put 12 12 3000)), (0x2340, awningCountRead),
    (0x2348, ro (fun d => ledgerStatus d + put 32 32 d.ledger.commits)),
    (0x2350, ro (fun d => d.ledger.energy % 1024 + put 10 10 (min 1023 (d.ledger.needed10 / 10)) + put 20 1 (b2n d.ledger.low))) ] ++
  [ -- R456
    (0x2400, errStatusRead),
    (0x2408, ro (fun d => d.cfg.wearReplays.toNat + put 8 1 (b2n d.cfg.predictEn) + put 16 8 d.cfg.scrubS.toNat)),
    (0x2410, ro (fun d => min d.err.exposedMs (2 ^ 32 - 1) + put 32 7 (groupsNow d))),
    (0x2418, ro (fun d => d.err.rowsMarked % 65536 + put 16 8 d.err.colsMarked + put 24 16 d.err.banksUsed.toNat +
      put 40 16 d.err.bankMarked.toNat)),
    -- R475, R476
    (0x2500, clkStatusRead), (0x2508, ro (fun d => d.cfg.sagWarn.toNat)), (0x2510, sagStatusRead),
    (0x2518, ro (fun d => put 2 1 (b2n d.cfg.shutterEn) + put 16 16 d.cfg.idleUs.toNat)), (0x2520, pwrStatusRead), (0x2528, ro (fun _ => 0)),
    (0x2530, resetCauseRead),
    -- R491
    (0x2800, secStatusRead),
    (0x2808, ro (fun d => d.sec.svn % 128 + put 7 4 d.sec.revoked.toNat + put 11 2 d.sec.signSlot + put 32 7 d.ledger.arSvn)) ]

/-- A register of pool `n` (R246). -/
def poolReg (n : Nat) : Nat → Option (Dev → Dev)
  | 0x00 => some (ro (fun d => (d.pool n).table))
  | 0x08 => some (ro (fun d => (d.pool n).seq + put 48 13 (d.pool n).seqs))
  | 0x10 => some (ro (fun d => poolGeom (d.pool n)))
  | 0x18 => some (ro (fun d => poolState d n))
  | 0x20 => some (ro (fun d => poolEpoch d n))
  | 0x28 => some (ro (fun d => (Tab.get 200 d.cfg.poolWait n).toNat))
  | 0x30 => some (poolCountRead n)
  | 0x38 => some (ro (fun d => (d.pool n).attach.toNat))
  | _ => none

/-- A register of till `n` (R381). -/
def tillReg (n : TillId) : Nat → Option (Dev → Dev)
  | 0x00 => some (ro (fun d => tillRingImage (d.till n)))
  | 0x08 => some (ro (fun d => (d.till n).tail.toNat + put 32 32 (d.till n).head.toNat))
  | 0x10 => some (ro (fun d => cplRingImage (d.till n)))
  | 0x18 => some (ro (fun d => (d.till n).cplHead.toNat + put 32 32 (d.till n).cplTail.toNat))
  | 0x20 => some (ro (fun d => tillState (d.till n)))
  | _ => none

/-- A register of the event controller (R437). -/
def evtReg (src : Source) (o : Nat) : Option (Dev → Dev) :=
  let bits := fun (f : Dev → Nat → Bool) (g : Nat) => ro (fun d => sourceBits g (f d))
  match inRun o 0 0x80 7 with
  | some (b, r) =>
    if r % 4 ≠ 0 then none
    else match b with
      | 0 => some (bits (fun d n => (d.src n).pend) (r / 4))
      | 3 => some (bits (fun d n => (d.route n).mask) (r / 4))
      | 6 => some (bits (fun d n => (d.src n).active) (r / 4))
      | _ => some (ro (fun _ => 0))
  | none =>
    if o = 0x380 then some (ro (fun d => d.evt.enabled.toNat))
    else if o = 0x384 ∨ o = 0x388 then some (ro (fun _ => 0))
    else if o = 0x390 then some evtStatusRead
    else if o = 0x3A0 then some (evtClaim src)
    else match inRun o 0x1000 8 1024, inRun o 0x3000 8 1024 with
      | some (n, 0), _ => some (ro (fun d => evtSrcImage d n))
      | _, some (n, 0) => some (ro (fun d => evtCodeImage d n))
      | _, _ => none

/-- A table of the hub block: its first offset, the bytes of an entry, how many entries, and an entry's bytes. -/
def hubTables : List (Nat × Nat × Nat × (Dev → Nat → List Byte)) :=
  [ (0x1000, 256, 1, fun d _ => shapeBytes d),
    (0x2900, 32, 16, fun d i => leBytes 32 (Tab.get 0 d.sec.slots i).toNat),
    (0x20000, 16, 1024, fun d i => leBytes 16 (Tab.get 0 (d.ctx (Fin.ofNat 16 (i / 64))).policy (i % 64)).toNat),
    (0x40000, 16, 16384, fun d i => healthBytes (Tab.get {} d.health i)),
    (0x100000, 48, 65536, fun d i => homeBytes (d.home i)),
    (0x500000, 23392, 1, fun d _ => d.fabric.written),
    (0x510000, 96, 1, fun d _ => leBytes 96 ((which 768 (fun j => d.fabric.present.contains j)).foldl (fun acc j => acc + 2 ^ j) 0)),
    (0x520000, 4096, 16, fun d i => layoutBytes (d.redCtx (Fin.ofNat 16 i)).layout),
    (0x600000, 64, 32768, fun d i => slice (d.ctx (Fin.ofNat 16 (i / 2048))).theProg.reductions (64 * (i % 2048)) 64),
    (0xA00000, 64, 4096, ringRecord) ]

/-- A word of a table of the hub block. -/
def hubTable (o : Nat) : Option (Dev → Dev) :=
  hubTables.findSome? (fun (x : Nat × Nat × Nat × (Dev → Nat → List Byte)) =>
    match inRun o x.1 x.2.1 x.2.2.1 with
    | some (i, r) => if r % 8 = 0 then some (tableWord (fun d => x.2.2.2 d i) r) else none
    | none => none)

/-- A read of the hub block: a register, a pool's, a till's, a reading register, the event controller's, a table's word. -/
def hubRead (src : Source) (o : Nat) : Option (Dev → Dev) :=
  (hubRegs.lookup o) <|>
    ((inRun o 0x2100 0x40 4).bind (fun p => poolReg p.1 p.2)) <|>
    ((inRun o 0x2480 8 16).bind (fun p => if p.2 = 0 then
      some (ro (fun d => Tab.get 0 d.err.lifetime p.1 + put 32 32 (Tab.get 0 d.err.sinceBoot p.1))) else none)) <|>
    ((inRun o 0x2540 8 4).bind (fun p => if p.2 = 0 then some (fun d => let (v, d) := dieTemp p.1 d; answer v d) else none)) <|>
    ((inRun o 0x2600 8 64).bind (fun p => if p.2 = 0 ∧ p.1 % 16 < 7 then
      some (fun d => let (v, d) := railRead (p.1 / 16) (p.1 % 16) d; answer v d) else none)) <|>
    ((inRun o 0x3000 0x40 17).bind (fun p => tillReg (Fin.ofNat 17 p.1) p.2)) <|>
    ((inRun o 0x900000 0x5000 1).bind (fun p => evtReg src p.2)) <|>
    hubTable o

/-- A register of the sequencers as die `x` presents them (R66). -/
def seqReg (x : Nat) (o : Nat) : Option (Dev → Dev) :=
  match o with
  | 0x000 => some (ro dieStreamStatus)
  | 0x008 => some (streamStallRead x)
  | 0x010 => some (streamHoldRead x)
  | 0x018 => some (ro (fun d => shownCtx d (streamCkpt d)))
  | _ => match inRun o 0x20000 4 65536 with
    | some (i, 0) => some (ro (fun d => Tab.get 0 (d.ctx (Fin.ofNat 16 (i / 4096))).tokens (i % 4096)))
    | _ => none

/-- A word of the descriptor or record tables that a die's sequencers hold: `n` bytes to a descriptor, 64 descriptors to a
context (R110, R204, R219). -/
def storeWord (n : Nat) (f : Prog → List Byte) (o : Nat) : Option (Dev → Dev) :=
  if o % 8 = 0 then some (tableWord (fun d => slice (f (d.ctx (Fin.ofNat 16 (o / (64 * n)))).theProg) (n * (o / n % 64)) n) (o % n)) else none

/-- A barrow register of slot `k` in context `t` (R176). -/
def barrowReg (t : CtxId) (k : Nat) : Nat → Option (Dev → Dev)
  | 0x00 => some (ro (fun d => (d.bar t k).winBase + put 48 9 (d.bar t k).winUnits))
  | 0x08 => some (ro (fun d => (d.bar t k).spillBase))
  | 0x10 => some (ro (fun d => (d.bar t k).capUnits + put 24 9 (d.bar t k).spillMark + put 33 9 (d.bar t k).refillMark))
  | 0x18 => some (ro (fun d => barrowTop (d.bar t k)))
  | 0x20 => some (ro (fun d => barrowStatus (d.bar t k)))
  | 0x28 => some (barrowTrafficRead t k)
  | 0x30 => some (ro (fun d => (d.bar t k).accSave))
  | _ => none

/-- A register of cluster controller `c`'s block (R20, R128, R176). -/
def clusterReg (c o : Nat) : Option (Dev → Dev) :=
  match o with
  | 0x000 => some (ro (fun d => clusterSlotMap d c))
  | 0x004 => some (ro (fun d => clusterStatus d c))
  | 0x008 => some (ro (fun _ => 0))
  | _ => match inRun o 0x100 0x10 8, inRun o 0x1000 0x40 128 with
    | some (s, 0), _ => some (ro (fun d => loopFaultAddr d (8 * c + s)))
    | some (s, 8), _ => some (ro (fun d => loopFaultInfo d (8 * c + s)))
    | _, some (i, r) => barrowReg (Fin.ofNat 16 (i / 8)) (8 * c + i % 8) r
    | _, _ => none

/-- A register of physical core `p`'s block (R84, R145, R146, R175, R202, R218, R245, R290). -/
def coreReg (p : Nat) : Nat → Option (Dev → Dev)
  | 0x000 => some (ro (fun d => mxStatus d p))
  | 0x008 => some (coreRead p (·.swapHold) (fun x => { x with swapHold := 0 }))
  | 0x010 => some (coreRead p (·.pause) (fun x => { x with pause := 0 }))
  | 0x018 => some (coreRead p (·.mxBusy) (fun x => { x with mxBusy := 0 }))
  | 0x020 => some (ro (fun d => mxFaultImage (d.core p)))
  | 0x028 => some (ro (fun d => b2n (d.core p).forceRamp))
  | 0x100 => some (ro (fun d => vxStatus d p))
  | 0x108 => some (coreRead p (·.vxBusy) (fun x => { x with vxBusy := 0 }))
  | 0x110 => some (ro (fun d => vxFault d p))
  | 0x118 => some (ro (fun _ => 0))
  | 0x200 => some (ro (fun d => txStatus d p))
  | 0x208 => some (coreRead p (·.txBusy) (fun x => { x with txBusy := 0 }))
  | 0x210 => some (ro (fun d => min (d.core p).txRetries 255))
  | 0x218 => some (ro (fun _ => 0))
  | 0x300 => some (coreRead p (·.bwdSkip) (fun x => { x with bwdSkip := 0 }))
  | 0x340 => some (frcStatsRead p)
  | 0x348 => some (ro (fun d => min (d.core p).frcRetries 255 + put 8 8 (min (d.core p).frcNonfinite 255)))
  | 0x380 => some (coreRead p (·.convSkip) (fun x => { x with convSkip := 0 }))
  | 0x3C0 => some (coreRead p (·.attnSkip) (fun x => { x with attnSkip := 0 }))
  | 0x400 => some (ro (fun d => porterStatus (d.core p)))
  | 0x408 => some (porterBytesRead p)
  | 0x410 => some (porterDiscardRead p)
  | 0x418 => some (ro (fun d => porterFaultImage (d.core p)))
  | 0x420 => some (porterHomemissRead p)
  | _ => none

/-- A register of stack controller `s`'s block (R269). -/
def stackReg (s o : Nat) : Option (Dev → Dev) :=
  match o with
  | 0x000 => some (ro (fun d => stkStatus d s))
  | 0x008 => some (stkErrorsRead s)
  | 0x010 => some (ro (fun d => (Tab.get ({} : StackCfg) d.cfg.stk s).ceLimit.toNat))
  | 0x018 => some (ro (fun d => stkScrubImage d s))
  | 0x020 => some (ro (fun d => stkTasteImage d s))
  | _ => match inRun o 0x400 4 136 with
    | some (n, 0) => some (ro (fun d => chanImage (d.chan s n)))
    | _ => none

/-- A register of port `p`'s block (R315, R346). -/
def portReg (p : Nat) : Nat → Option (Dev → Dev)
  | 0x000 => some (ro (fun d => linkStatus d p))
  | 0x008 => some (linkErrorsRead p)
  | 0x010 => some (linkTrafficRead p)
  | 0x018 => some (linkRefusedRead p)
  | 0x020 => some (ro (fun d => b2n (d.linkCfg p).enable + put 8 8 (d.linkCfg p).laneLimit.toNat))
  | 0x100 => some (ro (fun d => bankStatus (d.adderBank p)))
  | 0x108 => some (redBankCountRead p)
  | 0x110 => some (ro (fun d => bankFault (d.adderBank p)))
  | 0x118 => some (ro (fun _ => 0))
  | _ => none

/-- A register of codec unit `x` (R403). -/
def codecReg (x : Nat) : Nat → Option (Dev → Dev)
  | 0x000 => some (ro (fun d => codecStatus d x))
  | 0x008 => some (ro (fun d => (Tab.get 20 d.cfg.codecPoll x).toNat))
  | 0x010 => some (ro (fun d => (Tab.get 100 d.cfg.codecLimit x).toNat))
  | 0x018 => some (codecCountRead x)
  | 0x020 => some (ro (fun d => codecFault d x))
  | _ => none

/-- What a read of an offset of the window does; none where nothing is populated. -/
def windowReg (src : Source) (o : Nat) : Option (Dev → Dev) :=
  match blockOf o with
  | .hub o => hubRead src o
  | .seq x o => seqReg x o
  | .descs _ o => storeWord 192 Prog.descBytes o
  | .convs _ o => storeWord 64 (fun p => p.conv.flatten) o
  | .attns _ o => storeWord 64 (fun p => p.attn.flatten) o
  | .cluster c o => clusterReg c o
  | .core p o => coreReg p o
  | .stack s o => stackReg s o
  | .port p o => portReg p o
  | .codec x o => codecReg x o
  | .hole => none

/-- A management read (R28): the register's value, with its read effect; of an unpopulated offset zero, and logged. -/
def managementRead (src : Source) (o : Nat) (d : Dev) : Dev :=
  match windowReg src o with
  | some f => f d
  | none => answer 0 (logIgnored d)

/-! ### Writes -/

/-- Hub registers that a write stores to by their own tables, by offset. -/
def hubWritable : List (Nat × Reg) :=
  [ (0x2000, .streamWdog), (0x2004, .streamQuantum), (0x2008, .mxFailWindow), (0x2010, .fmtStewardCtrl), (0x2014, .fmtStewardDefaults),
    (0x2020, .bwdCtrl), (0x2030, .actCtrl), (0x2050, .convCtrl), (0x2060, .attnCtrl), (0x2080, .homeCtrl), (0x2090, .fabricCtrl),
    (0x20A0, .redCtrl), (0x2128, .poolWait 0), (0x2168, .poolWait 1), (0x21A8, .poolWait 2), (0x21E8, .poolWait 3), (0x2200, .hostCtrl),
    (0x2210, .hostTier), (0x2218, .hostWindow), (0x2318, .crierWdog), (0x2408, .errCtrl), (0x2508, .sagCtrl), (0x2518, .pwrCtrl) ]

/-- RESET_CTRL (R476): the package, the dies and the core that the write names. Whether the reset finds a commit in progress is an
open value. -/
def resetCtrl (src : Source) (v : Nat) (d : Dev) : Dev :=
  let core := field v 12 5
  if bit v 0 then
    let (c, d) := useFree 1 d
    hubWrite src (hubReset { kind := 4, commit := c == 1 } false true) d
  else
    let d := (which 4 (fun x => bit v (1 + x))).foldl (fun d x => hubWrite src (resetDie x) d) d
    if bit v 13 && decide (core < 144) then
      dieWrite (.coreReset src (Fin.ofNat 144 core)) src (dieOfCore core) (coreReset core) d
    else d

/-- A till's register written through the window: BAR0's rule gates the host (R372, R381). -/
def tillAt (src : Source) (n : TillId) (o v : Nat) (d : Dev) : Dev :=
  hubWrite src (fun d =>
    match o with
    | 0x00 => writeTillRing n v d
    | 0x08 => d.modTill n (fun x => { x with tail := BitVec.ofNat 32 v })
    | 0x10 => writeCplRing n v d
    | 0x18 => cplHeadAdvance n (BitVec.ofNat 32 v) d
    | 0x20 => d
    | _ => logIgnored d) d

/-- A write of half a policy entry leaves the other half (R106). -/
def policyAt (src : Source) (i half v : Nat) (d : Dev) : Dev :=
  let t : CtxId := Fin.ofNat 16 (i / 64)
  let old := (Tab.get 0 (d.ctx t).policy (i % 64)).toNat
  let new := if half = 0 then v % 2 ^ 64 + 2 ^ 64 * (old / 2 ^ 64) else old % 2 ^ 64 + 2 ^ 64 * v
  policyEntryWrite src t (i % 64) (BitVec.ofNat 128 new) d

/-- A write to the event controller (R434, R437); none where it presents nothing that takes a write. -/
def evtAt (src : Source) (o v : Nat) : Option (Dev → Dev) :=
  let bits := BitVec.ofNat 32 v
  match inRun o 0 0x80 7 with
  | some (b, r) =>
    let g : Fin 32 := Fin.ofNat 32 (r / 4)
    if r % 4 ≠ 0 then none
    else match b with
      | 1 => some (evtGroupWrite src g bits (fun n => raiseEvent n 0))
      | 2 => some (evtGroupWrite src g bits (fun n d => d.modSrc n clearSrc))
      | 4 => some (evtGroupWrite src g bits (fun n d => d.modRoute n (fun r => { r with mask := true })))
      | 5 => some (evtGroupWrite src g bits (fun n d => d.modRoute n (fun r => { r with mask := false })))
      | _ => none
  | none =>
    if o = 0x384 then some (evtCrierSet src (BitVec.ofNat 8 v))
    else if o = 0x388 then some (fun d => writeFrom src (expert d) (fun _ => true) (clearCrierEn (crierBits src (BitVec.ofNat 8 v))) d)
    else match inRun o 0x1000 8 1024 with
      | some (n, 0) => some (writeEvtSrc src n v)
      | _ => none

/-- A write of the hub block; none where it presents nothing that takes a write. -/
def hubAt (src : Source) (o : Nat) (v : BitVec 64) : Option (Dev → Dev) :=
  let n := v.toNat
  ((hubWritable.lookup o).map (fun r => registerWrite src r v)) <|>
    (if o = 0x2308 then some (fun d => if bit n 0 then leaseYield src d else d) else none) <|>
    (if o = 0x2330 then some (awningLimitWrite src (BitVec.ofNat 32 n)) else none) <|>
    (if o = 0x2528 then some (resetCtrl src n) else none) <|>
    ((inRun o 0x3000 0x40 17).map (fun p => tillAt src (Fin.ofNat 17 p.1) p.2 n)) <|>
    ((inRun o 0x20000 16 1024).bind (fun p => if p.2 % 8 = 0 then some (policyAt src p.1 p.2 n) else none)) <|>
    ((inRun o 0x500000 23392 1).map (fun p => registerWrite src (.fabricTable (BitVec.ofNat 16 p.2)) v)) <|>
    ((inRun o 0x900000 0x5000 1).bind (fun p => evtAt src p.2 n))

/-- INJECT of a vector or transpose engine's CTRL register (R145 to R147). -/
def injectAt (cmd : Instr) (src : Source) (core : Nat) (f : Core → Core) (n : Nat) (d : Dev) : Dev :=
  if bit n 0 then dieLeadWrite cmd src (dieOfCore core) (injectCore core f) d else d

/-- A write of a die's block; none where it presents nothing that takes a write. -/
def dieAt (src : Source) (b : Block) (v : BitVec 64) : Option (Dev → Dev) :=
  let n := v.toNat
  let cfg := fun (r : Reg) => some (registerWrite src r v)
  match b with
  | .cluster c o =>
    let id : ClusterId := Fin.ofNat 16 c
    if o = 0x008 then some (fun d => dieOwnWrite (.clusterRetire src id (BitVec.ofNat 9 n)) src (dieOfCluster c) (retireBits c (BitVec.ofNat 9 n)) d)
    else match inRun o 0x1000 0x40 128 with
      | some (i, 0x10) => cfg (.barrowCap (Fin.ofNat 16 (i / 8)) (Fin.ofNat 128 (8 * c + i % 8)))
      | _ => none
  | .core p o =>
    let id : CoreId := Fin.ofNat 144 p
    match o with
    | 0x028 => cfg (.mxCtrl id)
    | 0x118 => some (injectAt (.vxInject src id) src p (fun x => { x with vxInject := true }) n)
    | 0x218 => some (injectAt (.txInject src id) src p (fun x => { x with txInject := true }) n)
    | _ => none
  | .stack s o => if o = 0x010 then cfg (.stkCeLimit (Fin.ofNat 12 s)) else if o = 0x018 then cfg (.stkScrub (Fin.ofNat 12 s)) else none
  | .port p o =>
    let id : PortId := Fin.ofNat 24 p
    if o = 0x020 then cfg (.linkCtrl id)
    else if o = 0x118 then
      some (fun d => if bit n 0 then dieLeadWrite (.bankInject src id) src (dieOfPort p) (bankInject p) d else d)
    else none
  | .codec x o => if o = 0x008 then cfg (.codecCtrl (Fin.ofNat 4 x)) else if o = 0x010 then cfg (.codecLimit (Fin.ofNat 4 x)) else none
  | _ => none

/-- A management write by offset (R28, R30): a register that takes no write keeps its value; where nothing is populated the write is
ignored and logged. -/
def managementWrite (src : Source) (o : Nat) (v : BitVec 64) (d : Dev) : Dev :=
  match (match blockOf o with | .hub r => hubAt src r v | b => dieAt src b v) with
  | some f => f d
  | none => match windowReg src o with
    | some _ => d
    | none => logIgnored d

/-- REGISTER_WRITE: a register by its name, or by its offset in the window. -/
def execRegisterWrite (src : Source) (r : Reg) (v : BitVec 64) (s : State) : Res :=
  s.upd (match r with
    | .address o => managementWrite src o.toNat v
    | r => registerWrite src r v)

end Sys2Proof.Machine
end

