-- ==== Sys2Proof/Machine/Dispatch.lean ====
section
/-! DEFINITION. The meaning of every command, one arm per constructor of Instr. -/

namespace Sys2Proof.Machine

def exec (i : Instr) (s : State) : Host.Outcome State Fault Refusal :=
  match i with
  | .registerWrite src r v => Sys2Proof.Machine.execRegisterWrite src r v s
  | .coreReset src c => Sys2Proof.Machine.execCoreReset src c s
  | .clusterRetire src c bits => Sys2Proof.Machine.execClusterRetire src c bits s
  | .mxInject src c => Sys2Proof.Machine.execMxInject src c s
  | .vxInject src c => Sys2Proof.Machine.execVxInject src c s
  | .txInject src c => Sys2Proof.Machine.execTxInject src c s
  | .bankInject src p => Sys2Proof.Machine.execBankInject src p s
  | .idleBundle t n => Sys2Proof.Machine.execIdleBundle t n s
  | .endBundle t => Sys2Proof.Machine.execEndBundle t s
  | .smovi t dst imm => Sys2Proof.Machine.execSmovi t dst imm s
  | .sadd t dst src imm => Sys2Proof.Machine.execSadd t dst src imm s
  | .loop t level src imm => Sys2Proof.Machine.execLoop t level src imm s
  | .br t imm => Sys2Proof.Machine.execBr t imm s
  | .brz t src imm => Sys2Proof.Machine.execBrz t src imm s
  | .brnz t src imm => Sys2Proof.Machine.execBrnz t src imm s
  | .bset t dst mask imm ext => Sys2Proof.Machine.execBset t dst mask imm ext s
  | .badd t dst src mask imm => Sys2Proof.Machine.execBadd t dst src mask imm s
  | .brow t dst src mask imm => Sys2Proof.Machine.execBrow t dst src mask imm s
  | .mload t dst imm => Sys2Proof.Machine.execMload t dst imm s
  | .bell t b => Sys2Proof.Machine.execBell t b s
  | .tclear t token => Sys2Proof.Machine.execTclear t token s
  | .signal t arg => Sys2Proof.Machine.execSignal t arg s
  | .tokenArrival t token => Sys2Proof.Machine.execTokenArrival t token s
  | .bellRelease t waited => Sys2Proof.Machine.execBellRelease t waited s
  | .bellWatchdogExpiry t => Sys2Proof.Machine.execBellWatchdogExpiry t s
  | .engineLate at_ => Sys2Proof.Machine.execEngineLate at_ s
  | .issueHoldEnd held => Sys2Proof.Machine.execIssueHoldEnd held s
  | .issueHoldTimeout c => Sys2Proof.Machine.execIssueHoldTimeout c s
  | .ckptLimitExceeded t => Sys2Proof.Machine.execCkptLimitExceeded t s
  | .ckptSpacingHoldEnd t held => Sys2Proof.Machine.execCkptSpacingHoldEnd t held s
  | .faultReport t k older kind => Sys2Proof.Machine.execFaultReport t k older kind s
  | .soloReplayStart => Sys2Proof.Machine.execSoloReplayStart s
  | .soloReplayEnd replayed waits => Sys2Proof.Machine.execSoloReplayEnd replayed waits s
  | .quantumExpiry => Sys2Proof.Machine.execQuantumExpiry s
  | .preemption t => Sys2Proof.Machine.execPreemption t s
  | .preemptDrainDone => Sys2Proof.Machine.execPreemptDrainDone s
  | .taskSwitch => Sys2Proof.Machine.execTaskSwitch s
  | .taskResume => Sys2Proof.Machine.execTaskResume s
  | .taskEnd t => Sys2Proof.Machine.execTaskEnd t s
  | .contextFree t => Sys2Proof.Machine.execContextFree t s
  | .mma t o => Sys2Proof.Machine.execMma t o s
  | .sload t o => Sys2Proof.Machine.execSload t o s
  | .sloadComplete t k => Sys2Proof.Machine.execSloadComplete t k s
  | .accwrite t o => Sys2Proof.Machine.execAccwrite t o s
  | .acczero t o => Sys2Proof.Machine.execAcczero t o s
  | .bankSwap t k held => Sys2Proof.Machine.execBankSwap t k held s
  | .mxOpComplete c busy => Sys2Proof.Machine.execMxOpComplete c busy s
  | .arrayRampDown c => Sys2Proof.Machine.execArrayRampDown c s
  | .rampDownEnd c => Sys2Proof.Machine.execRampDownEnd c s
  | .throttlePause d => Sys2Proof.Machine.execThrottlePause d s
  | .pauseRelease d cycles => Sys2Proof.Machine.execPauseRelease d cycles s
  | .tileRefeed c => Sys2Proof.Machine.execTileRefeed c s
  | .conv t o => Sys2Proof.Machine.execConv t o s
  | .convt t o => Sys2Proof.Machine.execConvt t o s
  | .convwg4 t o => Sys2Proof.Machine.execConvwg4 t o s
  | .convwg2 t o => Sys2Proof.Machine.execConvwg2 t o s
  | .convdw t o => Sys2Proof.Machine.execConvdw t o s
  | .attn t o => Sys2Proof.Machine.execAttn t o s
  | .attnFin t o => Sys2Proof.Machine.execAttnFin t o s
  | .attnBwd t o => Sys2Proof.Machine.execAttnBwd t o s
  | .kvAppend t o => Sys2Proof.Machine.execKvAppend t o s
  | .attnDec t o => Sys2Proof.Machine.execAttnDec t o s
  | .add t o => Sys2Proof.Machine.execAdd t o s
  | .sub t o => Sys2Proof.Machine.execSub t o s
  | .mul t o => Sys2Proof.Machine.execMul t o s
  | .fma t o => Sys2Proof.Machine.execFma t o s
  | .max t o => Sys2Proof.Machine.execMax t o s
  | .min t o => Sys2Proof.Machine.execMin t o s
  | .scale t o => Sys2Proof.Machine.execScale t o s
  | .offset t o => Sys2Proof.Machine.execOffset t o s
  | .cvt t o => Sys2Proof.Machine.execCvt t o s
  | .select t o => Sys2Proof.Machine.execSelect t o s
  | .redsum t o => Sys2Proof.Machine.execRedsum t o s
  | .redmax t o => Sys2Proof.Machine.execRedmax t o s
  | .redsumsq t o => Sys2Proof.Machine.execRedsumsq t o s
  | .ksum t o => Sys2Proof.Machine.execKsum t o s
  | .expsub t o => Sys2Proof.Machine.execExpsub t o s
  | .recip t o => Sys2Proof.Machine.execRecip t o s
  | .sqrt t o => Sys2Proof.Machine.execSqrt t o s
  | .rsqrt t o => Sys2Proof.Machine.execRsqrt t o s
  | .exp t o => Sys2Proof.Machine.execExp t o s
  | .log t o => Sys2Proof.Machine.execLog t o s
  | .sigmoid t o => Sys2Proof.Machine.execSigmoid t o s
  | .tanh t o => Sys2Proof.Machine.execTanh t o s
  | .gelu t o => Sys2Proof.Machine.execGelu t o s
  | .silu t o => Sys2Proof.Machine.execSilu t o s
  | .rngu t o => Sys2Proof.Machine.execRngu t o s
  | .rngn t o => Sys2Proof.Machine.execRngn t o s
  | .dropmask t o => Sys2Proof.Machine.execDropmask t o s
  | .optstep t o => Sys2Proof.Machine.execOptstep t o s
  | .vxOpComplete c ended => Sys2Proof.Machine.execVxOpComplete c ended s
  | .tcopy t o => Sys2Proof.Machine.execTcopy t o s
  | .tblock t o => Sys2Proof.Machine.execTblock t o s
  | .txOpComplete c ended => Sys2Proof.Machine.execTxOpComplete c ended s
  | .copy t o => Sys2Proof.Machine.execCopy t o s
  | .encode t o => Sys2Proof.Machine.execEncode t o s
  | .decode t o => Sys2Proof.Machine.execDecode t o s
  | .ring t o => Sys2Proof.Machine.execRing t o s
  | .lsend t o => Sys2Proof.Machine.execLsend t o s
  | .rxmax t o => Sys2Proof.Machine.execRxmax t o s
  | .rsend t o => Sys2Proof.Machine.execRsend t o s
  | .rgather t o => Sys2Proof.Machine.execRgather t o s
  | .bpush t o => Sys2Proof.Machine.execBpush t o s
  | .bpushoff t o => Sys2Proof.Machine.execBpushoff t o s
  | .bpushrc t o => Sys2Proof.Machine.execBpushrc t o s
  | .bpop t o => Sys2Proof.Machine.execBpop t o s
  | .transferIssue c e => Sys2Proof.Machine.execTransferIssue c e s
  | .transferLanded c e => Sys2Proof.Machine.execTransferLanded c e s
  | .transferFault c e poisoned => Sys2Proof.Machine.execTransferFault c e poisoned s
  | .hostTimeout c e => Sys2Proof.Machine.execHostTimeout c e s
  | .responseDiscard c e gen => Sys2Proof.Machine.execResponseDiscard c e gen s
  | .cancelComplete t => Sys2Proof.Machine.execCancelComplete t s
  | .spillDone t k unit => Sys2Proof.Machine.execSpillDone t k unit s
  | .pushResume t k => Sys2Proof.Machine.execPushResume t k s
  | .refillDone t k unit => Sys2Proof.Machine.execRefillDone t k unit s
  | .protectRelease t k => Sys2Proof.Machine.execProtectRelease t k s
  | .prefetchBackLanded t k index => Sys2Proof.Machine.execPrefetchBackLanded t k index s
  | .hostWriteAck t k index => Sys2Proof.Machine.execHostWriteAck t k index s
  | .stewardPass t => Sys2Proof.Machine.execStewardPass t s
  | .stepReplay t p => Sys2Proof.Machine.execStepReplay t p s
  | .replayStop t => Sys2Proof.Machine.execReplayStop t s
  | .tapDumpLanded t => Sys2Proof.Machine.execTapDumpLanded t s
  | .poolWaitExpiry t p => Sys2Proof.Machine.execPoolWaitExpiry t p s
  | .stackRead a len consumer chk => Sys2Proof.Machine.execStackRead a len consumer chk s
  | .stackWrite a data => Sys2Proof.Machine.execStackWrite a data s
  | .channelFailed x_ x => Sys2Proof.Machine.execChannelFailed x_ x s
  | .channelCut x_ x => Sys2Proof.Machine.execChannelCut x_ x s
  | .relocateDone x_ x => Sys2Proof.Machine.execRelocateDone x_ x s
  | .reformDone x_ x kib holdup => Sys2Proof.Machine.execReformDone x_ x kib holdup s
  | .channelDrainEnd x_ x => Sys2Proof.Machine.execChannelDrainEnd x_ x s
  | .resilverDone x_ x => Sys2Proof.Machine.execResilverDone x_ x s
  | .tasteChannel x_ x pattern => Sys2Proof.Machine.execTasteChannel x_ x pattern s
  | .tasteDone x_ r => Sys2Proof.Machine.execTasteDone x_ r s
  | .repairStack x_ x kib holdup => Sys2Proof.Machine.execRepairStack x_ x kib holdup s
  | .repairStepDone r kib holdup => Sys2Proof.Machine.execRepairStepDone r kib holdup s
  | .repairJournalResolve kept kib holdup => Sys2Proof.Machine.execRepairJournalResolve kept kib holdup s
  | .stackTraining failed kept => Sys2Proof.Machine.execStackTraining failed kept s
  | .scrubPass x_ parityFixed => Sys2Proof.Machine.execScrubPass x_ parityFixed s
  | .moveObject handle tier die => Sys2Proof.Machine.execMoveObject handle tier die s
  | .moveUnit => Sys2Proof.Machine.execMoveUnit s
  | .hintPlacement context hint number apply => Sys2Proof.Machine.execHintPlacement context hint number apply s
  | .flitReceive p seq ack nak credit payload crcOk => Sys2Proof.Machine.execFlitReceive p seq ack nak credit payload crcOk s
  | .flitNak p seq => Sys2Proof.Machine.execFlitNak p seq s
  | .laneFail p lane => Sys2Proof.Machine.execLaneFail p lane s
  | .laneSwapDone p => Sys2Proof.Machine.execLaneSwapDone p s
  | .portDown p => Sys2Proof.Machine.execPortDown p s
  | .portRetrainTimer p => Sys2Proof.Machine.execPortRetrainTimer p s
  | .linkWritePacket p k => Sys2Proof.Machine.execLinkWritePacket p k s
  | .linkTokenPacket p k => Sys2Proof.Machine.execLinkTokenPacket p k s
  | .linkWriteAck p t k entry token => Sys2Proof.Machine.execLinkWriteAck p t k entry token s
  | .linkRefusal p t k entry reason resource => Sys2Proof.Machine.execLinkRefusal p t k entry reason resource s
  | .packetForward p hops k => Sys2Proof.Machine.execPacketForward p hops k s
  | .linkDownNotice l => Sys2Proof.Machine.execLinkDownNotice l s
  | .heldPacketResend p => Sys2Proof.Machine.execHeldPacketResend p s
  | .linkTrainingDone p failedLanes => Sys2Proof.Machine.execLinkTrainingDone p failedLanes s
  | .identityExchange p chainOk sigOk peer digest => Sys2Proof.Machine.execIdentityExchange p chainOk sigOk peer digest s
  | .coordRound links => Sys2Proof.Machine.execCoordRound links s
  | .readyNotice coord digest => Sys2Proof.Machine.execReadyNotice coord digest s
  | .fabricWaitExpiry => Sys2Proof.Machine.execFabricWaitExpiry s
  | .portJoin p => Sys2Proof.Machine.execPortJoin p s
  | .fabricLeave src => Sys2Proof.Machine.execFabricLeave src s
  | .leaveForwardEnd => Sys2Proof.Machine.execLeaveForwardEnd s
  | .leaveNotice coord => Sys2Proof.Machine.execLeaveNotice coord s
  | .fabricResolve src => Sys2Proof.Machine.execFabricResolve src s
  | .linkRetrain src p => Sys2Proof.Machine.execLinkRetrain src p s
  | .reductionAddPacket p k => Sys2Proof.Machine.execReductionAddPacket p k s
  | .reductionMaxPacket p k => Sys2Proof.Machine.execReductionMaxPacket p k s
  | .handoffFrameWrite t reduction chunk => Sys2Proof.Machine.execHandoffFrameWrite t reduction chunk s
  | .reductionReturnPacket p k => Sys2Proof.Machine.execReductionReturnPacket p k s
  | .reductionRequest p k add => Sys2Proof.Machine.execReductionRequest p k add s
  | .stageDeadline p t reduction chunk add => Sys2Proof.Machine.execStageDeadline p t reduction chunk add s
  | .tallyAbortNotice t reduction stage => Sys2Proof.Machine.execTallyAbortNotice t reduction stage s
  | .reshard context layout => Sys2Proof.Machine.execReshard context layout s
  | .haggle version features reply => Sys2Proof.Machine.execHaggle version features reply s
  | .statusPeek page reply doe => Sys2Proof.Machine.execStatusPeek page reply doe s
  | .hostMap tierOffset tierSize winName winSize => Sys2Proof.Machine.execHostMap tierOffset tierSize winName winSize s
  | .selfTest scope index => Sys2Proof.Machine.execSelfTest scope index s
  | .testStart => Sys2Proof.Machine.execTestStart s
  | .selfTestDone failed others => Sys2Proof.Machine.execSelfTestDone failed others s
  | .testDeferExpiry => Sys2Proof.Machine.execTestDeferExpiry s
  | .fwStage image bytes digest actual writeOk kib holdup => Sys2Proof.Machine.execFwStage image bytes digest actual writeOk kib holdup s
  | .fwActivate version => Sys2Proof.Machine.execFwActivate version s
  | .fwStandbyBooted ok => Sys2Proof.Machine.execFwStandbyBooted ok s
  | .fwQuiesced => Sys2Proof.Machine.execFwQuiesced s
  | .fwAdopt ok => Sys2Proof.Machine.execFwAdopt ok s
  | .fwBankCommit kib holdup => Sys2Proof.Machine.execFwBankCommit kib holdup s
  | .fwRejoinDone => Sys2Proof.Machine.execFwRejoinDone s
  | .emergencyClear => Sys2Proof.Machine.execEmergencyClear s
  | .fwDeferExpiry => Sys2Proof.Machine.execFwDeferExpiry s
  | .ledgerCommit scope kib holdup => Sys2Proof.Machine.execLedgerCommit scope kib holdup s
  | .loadProgram t image bytes digest places => Sys2Proof.Machine.execLoadProgram t image bytes digest places s
  | .unloadProgram t => Sys2Proof.Machine.execUnloadProgram t s
  | .runTask t p => Sys2Proof.Machine.execRunTask t p s
  | .taskStart t => Sys2Proof.Machine.execTaskStart t s
  | .abortTask t earlier k => Sys2Proof.Machine.execAbortTask t earlier k s
  | .tillDoorbell n tail => Sys2Proof.Machine.execTillDoorbell n tail s
  | .packetTake n k => Sys2Proof.Machine.execPacketTake n k s
  | .tillEnable n base log2 => Sys2Proof.Machine.execTillEnable n base log2 s
  | .cplHeadAdvance n head => Sys2Proof.Machine.execCplHeadAdvance n head s
  | .doeDiscovery index => Sys2Proof.Machine.execDoeDiscovery index s
  | .cdatAccess => Sys2Proof.Machine.execCdatAccess s
  | .doeAttestation kind reserved nonce => Sys2Proof.Machine.execDoeAttestation kind reserved nonce s
  | .cxlMemRead x len => Sys2Proof.Machine.execCxlMemRead x len s
  | .cxlMemWrite x data => Sys2Proof.Machine.execCxlMemWrite x data s
  | .cxlSnoop => Sys2Proof.Machine.execCxlSnoop s
  | .cxlLinkDown slow => Sys2Proof.Machine.execCxlLinkDown slow s
  | .cxlLinkUp rate width => Sys2Proof.Machine.execCxlLinkUp rate width s
  | .cxlConventionalReset => Sys2Proof.Machine.execCxlConventionalReset s
  | .msixUnmask v => Sys2Proof.Machine.execMsixUnmask v s
  | .codecPoll d x_ req reqSeq jobTail bsTail recHead => Sys2Proof.Machine.execCodecPoll d x_ req reqSeq jobTail bsTail recHead s
  | .streamOpen d x_ x => Sys2Proof.Machine.execStreamOpen d x_ x s
  | .streamClose d x_ => Sys2Proof.Machine.execStreamClose d x_ s
  | .codecJob d x_ j => Sys2Proof.Machine.execCodecJob d x_ j s
  | .codecRowDone d x_ pixel consumed r => Sys2Proof.Machine.execCodecRowDone d x_ pixel consumed r s
  | .pictureTimeLimit d x_ => Sys2Proof.Machine.execPictureTimeLimit d x_ s
  | .heartbeat c => Sys2Proof.Machine.execHeartbeat c s
  | .leaseExpiry => Sys2Proof.Machine.execLeaseExpiry s
  | .leaseRequest b => Sys2Proof.Machine.execLeaseRequest b s
  | .contentionWindowEnd => Sys2Proof.Machine.execContentionWindowEnd s
  | .leaseYield src => Sys2Proof.Machine.execLeaseYield src s
  | .mirrorApply => Sys2Proof.Machine.execMirrorApply s
  | .crierWatchdogExpiry c => Sys2Proof.Machine.execCrierWatchdogExpiry c s
  | .crierCrash c => Sys2Proof.Machine.execCrierCrash c s
  | .crierRestored c => Sys2Proof.Machine.execCrierRestored c s
  | .thermalThrottleStep d temp => Sys2Proof.Machine.execThermalThrottleStep d temp s
  | .throttleStepUp d temp => Sys2Proof.Machine.execThrottleStepUp d temp s
  | .thermalTrip d temp => Sys2Proof.Machine.execThermalTrip d temp s
  | .powerWindow watts => Sys2Proof.Machine.execPowerWindow watts s
  | .powerStepUp d => Sys2Proof.Machine.execPowerStepUp d s
  | .railCurrentLimit rail d => Sys2Proof.Machine.execRailCurrentLimit rail d s
  | .dividerSwitch d => Sys2Proof.Machine.execDividerSwitch d s
  | .awningLimitWrite src v => Sys2Proof.Machine.execAwningLimitWrite src v s
  | .firmwareCommit r kib holdup => Sys2Proof.Machine.execFirmwareCommit r kib holdup s
  | .pendingCommitRetry holdup => Sys2Proof.Machine.execPendingCommitRetry holdup s
  | .ledgerCompaction r => Sys2Proof.Machine.execLedgerCompaction r s
  | .counterCommit kib holdup => Sys2Proof.Machine.execCounterCommit kib holdup s
  | .ledgerRestore valid => Sys2Proof.Machine.execLedgerRestore valid s
  | .eventRaise n code => Sys2Proof.Machine.execEventRaise n code s
  | .eventDelivery maskedMeanwhile => Sys2Proof.Machine.execEventDelivery maskedMeanwhile s
  | .evtPendSet src g bits => Sys2Proof.Machine.execEvtPendSet src g bits s
  | .evtPendClr src g bits => Sys2Proof.Machine.execEvtPendClr src g bits s
  | .evtMaskSet src g bits => Sys2Proof.Machine.execEvtMaskSet src g bits s
  | .evtMaskClr src g bits => Sys2Proof.Machine.execEvtMaskClr src g bits s
  | .evtCrierSet src bits => Sys2Proof.Machine.execEvtCrierSet src bits s
  | .evtCrierClr src bits => Sys2Proof.Machine.execEvtCrierClr src bits s
  | .evtClaim src => Sys2Proof.Machine.execEvtClaim src s
  | .sramScrub c rows cols bad => Sys2Proof.Machine.execSramScrub c rows cols bad s
  | .sequencerPairMismatch c => Sys2Proof.Machine.execSequencerPairMismatch c s
  | .engineProgressTimeout c => Sys2Proof.Machine.execEngineProgressTimeout c s
  | .voteDissent u copy => Sys2Proof.Machine.execVoteDissent u copy s
  | .predictiveRetire c => Sys2Proof.Machine.execPredictiveRetire c s
  | .errorRecordMove => Sys2Proof.Machine.execErrorRecordMove s
  | .errorLogAppend kib holdup => Sys2Proof.Machine.execErrorLogAppend kib holdup s
  | .counterTotals => Sys2Proof.Machine.execCounterTotals s
  | .clockLoss k commit => Sys2Proof.Machine.execClockLoss k commit s
  | .sagWarning rail d => Sys2Proof.Machine.execSagWarning rail d s
  | .sagRecovery rail d => Sys2Proof.Machine.execSagRecovery rail d s
  | .sagStepUp d => Sys2Proof.Machine.execSagStepUp d s
  | .sagReset rail d commit => Sys2Proof.Machine.execSagReset rail d commit s
  | .shutterEntry d => Sys2Proof.Machine.execShutterEntry d s
  | .shutterWake d => Sys2Proof.Machine.execShutterWake d s
  | .pwrEnterClose src => Sys2Proof.Machine.execPwrEnterClose src s
  | .pwrEnterDark src => Sys2Proof.Machine.execPwrEnterDark src s
  | .closeEntry => Sys2Proof.Machine.execCloseEntry s
  | .closeWake => Sys2Proof.Machine.execCloseWake s
  | .darkEntry => Sys2Proof.Machine.execDarkEntry s
  | .darkWake saveOk => Sys2Proof.Machine.execDarkWake saveOk s
  | .coldReset commit => Sys2Proof.Machine.execColdReset commit s
  | .warmReset commit => Sys2Proof.Machine.execWarmReset commit s
  | .packageSoftReset src commit => Sys2Proof.Machine.execPackageSoftReset src commit s
  | .dieReset src d => Sys2Proof.Machine.execDieReset src d s
  | .coreCheckDone c pass => Sys2Proof.Machine.execCoreCheckDone c pass s
  | .startupPublish => Sys2Proof.Machine.execStartupPublish s
  | .hubBoot b romDigest bank0 bank1 => Sys2Proof.Machine.execHubBoot b romDigest bank0 bank1 s
  | .dieCrierBoot d img digest => Sys2Proof.Machine.execDieCrierBoot d img digest s
  | .recoveryPackageLoad img => Sys2Proof.Machine.execRecoveryPackageLoad img s
  | .svnRaise kib holdup => Sys2Proof.Machine.execSvnRaise kib holdup s
  | .policyEntryWrite src t j_ entry => Sys2Proof.Machine.execPolicyEntryWrite src t j_ entry s
  | .streamStallRead d => Sys2Proof.Machine.execStreamStallRead d s
  | .streamHoldRead d => Sys2Proof.Machine.execStreamHoldRead d s
  | .mxSwapHoldRead c => Sys2Proof.Machine.execMxSwapHoldRead c s
  | .mxPauseRead c => Sys2Proof.Machine.execMxPauseRead c s
  | .mxBusyRead c => Sys2Proof.Machine.execMxBusyRead c s
  | .vxBusyRead c => Sys2Proof.Machine.execVxBusyRead c s
  | .txBusyRead c => Sys2Proof.Machine.execTxBusyRead c s
  | .bwdSkipRead c => Sys2Proof.Machine.execBwdSkipRead c s
  | .barrowTrafficRead t k => Sys2Proof.Machine.execBarrowTrafficRead t k s
  | .hostOffloadRead => Sys2Proof.Machine.execHostOffloadRead s
  | .frcStatsRead c => Sys2Proof.Machine.execFrcStatsRead c s
  | .convSkipRead c => Sys2Proof.Machine.execConvSkipRead c s
  | .attnSkipRead c => Sys2Proof.Machine.execAttnSkipRead c s
  | .poolCountRead p => Sys2Proof.Machine.execPoolCountRead p s
  | .stkErrorsRead x_ => Sys2Proof.Machine.execStkErrorsRead x_ s
  | .porterBytesRead c => Sys2Proof.Machine.execPorterBytesRead c s
  | .porterDiscardRead c => Sys2Proof.Machine.execPorterDiscardRead c s
  | .porterHomemissRead c => Sys2Proof.Machine.execPorterHomemissRead c s
  | .linkErrorsRead p => Sys2Proof.Machine.execLinkErrorsRead p s
  | .linkTrafficRead p => Sys2Proof.Machine.execLinkTrafficRead p s
  | .linkRefusedRead p => Sys2Proof.Machine.execLinkRefusedRead p s
  | .redStatusRead => Sys2Proof.Machine.execRedStatusRead s
  | .redBankCountRead p => Sys2Proof.Machine.execRedBankCountRead p s
  | .hostLinkRead => Sys2Proof.Machine.execHostLinkRead s
  | .codecCountRead d => Sys2Proof.Machine.execCodecCountRead d s
  | .awningCountRead => Sys2Proof.Machine.execAwningCountRead s
  | .evtStatusRead => Sys2Proof.Machine.execEvtStatusRead s
  | .errStatusRead => Sys2Proof.Machine.execErrStatusRead s
  | .clkStatusRead => Sys2Proof.Machine.execClkStatusRead s
  | .sagStatusRead => Sys2Proof.Machine.execSagStatusRead s
  | .pwrStatusRead => Sys2Proof.Machine.execPwrStatusRead s
  | .resetCauseRead => Sys2Proof.Machine.execResetCauseRead s
  | .secStatusRead => Sys2Proof.Machine.execSecStatusRead s
  | .resetNRelease => Sys2Proof.Machine.execResetNRelease s
  | .portReturnNotice l => Sys2Proof.Machine.execPortReturnNotice l s
  | .absentNotice coord => Sys2Proof.Machine.execAbsentNotice coord s

end Sys2Proof.Machine
end

