-- ==== Sys2Proof/Machine/Tick.lean ====
section
/-! DEFINITION. One fabric cycle on an empty queue (log entry 20): wall-clock time, and the fetch and dispatch of the running
task's next bundle (02_bundle_stream.md R35, R36, R42, R47, R50, R53, R59). -/

namespace Sys2Proof.Machine

/-- The LP operation of a bundle takes a branch (R41, R42). -/
def lpBranches (c : Ctx) (b : Bundle) : Bool :=
  let src := (c.scalar (cut b.lp 11 5)).toNat
  match cut b.lp 0 6 with
  | 0x03 => src + cut b.lp 22 16 == 0
  | 0x04 => true
  | 0x05 => src == 0
  | 0x06 => src != 0
  | _ => false

/-- Where issue goes on after bundle `pc`, the loops left, and whether a loop returned (R41, R42): levels whose body ends at
`pc` are taken innermost first; one with passes left returns to its first bundle. Levels whose body ends elsewhere, such as one
that a branch has left, stay as they are. -/
def loopReturn (pc : Nat) : List LoopAct → Nat × List LoopAct × Bool
  | [] => (pc + 1, [], false)
  | l :: r =>
    if l.last ≠ pc then
      let (to_, rest, back) := loopReturn pc r
      (to_, l :: rest, back)
    else if 1 < l.left then (l.first, { l with left := l.left - 1 } :: r, true)
    else loopReturn pc r

/-- The context past its bundle at `pc`: a taken branch is the LP operation's own effect. A LOOP that restarts a level at the
level's last bundle ends its old passes. An IDLE bundle has no LP operation (R36). -/
def advance (b : Bundle) (c : Ctx) : Ctx × Bool :=
  let isLoop := b.cls == 0 && cut b.lp 0 6 == 0x03
  let again := if isLoop then c.loops.filter (fun l => l.level ≠ cut b.lp 6 3) else c.loops
  let base := { c with issuePc := c.pc, bellDone := false, taken := false, issues := c.issues + 1 }
  if b.cls == 0 && lpBranches c b then ({ base with pc := c.pc + 1 }, false)
  else
    let (pc, loops, back) := loopReturn c.pc again
    let kept := if back then loops else if isLoop then c.loops.filter (fun l => l.level == cut b.lp 6 3) ++ loops else loops
    ({ base with pc := pc, loops := kept }, back)

/-- The operations of a bundle's slots, its bell left out: the engines and the porters read masks and bases before the LP
slot changes them. -/
def Bundle.ops (b : Bundle) (t : CtxId) : List Instr :=
  [b.mxI t, b.vxI t, b.txI t, b.ptI t, b.lpI t, if b.bell then none else b.syI t].filterMap id

/-- One fabric cycle in which the schedule clock does not advance because the porters cannot take the next bundle's PT operation,
counted as an issue hold (R47, R66). -/
def heldCycle (d : Dev) : Dev := let d := addHold 1 { d with wall := d.wall + 1 }; { d with seq := { d.seq with ptHold := true } }

/-- Every sequencer has issued the bundle at `pc` (R48). -/
def noteIssued (pc : Nat) (d : Dev) : Dev :=
  if replaying d then d
  else { d with seq := { d.seq with ptHold := false, issued := Tab.modMany [] d.seq.issued [0, 1, 2, 3] (fun _ l => l ++ [pc]) } }

/-- One fabric cycle of a task that issues: what falls due is put into the queue. -/
def fetch (t : CtxId) (s : State) : State :=
  let d := s.dev
  let c := d.ctx t
  let b := c.theProg.bundle c.pc
  let at_ := d.modCtx t (fun c => { c with issuePc := c.pc })
  if atHeldPoint d c then { s with dev := { d with wall := d.wall + 1 } }
  else if 19800 < c.sinceCkpt && !replaying d then { s with pending := [.ckptLimitExceeded t] }
  else if b.yielding && d.seq.preemptPending && !c.bellDone && !replaying d then { s with pending := [.preemption t] }
  else match b.cls with
    | 1 =>
      let (c', back) := advance b c
      let d := noteIssued c.pc (d.modCtx t (fun _ => c'))
      { s with pending := [.idleBundle t (BitVec.ofNat 16 (cut b.ext 0 16))], dev := if back then scheduleCycles t 1 d else d }
    | 0 =>
      if b.bell && !c.bellDone then
        let ready := match b.syI t with
          | some (.bell _ o) => replaying d || !bellSatisfied c o || porterReady d t b
          | _ => true
        if ready then { s with pending := (b.syI t).toList, dev := at_ } else { s with dev := heldCycle at_ }
      else if !b.bell && !porterReady d t b then { s with dev := heldCycle d }
      else
        let (c', back) := advance b c
        let d := noteIssued c.pc (scheduleCycles t (if back then 2 else 1) (d.modCtx t (fun _ => c')))
        { s with pending := b.ops t, dev := { d with seq := { d.seq with dispatch := some t } } }
    | _ =>
      let d := noteIssued c.pc (scheduleCycles t 1 at_)
      { s with pending := [.endBundle t], dev := d.modCtx t (fun c => { c with issues := c.issues + 1 }) }

/-- An action that waited in the hub is carried out for the complex that leads then (R12, R412). -/
def fromLeader (l : CrierId) : Instr → Instr
  | .registerWrite (.crier _) r v => .registerWrite (.crier l) r v
  | .clusterRetire (.crier _) c b => .clusterRetire (.crier l) c b
  | .coreReset (.crier _) c => .coreReset (.crier l) c
  | .mxInject (.crier _) c => .mxInject (.crier l) c
  | .vxInject (.crier _) c => .vxInject (.crier l) c
  | .txInject (.crier _) c => .txInject (.crier l) c
  | .bankInject (.crier _) p => .bankInject (.crier l) p
  | .linkRetrain (.crier _) p => .linkRetrain (.crier l) p
  | c => c

/-- The actions that wait in the hub for a die crier that runs, oldest first, while a complex holds the lease (R12, R412):
orders of the complex that leads then (DESIGN CHOICE, log entry 80). -/
def released (d : Dev) : List Instr :=
  if d.lease.valid then
    (d.waiting.filter (fun p => dieCrierRuns d p.1)).map (fun p => fromLeader (if d.lease.holderB then 2 else 0) p.2)
  else []

/-- One fabric cycle with no command waiting, once the dispatch of the last bundle is over: the running task's next bundle is
fetched; otherwise the cycle counts for what the task waits for (R52, R66). -/
def cycle (s : State) : State :=
  let d := s.dev
  match d.seq.running with
  | some t =>
    if issuing d t then fetch t s
    else if d.seq.mode = .bellWait then { s with dev := waitCycles t 1 d }
    else if d.seq.mode = .hold then { s with dev := addHold 1 { d with wall := d.wall + 1 } }
    else { s with dev := { d with wall := d.wall + 1 } }
  | none => { s with dev := adoptIdle { d with wall := d.wall + 1 } }

/-- A step on an empty queue: actions that waited for their die crier go first. -/
def tick (s : State) : Host.Outcome State Fault Refusal :=
  let d := endDispatch s.dev
  match released d with
  | [] => .next (cycle { s with dev := d })
  | c :: r => .next { s with pending := c :: r, dev := { d with waiting := d.waiting.filter (fun p => !dieCrierRuns d p.1) } }

end Sys2Proof.Machine
end

