-- ==== Sys2Proof/WellFormed.lean ====
section
/-! DEFINITION. Well-formed commands: no reserved value in a field of a slot operation (R38 to R43). -/

namespace Sys2Proof

/-- A matrix slot's fields hold no reserved value: STAT and PRELOAD are not 3 (R39), each format code is at most 0xA
(R88). -/
def MxOp.wellFormed (o : MxOp) : Bool :=
  o.stat != 3 && o.preload != 3 && decide (o.fmtA.toNat ≤ 0xA) && decide (o.fmtB.toNat ≤ 0xA) && decide (o.fmtC.toNat ≤ 0xA)

/-- A vector slot's formats are codes of R88. -/
def VxOp.wellFormed (o : VxOp) : Bool := decide (o.fmtIn.toNat ≤ 0xA) && decide (o.fmtOut.toNat ≤ 0xA)

/-- A transpose slot's formats are codes of R88. -/
def TxOp.wellFormed (o : TxOp) : Bool := decide (o.fmtIn.toNat ≤ 0xA) && decide (o.fmtOut.toNat ≤ 0xA)

/-- A porter slot's FRC is one of R40. -/
def PtOp.wellFormed (o : PtOp) : Bool := decide (o.frc.toNat ≤ 4)

/-- COPY and RING take FRC 0, ENCODE and DECODE FRC 1 to 4; OPARG is zero (R274, R275). -/
def PtOp.copyOk (o : PtOp) : Bool := o.frc == 0 && o.oparg == 0
def PtOp.codedOk (o : PtOp) : Bool := decide (1 ≤ o.frc.toNat) && decide (o.frc.toNat ≤ 4) && o.oparg == 0

/-- LSEND's reserved bits (R300). -/
def PtOp.sendOk (o : PtOp) : Bool := o.frc == 0 && o.oparg.toNat / 2 ^ 16 == 0 && o.ext.toNat / 2 ^ 13 == 0

/-- The reduction operations' reserved bits (R327). -/
def PtOp.redOk (o : PtOp) : Bool :=
  o.frc == 0 && o.oparg.toNat / 2 ^ 12 == 0 && (!o.oparg.getLsbD 11 || o.ext.toNat / 2 ^ 10 == 0)

/-- A command whose operands hold no reserved value. -/
def Instr.wellFormed : Instr → Bool
  | .mma _ o | .sload _ o | .accwrite _ o | .acczero _ o | .conv _ o | .convt _ o | .convwg4 _ o | .convwg2 _ o
  | .convdw _ o | .attn _ o | .attnFin _ o | .attnBwd _ o | .kvAppend _ o | .attnDec _ o => o.wellFormed
  | .add _ o | .sub _ o | .mul _ o | .fma _ o | .max _ o | .min _ o | .scale _ o | .offset _ o | .cvt _ o | .select _ o
  | .redsum _ o | .redmax _ o | .redsumsq _ o | .ksum _ o | .expsub _ o | .recip _ o | .sqrt _ o | .rsqrt _ o | .exp _ o
  | .log _ o | .sigmoid _ o | .tanh _ o | .gelu _ o | .silu _ o | .rngu _ o | .rngn _ o | .dropmask _ o
  | .optstep _ o => o.wellFormed
  | .tcopy _ o | .tblock _ o => o.wellFormed
  | .copy _ o | .ring _ o => o.copyOk
  | .encode _ o | .decode _ o => o.codedOk
  | .lsend _ o => o.sendOk
  | .rxmax _ o | .rsend _ o | .rgather _ o => o.redOk
  | .bpush _ o | .bpushoff _ o | .bpushrc _ o | .bpop _ o => o.wellFormed
  | .mload _ dst _ => dst != 0
  | _ => true

end Sys2Proof
end

