-- ==== Sys2Proof/Safety.lean ====
section
/-! DEFINITION. What the claims say about runs: the steps of the block, an invariant that steps keep, and what differs between
the device before and after a command. -/

namespace Sys2Proof.Machine

/-- A step from `s` answers the next state `t`. -/
def Steps (s t : State) : Prop := step s = .next t

/-- A property of states that every step keeps. -/
def Kept (p : State → Prop) : Prop := ∀ s t, p s → Steps s t → p t

/-- `n` steps from `s`, each of which answers a next state, reach `t`. -/
def StepsIn : Nat → State → State → Prop
  | 0, s, t => s = t
  | n + 1, s, t => ∃ u, Steps s u ∧ StepsIn n u t

/-- The memory is in its canonical form: addresses rising, no byte listed that equals what an unlisted address reads
as. -/
def MemoryCanonical (s : State) : Prop := Tab.wf (0 : Byte) s.dev.mem = true

/-- Nothing of the device but context `t` differs. -/
def OnlyCtx (t : CtxId) (d d' : Dev) : Prop := { d' with ctxs := d.ctxs } = d ∧ ∀ u, u ≠ t → d'.ctx u = d.ctx u

/-- Nothing but the scalar registers of context `t` differs. -/
def OnlyScalars (t : CtxId) (d d' : Dev) : Prop :=
  OnlyCtx t d d' ∧ { d'.ctx t with scal := (d.ctx t).scal } = d.ctx t

/-- Nothing but the base registers of context `t` differs. -/
def OnlyBases (t : CtxId) (d d' : Dev) : Prop :=
  OnlyCtx t d d' ∧ { d'.ctx t with bases := (d.ctx t).bases } = d.ctx t

/-- Nothing but the token counters of context `t` differs. -/
def OnlyTokens (t : CtxId) (d d' : Dev) : Prop :=
  OnlyCtx t d d' ∧ { d'.ctx t with tokens := (d.ctx t).tokens } = d.ctx t

/-- Every die counts `n` more cycles of a count of the sequencers. -/
def CountedBy (n : Nat) (a b : Tab Nat) : Prop := ∀ x, Tab.get 0 b x = Tab.get 0 a x + if x < 4 then n else 0

/-- `n` scheduled fabric cycles pass, stretched to 16/F of them on the wall clock, and context `t` becomes `c` with that many more
since its checkpoint bell, outside a solo replay (R19, R53, R57); what the stretch adds counts as issue hold, and nothing else
differs. -/
def Scheduled (t : CtxId) (n : Nat) (c : Ctx) (d d' : Dev) : Prop :=
  OnlyCtx t { d with wall := d.wall + (stretched d n).1, seq := d'.seq } d' ∧
    { d'.seq with hold := d.seq.hold, stretch := d.seq.stretch } = d.seq ∧ d'.seq.stretch = (stretched d n).2 ∧
    CountedBy ((stretched d n).1 - n) d.seq.hold d'.seq.hold ∧
    d'.ctx t = if replaying d then c else { c with sinceCkpt := c.sinceCkpt + n }

/-- The next bundle is `target`: a taken branch, which costs one fabric cycle (R42). -/
def Jumped (t : CtxId) (target : Nat) (d d' : Dev) : Prop :=
  Scheduled t 1 { d.ctx t with pc := target, taken := true } d d'

/-- The task of context `t` aborts with this status and detail (R64): its issue and its transfers stop; memory, the tills and the
other contexts stay. -/
def Aborted (t : CtxId) (st : Status) (detail : Nat) (d d' : Dev) : Prop :=
  (d'.ctx t).phase = .aborting ∧ (d'.ctx t).abort = some (st, detail) ∧ (d'.ctx t).bellWait = none ∧ opsOf d' t = [] ∧
    (d.seq.running = some t → d'.seq.mode = .aborting) ∧ d'.mem = d.mem ∧ d'.tills = d.tills ∧ d'.evt = d.evt ∧
    ∀ u, u ≠ t → d'.ctx u = d.ctx u

/-- The bell bundle of context `t` issues outside a replay (R50): each counter named is reduced by its count. -/
def BellPassed (t : CtxId) (b : BellOp) (d d' : Dev) : Prop :=
  OnlyCtx t { d with seq := d'.seq } d' ∧ d'.seq = { d.seq with mode := .issuing, ckptHold := false } ∧
    { d'.ctx t with tokens := (d.ctx t).tokens } = { d.ctx t with bellWait := none, bellDone := true, bellWaited := 0 } ∧
    ∀ tok, Tab.get 0 (d'.ctx t).tokens tok =
      Tab.get 0 (d.ctx t).tokens tok - (((bellWaits b).filter (fun p => p.1 == tok)).map (·.2)).sum

/-- A byte of an accumulator buffer that a pre-emption of the task saves (R62, R508). -/
def inSaved (c : Ctx) (a : Nat) : Bool :=
  match placeOf a with
  | .acc k => (savedSlots c).contains k
  | _ => false

/-- Every slot whose state a pre-emption of the task saves has its save area within its own local store (R62, R508). -/
def sharesHold (c : Ctx) : Prop :=
  ∀ k ∈ savedSlots c, localBase k ≤ saveAreaOf c k ∧ saveAreaOf c k + saveAreaBytes ≤ localBase (k + 1)

/-- A barrow asks for no move between window and spill region (R163): no more positions than SPILL_MARK are DIRTY, but for those whose
spill is under way, and every unit that meets the refill range is held or being fetched. -/
def barrowRests (b : Barrow) : Prop :=
  b.winUnits = 0 ∨ (b.dirty.length ≤ b.spillMark + b.spilling.length ∧ (b.refillMark = 0 ∨
    ∀ u, (b.top - b.refillMark * unit64) / unit64 ≤ u → u < ceilDiv b.top unit64 → b.holds u = true ∨ u ∈ b.refilling))

/-- No barrow of the running task waits to move a unit. -/
def barrowsRest (d : Dev) : Prop := ∀ t k, d.seq.running = some t → barrowRests (d.bar t k)

/-- `n` bytes from `a` lie in one region of the address space as memory keeps it (R27). -/
def oneRegion (a n : Nat) : Prop := a + n ≤ hostBase ∨ (hostBase ≤ a ∧ a + n ≤ hostEnd)

/-- The records of a till in the order they were formed, written and held alike, without their PHASE. -/
def cplRecords (x : Till) : List CplRec := (x.records ++ x.held).map (fun r => { r with phase := true })

/-- The packet that till `n` executes gets its final record, with this status and the words given (R359, R360), and the till is
idle; a word not given is an open value (log entry 22). -/
def Finished (n : TillId) (st : Status) (detail result : Option Nat) (d d' : Dev) : Prop :=
  ∃ k r, (d.till n).cur = some k ∧ (d'.till n).cur = none ∧ cplRecords (d'.till n) = cplRecords (d.till n) ++ [r] ∧
    r.tag = k.tag ∧ r.seq = k.seq ∧ r.opcode = k.opcode ∧ r.status = st ∧ r.interim = false ∧
    (∀ v, detail = some v → r.detail = BitVec.ofNat 32 v) ∧ (∀ v, result = some v → r.result = BitVec.ofNat 32 v)

/-- No context is attached to a pitch pool, and none waits for a pass. -/
def noPools (d : Dev) : Prop := (∀ p, p < 4 → (d.pool p).attach = 0 ∧ (d.pool p).queue = []) ∧ ∀ u, (d.ctx u).exhausted = false

/-- No codec stream is open. -/
def noStreams (d : Dev) : Prop := ∀ u k, u < 4 → k < 16 → (d.stream u k).state ≠ 1

/-- The matrix operations with their opcodes (R69, R207 to R215, R219). -/
def mxOps (t : CtxId) (o : MxOp) : List (Nat × Instr) :=
  [(0x01, .mma t o), (0x02, .sload t o), (0x03, .accwrite t o), (0x04, .acczero t o), (0x10, .conv t o), (0x11, .convt t o),
   (0x12, .convwg4 t o), (0x13, .convwg2 t o), (0x14, .convdw t o), (0x20, .attn t o), (0x21, .attnFin t o), (0x22, .attnBwd t o),
   (0x23, .kvAppend t o), (0x24, .attnDec t o)]

/-- The vector operations with their opcodes (R129). -/
def vxOps (t : CtxId) (o : VxOp) : List (Nat × Instr) :=
  [(0x01, .add t o), (0x02, .sub t o), (0x03, .mul t o), (0x04, .fma t o), (0x05, .max t o), (0x06, .min t o), (0x07, .scale t o),
   (0x08, .offset t o), (0x09, .cvt t o), (0x0A, .select t o), (0x10, .redsum t o), (0x11, .redmax t o), (0x12, .redsumsq t o),
   (0x13, .ksum t o), (0x18, .expsub t o), (0x19, .recip t o), (0x1A, .sqrt t o), (0x1B, .rsqrt t o), (0x20, .exp t o),
   (0x21, .log t o), (0x22, .sigmoid t o), (0x23, .tanh t o), (0x24, .gelu t o), (0x25, .silu t o), (0x30, .rngu t o),
   (0x31, .rngn t o), (0x32, .dropmask t o), (0x40, .optstep t o)]

/-- The transpose operations with their opcodes (R137). -/
def txOps (t : CtxId) (o : TxOp) : List (Nat × Instr) := [(0x01, .tcopy t o), (0x02, .tblock t o)]

/-- What a vector operation makes of one element of A, B and C, converted to FP32 (R129 to R134). -/
def vxResults (t : CtxId) (o : VxOp) (seed : BitVec 64) : List (Instr × (Num → Num → Num → Num)) :=
  let arg := Fmt.bf16.decode o.arg.toNat
  let rnd := cbg seed o.arg.toNat 0
  let sum : Num → Num → Num := fun x y => fp32 (Num.add x y)
  [(.add t o, fun a b _ => sum a b), (.sub t o, fun a b _ => sum a b.negate), (.mul t o, fun a b _ => fp32 (Num.mul a b)),
   (.fma t o, fun a b c => sum (Num.mul a b) c), (.max t o, fun a b _ => numMax a b), (.min t o, fun a b _ => numMin a b),
   (.scale t o, fun a _ _ => fp32 (Num.mul a arg)), (.offset t o, fun a _ _ => sum a arg), (.cvt t o, fun a _ _ => a),
   (.select t o, fun a b _ => if b.isZero then .zero else a), (.redsum t o, fun a _ _ => reduceRow .zero sum sum [a]),
   (.redmax t o, fun a _ _ => reduceRow (.inf true) numMax numMax [a]),
   (.redsumsq t o, fun a _ _ => reduceRow .zero (fun acc x => sum acc (fp32 (Num.mul x x))) sum [a]), (.ksum t o, fun a _ _ => a),
   (.expsub t o, fun a b _ => expsubF a b), (.recip t o, fun a _ _ => fp32 (Num.divide Num.one a)),
   (.sqrt t o, fun a _ _ => fp32 (Num.root a)), (.rsqrt t o, fun a _ _ => rsqrtF a), (.exp t o, fun a _ _ => expF a),
   (.log t o, fun a _ _ => logF a), (.sigmoid t o, fun a _ _ => sigmoidF a), (.tanh t o, fun a _ _ => tanhF a),
   (.gelu t o, fun a _ _ => geluF (o.arg.getLsbD 0) a), (.silu t o, fun a _ _ => siluF a),
   (.rngu t o, fun _ _ _ => rngu rnd), (.rngn t o, fun _ _ _ => rngn rnd), (.dropmask t o, fun _ _ _ => dropmask o.arg.toNat rnd)]

/-- What an engine operation leaves of a context: its scalar, mask and base registers, loops, tokens and program counter. -/
def KeepsStream (d d' : Dev) : Prop :=
  ∀ u, (d'.ctx u).scal = (d.ctx u).scal ∧ (d'.ctx u).masks = (d.ctx u).masks ∧ (d'.ctx u).bases = (d.ctx u).bases ∧
    (d'.ctx u).loops = (d.ctx u).loops ∧ (d'.ctx u).tokens = (d.ctx u).tokens ∧ (d'.ctx u).pc = (d.ctx u).pc ∧
    (d'.ctx u).prog = (d.ctx u).prog

/-- What an engine operation leaves of the package: time, configuration, ledger, firmware, lease (a core that it takes out of
service is a change that the mirror holds, R405), security, homes, stacks, ports and codecs. -/
def KeepsPackage (d d' : Dev) : Prop :=
  d'.wall = d.wall ∧ d'.cfg = d.cfg ∧ d'.ledger = d.ledger ∧ d'.fw = d.fw ∧ { d'.lease with mirrorWritten := d.lease.mirrorWritten } = d.lease ∧ d'.sec = d.sec ∧
    d'.homes = d.homes ∧ d'.stks = d.stks ∧ d'.reloc = d.reloc ∧ d'.ports = d.ports ∧ d'.codecs = d.codecs ∧
    d'.handoff = d.handoff

/-- A level of one index. -/
def oneLevel (role order : Nat) : Level :=
  { bound := 1, boundSrc := 0, tile := 1, role := role, order := order, split := false, plist := false, splitOff := 0
    strideA := 1, strideB := 1, strideC := 1, strideAcc := 1 }

/-- A descriptor of one element, all operands FP32. -/
def oneElem : Desc := { levels := [oneLevel 0 0] }

/-- A descriptor of one product, all operands FP32. -/
def oneProduct : Desc := { levels := [oneLevel 0 2, oneLevel 1 1, oneLevel 2 0] }

/-- Context `t` issues an operation that acts on slot `k` alone, with descriptor `x`; nothing is captured, no SRAM word has failed,
no error is injected and no operation in flight writes a byte that could be read (R142). -/
structure OnOneSlot (d : Dev) (t : CtxId) (mask ldesc k : Nat) (x : Desc) : Prop where
  issues : issuing d t = true
  acts : actingSlots d t mask = [k]
  served : servingCores d k ≠ []
  desc : (d.ctx t).theProg.descs[ldesc]? = some x
  noReplay : (d.ctx t).srep = none
  noTap : d.seq.tapOn = false
  noBad : d.badSram = []
  settled : inFlight d = []
  noInject : ∀ c, (d.core c).mxInject = false ∧ (d.core c).vxInject = false ∧ (d.core c).txInject = false

/-- An operation of context `t` on slot `k` alone, outside a replay, whose transfer entry `e` of porter `core` takes: the one core that
serves the slot has it as its lowest free entry, no transfer waits for one, and no barrow waits to move a unit (R47, R271). -/
structure OnOneEntry (d : Dev) (t : CtxId) (o : PtOp) (k : SlotId) (core : CoreId) (e : EntryId) (x : Desc) : Prop where
  slot : OnOneSlot d t o.mask.toNat o.ldesc.toNat k.val x
  live : replaying d = false ∧ (d.ctx t).phase = .running
  served : servingCores d k.val = [core.val]
  entry : (d.core core.val).freeEntry = some e.val ∧ (d.core core.val).backlog = [] ∧ waitsIntent d core.val e.val = false
  rests : barrowsRest d
  noBad : d.badBlocks = []

/-- The operation `c` issues with no token, its one transfer is sent, and this is the device then. -/
def SendsAs (c : Instr) (core : CoreId) (e : EntryId) (s : State) (d2 : Dev) : Prop :=
  ∃ d1, exec c s = .next { s with dev := d1 } ∧ d1.mem = s.dev.mem ∧ d1.ctxs = s.dev.ctxs ∧ (d1.op s.dev.ptNext).isSome = true ∧
    exec (.transferIssue core e) { s with dev := d1 } = .next { s with dev := d2 }

/-- The bank that is active on a slot serves an operation whose first stationary tile is this one element of B, `code` marking it
(R72). -/
def bankHasOne (d : Dev) (t : CtxId) (k code ldesc base : Nat) (w : Num) : Prop :=
  let b := ((d.ctx t).slot k).activeBank
  interval d t ≤ b.since + 1 ∧
    b.tile = some { stat := 0, code := code, ldesc := ldesc, base := base, elems := [(8 * (base : Int), w)] }

/-- A convolution of one tap over a field of one position (R203, R204). -/
structure OneTap (c : ConvRec) : Prop where
  taps : c.ft = 1 ∧ c.fh = 1 ∧ c.fw = 1
  pads : c.pt = 0 ∧ c.ph = 0 ∧ c.pw = 0
  field : 1 ≤ c.tin ∧ 1 ≤ c.hin ∧ 1 ≤ c.win

/-- The output (0, 0) of a Winograd operation from one patch of inputs and one kernel, in FP32 (R214, R215). -/
def winogradOne (n : Nat) (patch kernel : List (List Num)) : Num :=
  let u := wgKernel n .fp32 kernel
  let v := sandwich (wgB n) patch
  let at_ := fun (m : List (List Num)) (p : Nat × Nat) => (m.getD p.1 []).getD p.2 .zero
  let a := fun (j : Nat) => ((wgA n).getD 0 []).getD j .zero
  ((List.range (n + 2)).flatMap (fun i => (List.range (n + 2)).map (fun j => (i, j)))).foldl (fun acc p =>
    addF acc (mulF (mulF (a p.1) (a p.2)) (addF .zero (dot .zero [(toFmt .fp32 (at_ v p), at_ u p)])))) .zero

/-- The attention record of a matrix operation, with one element to a row; its base registers (R219). -/
def attnOf (d : Dev) (t : CtxId) (o : MxOp) : AttnRec := AttnRec.ofBytes (((d.ctx t).theProg.attn).getD o.baseM.toNat [])
def attnBase (d : Dev) (t : CtxId) (k : Nat) (o : MxOp) (n : Nat) : Nat :=
  ((d.ctx t).base k ((attnOf d t o).regs.getD n 0)).toNat

/-- `n` bytes from `a` lie in the task's window of a local store in slot `k`'s cluster (R125). -/
def inStore (d : Dev) (t : CtxId) (k a n : Nat) : Prop :=
  ∀ i, i < n → ∃ j, placeOf (a + i) = .localStore j ∧ j / 8 = k / 8 ∧ inLocalWindow (d.ctx t).theProg (a + i) = true

/-- Two FP32 words do not meet. -/
def apart (a b : Nat) : Prop := a + 4 ≤ b ∨ b + 4 ≤ a

/-- An FP32 word. -/
def wordAt (d : Dev) (a : Nat) : Num := Fmt.fp32.decode (rdNat d a 4)

/-- Context, slot and opcode of an operation in an engine's queue. -/
def Flight.key (f : Flight) : CtxId × Nat × Nat := (f.ctx, f.slot, f.op)

/-- What an engine operation adds to the queue of a core: it is in flight there for each slot whose units the core works, in ascending
slot (R44, R47, R120). -/
def flightsOn (d : Dev) (t : CtxId) (mask op ldesc core : Nat) : List (CtxId × Nat × Nat) :=
  ((issuesOf d t mask op ldesc).filter (fun i => (coresFor d i op ldesc).contains core)).map (fun i => (t, i.k, op))

/-- Nothing but the core `c` differs. -/
def OnlyCore (c : Nat) (d d' : Dev) : Prop := { d' with cores := d.cores } = d ∧ ∀ u, u ≠ c → d'.core u = d.core u

/-- A read answers these fields, each given by its low bit, its width and its value, where every value fits; a count past the
width of its field is an open value (log entry 6). Nothing else differs from `d0`, the device with the counts cleared. -/
def ReadsAs (fields : List (Nat × Nat × Nat)) (d0 d' : Dev) : Prop :=
  ((∀ f ∈ fields, f.2.2 < 2 ^ f.2.1) → ∀ f ∈ fields, d'.readData / 2 ^ f.1 % 2 ^ f.2.1 = f.2.2) ∧
    { d' with readData := d0.readData, freeIdx := d0.freeIdx } = d0

/-- The source may write a register of the hub: the complex that holds a valid lease, or the host under EXPERT (R13, R372, R409). -/
def mayWrite (d : Dev) (src : Source) : Bool :=
  match src with
  | .host => expert d
  | .crier c => leads d c

/-- A write of an EVT_PEND or EVT_MASK register by this source reaches event source `n` (R428, R434, R437). -/
def evtWrites (d : Dev) (src : Source) (g : Fin 32) (bits : BitVec 32) (n : Nat) : Bool :=
  n / 32 == g.val && bits.getLsbD (n % 32) && !reservedSource n &&
    match src with
    | .host => expert d
    | .crier c => if c.val < 4 then leads d c else (d.route n).criers.getLsbD c.val

/-- Nothing but the event controller, the pulses of MGMT_ALERT_N and the counts of refused writes differs. -/
def OnlyEvents (d d' : Dev) : Prop :=
  { d' with evt := d.evt, pwr := d.pwr, lease := d.lease, logged := d.logged } = d ∧
    { d'.pwr with alertPulses := d.pwr.alertPulses } = d.pwr ∧ { d'.lease with demotions := d.lease.demotions } = d.lease

/-- The criers of `cs` are no targets any more (R435): what is ACTIVE at them is given back with PEND as it was, and their queues
are empty. -/
def GivenBack (cs : List Nat) (d d' : Dev) : Prop :=
  (∀ n, d'.src n = if (d.src n).active = true ∧ (d.src n).next ∈ cs then { d.src n with active := false } else d.src n) ∧
    ∀ c, Tab.get [] d'.evt.queues c = if c ∈ cs then [] else Tab.get [] d.evt.queues c

/-- Every packet that firmware had begun ends with RETRY (R410, R412): the management till's, and each RUN_TASK whose first bundle
has not issued, whose context is idle. -/
def Retried (d d' : Dev) : Prop :=
  ((d.till mgmtTill).cur ≠ none → Finished mgmtTill .retry none none d d') ∧
    ∀ t, (d.ctx t).phase = .starting → (d'.ctx t).phase = .idle ∧
      ((d.till (taskTill t)).cur ≠ none → (d.till (taskTill t)).aborts = [] → Finished (taskTill t) .retry none none d d')

/-- The lease is the complex's (R408, R410): its request is met, a change of holder is counted, and its mirror is up to date. -/
def Granted (b : Bool) (d d' : Dev) : Prop :=
  d'.lease.valid = true ∧ d'.lease.holderB = b ∧ d'.lease.window = false ∧ d'.lease.lastRenewal = some d.wall ∧
    d'.lease.mirrorApplied = d.lease.mirrorWritten ∧ (if b then d'.lease.reqB = false else d'.lease.reqA = false) ∧
    d'.lease.changes = if d.lease.holderB = b then d.lease.changes else min (d.lease.changes + 1) 65535

/-- The packet that till `n` executes gets an interim record with DEFERRED and waits (R377, R416). -/
def Deferred (n : TillId) (d d' : Dev) : Prop :=
  ∃ k r, (d.till n).cur = some k ∧ (d'.till n).cur = some k ∧ (d'.till n).deferred = true ∧
    cplRecords (d'.till n) = cplRecords (d.till n) ++ [r] ∧ r.tag = k.tag ∧ r.seq = k.seq ∧ r.opcode = k.opcode ∧
    r.status = .deferred ∧ r.interim = true

/-- The criers of `cs` are in this state, running this version, and every other crier is as it was. -/
def CriersAre (cs : List CrierId) (st : Nat) (version : Option (BitVec 32)) (d d' : Dev) : Prop :=
  (∀ c ∈ cs, (d'.crier c).state = st ∧ ∀ v, version = some v → (d'.crier c).version = v) ∧ ∀ c, c ∉ cs → d'.crier c = d.crier c

/-- An error record of this class is formed (R452 to R454): in the capture queue while that has room, and counted. -/
def Recorded (cls level action : Nat) (d d' : Dev) : Prop :=
  (Tab.get 0 d'.err.lifetime cls = min (Tab.get 0 d.err.lifetime cls + 1) (2 ^ 32 - 1)) ∧
    (d.err.queue.length < 256 → ∃ e, d'.err.queue = d.err.queue ++ [e] ∧ e.index = d.err.nextIndex ∧
      e.body.cls = BitVec.ofNat 8 cls ∧ e.body.level = BitVec.ofNat 8 level ∧ e.body.action = BitVec.ofNat 8 action) ∧
    (256 ≤ d.err.queue.length → d'.err.queue = d.err.queue ∧ d'.err.overflow = true)

/-- Slot `i` of complex `b` is extended with `value` (R487). -/
def Extended (b : Bool) (i : Nat) (value : List Byte) (d d' : Dev) : Prop :=
  Tab.get 0 d'.sec.slots (8 * b2n b + i) = sha3 (leBytes 32 (Tab.get 0 d.sec.slots (8 * b2n b + i)).toNat ++ value)

/-- The arrays of a die are under a pause order (R78). -/
def pausedDie (d : Dev) (x : Nat) : Bool := Tab.get false d.awning.paused x

/-- The divider ordered, the causes and the pause of die `x` are as they were. -/
def DieAsWas (x : Nat) (d d' : Dev) : Prop :=
  divOf d' x = divOf d x ∧ targetOf d' x = targetOf d x ∧ d'.causeOf x = d.causeOf x ∧ pausedDie d' x = pausedDie d x

/-- Die `x` is stepped down for a cause (R418, R459, R460): one step is ordered with its arrays paused, unless a step is already
ordered or the divider is the largest. -/
def SteppedDown (x : Nat) (cause : BitVec 4) (d d' : Dev) : Prop :=
  divOf d' x = divOf d x ∧ d'.causeOf x = d.causeOf x ||| cause ∧
    (targetOf d x = divOf d x → divOf d x ≠ 8 →
      targetOf d' x = (if divOf d x < 5 then 5 else if divOf d x < 6 then 6 else 8) ∧ pausedDie d' x = true) ∧
    (targetOf d x ≠ divOf d x ∨ divOf d x = 8 → targetOf d' x = targetOf d x ∧ pausedDie d' x = pausedDie d x)

/-- Die `x`, with no step ordered, takes one step back up (R418, R460, R461), not past the floor; at the floor only a current cause
stays. -/
def SteppedUp (x : Nat) (d d' : Dev) : Prop :=
  let t := max (divFloor d) (if divOf d x ≤ 5 then 4 else if divOf d x ≤ 6 then 5 else 6)
  divOf d' x = divOf d x ∧ d'.causeOf x = (if t = divFloor d then d.causeOf x &&& 4 else d.causeOf x) ∧
    (t < divOf d x → targetOf d' x = t ∧ pausedDie d' x = true) ∧
    (divOf d x ≤ t → targetOf d' x = divOf d x ∧ pausedDie d' x = pausedDie d x)

/-- What a reset that reaches the hub leaves (R467, R472, R487): its kind; no context, till, core, home or measurement; no lease; the
ledger's regions and the fuses as they were; no host tier; memory below the host tier gone, the host's bytes as they were, each at
the key of its host address. -/
def HubReached (kind : Nat) (d d' : Dev) : Prop :=
  d'.pwr.kind = kind ∧ d'.ctxs = [] ∧ d'.tills = [] ∧ d'.cores = [] ∧ d'.homes = [] ∧ d'.seq = {} ∧ d'.lease.valid = false ∧
    d'.host.agreed = 0 ∧ d'.sec.slots = [] ∧ d'.sec.svn = d.sec.svn ∧ d'.sec.keyHash = d.sec.keyHash ∧ d'.sec.revoked = d.sec.revoked ∧
    d'.ledger.regions = d.ledger.regions ∧ d'.ledger.config = d.ledger.config ∧ d'.ledger.maps = d.ledger.maps ∧
    d'.fw.banks = d.fw.banks ∧ d'.wall = d.wall ∧ d'.host.tierSize = 0 ∧ (∀ a, a < hostBase → rdByte d' a = 0) ∧
    ∀ h, Tab.get 0 d'.mem (hostBase + h) = Tab.get 0 d.mem (hostBase + h)

/-- Memory outside the accumulator buffers is as it was: a buffer's bytes stand at the address of the slot that its core is bound to
(R27), so that they move, or are lost, as cores leave and enter service. -/
def OnlyAccBytes (d d' : Dev) : Prop := ∀ a, (∀ k, placeOf a ≠ .acc k) → rdByte d' a = rdByte d a

/-- A die reset (R255, R469): its crier boots, it is down and counted, its stacks are in self-refresh and list no partial write, its
ports are down and its cores are as after reset; memory, homes and loaded programs stay, but that a block of a write that was cut short
may fail from then on. -/
def DieReached (x : Nat) (d d' : Dev) : Prop :=
  Tab.get false d'.pwr.dieDown x = true ∧ d'.pwr.dieResets = d.pwr.dieResets + 1 ∧ Tab.get ({} : Crier) d'.criers (4 + x) =
      { Tab.get ({} : Crier) d.criers (4 + x) with state := 1, lastBeat := none } ∧
    (∀ i, i < 3 → (d'.stk (3 * x + i)).refresh = true ∧ (d'.stk (3 * x + i)).chans = (d.stk (3 * x + i)).chans) ∧
    (∀ i, i < 6 → (d'.port (6 * x + i)).state = 0 ∨ (d'.port (6 * x + i)).state = 7) ∧
    (∀ c, c / 36 = x → d'.core c = {}) ∧ d'.mem = d.mem ∧ d'.homes = d.homes ∧ (∀ t, (d'.ctx t).prog = (d.ctx t).prog) ∧
    (∀ key, key / 24 = x → Tab.get [] d'.intent key = []) ∧
    ∀ b ∈ d'.badBlocks, b ∈ d.badBlocks ∨ ∃ key, key / 24 = x ∧ ∃ y ∈ Tab.get [] d.intent key, b ∈ y.blocks

/-- Nothing but the tills, the event controller and the cursor of open values differs: a packet was answered. -/
def OnlyAnswer (d d' : Dev) : Prop := { d' with tills := d.tills, evt := d.evt, freeIdx := d.freeIdx } = d

/-- The homes, but that of descriptor `i`, are as they were. -/
def OtherHomes (i : Nat) (d d' : Dev) : Prop := ∀ j, j ≠ i → d'.home j = d.home j

/-- A posted move of descriptor `i` waits in the queue of moves, to this place, tier and die (R282, R283). -/
def MovePosted (i a tier die : Nat) (d d' : Dev) : Prop :=
  OtherHomes i d d' ∧ d'.moves = d.moves ++ [{ index := i, evac := false, posted := true }] ∧
    d'.home i = { d.home i with
      hint := (d'.home i).hint, moving := true, moved := 0, toPlace := a, toTier := tier, toDie := die }

/-- Till `n` forms the final record of packet `k` after its earlier ones, with this status and the words given (R359, R360); what
it executes is as it was. -/
def Formed (n : TillId) (k : Packet) (st : Status) (detail result : Option Nat) (d d' : Dev) : Prop :=
  ∃ r, cplRecords (d'.till n) = cplRecords (d.till n) ++ [r] ∧ r.tag = k.tag ∧ r.seq = k.seq ∧ r.opcode = k.opcode ∧
    r.status = st ∧ r.interim = false ∧ (∀ v, detail = some v → r.detail = BitVec.ofNat 32 v) ∧
    (∀ v, result = some v → r.result = BitVec.ofNat 32 v) ∧ (d'.till n).cur = (d.till n).cur

/-- Till `n` has taken packet `k` from its ring (R355, R357). -/
def Taken (n : TillId) (units : Nat) (k : Packet) (d d' : Dev) : Prop :=
  (d'.till n).head = (d.till n).head + BitVec.ofNat 32 units ∧ (d'.till n).expectSeq = k.seq + 1 ∧
    ∀ m, m ≠ n → d'.till m = d.till m

/-- Nothing but port `p`, the events and the ports that the shape table publishes differs. -/
def OnlyPort (p : Nat) (d d' : Dev) : Prop :=
  { d' with ports := d.ports, evt := d.evt, shape := d.shape } = d ∧ ∀ q, q ≠ p → d'.port q = d.port q

/-- The port carries traffic, or swaps a lane (R294, R295). -/
def portRuns (d : Dev) (p : Nat) : Bool := portUp d p || (d.port p).state == 6

/-- Port `p` is down (R294, R296): its retry buffer, its lane swap and its peer are gone; the other ports keep their states. -/
def PortIsDown (p : Nat) (d d' : Dev) : Prop :=
  (d'.port p).state = 0 ∧ (d'.port p).retry = [] ∧ (d'.port p).lane = none ∧ (d'.port p).peer = none ∧ (d'.port p).lanes = 0 ∧
    d'.mem = d.mem ∧ d'.homes = d.homes ∧ ∀ q, q ≠ p → (d'.port q).state = (d.port q).state

/-- A notice was flooded after the earlier ones. -/
def Flooded (n : Notice) (d d' : Dev) : Prop := n ∈ d'.fabric.notices ∧ ∀ m ∈ d.fabric.notices, m ∈ d'.fabric.notices

/-- The line between two coordinates of a dimension, in either direction. -/
def sameLine (a b : LinkLine) : Prop := a.dim = b.dim ∧ ((a.here = b.here ∧ a.there = b.there) ∨ (a.here = b.there ∧ a.there = b.here))

/-- Port `p` answers packet `k` (R299, R301, R304): KIND 1 acknowledges, KIND 2 refuses with a reason and a resource code. -/
def Replied (p kind : Nat) (k : LinkPacket) (reason resource : Nat) (d d' : Dev) : Prop :=
  d'.fabric.replies = d.fabric.replies ++ [{
    port := p, kind := kind, ctx := k.ctx, slot := k.tagSlot.val, entry := k.tagEntry.toNat, reason := reason, resource := resource }]

/-- Nothing but the port and the answers it sends differs: memory, contexts and tokens stay. -/
def OnlyAnswered (p : Nat) (d d' : Dev) : Prop :=
  { d' with ports := d.ports, fabric := d.fabric } = d ∧ { d'.fabric with replies := d.fabric.replies } = d.fabric ∧
    ∀ q, q ≠ p → d'.port q = d.port q

/-- Nothing but stream `i` of codec unit `u`, the unit's queue area and the cursor of open values differs. -/
def OnlyStream (u i : Nat) (d d' : Dev) : Prop :=
  { d' with codecs := d.codecs, mem := d.mem, freeIdx := d.freeIdx } = d ∧
    (∀ v j, (v ≠ u ∨ j ≠ i) → d'.stream v j = d.stream v j) ∧
    ∀ a, (a < areaOf u ∨ areaOf u + 0x100000 ≤ a) → rdByte d' a = rdByte d a

/-- The status line of stream `i` of unit `u` shows the stream (R388). -/
def LineShown (u i : Nat) (d' : Dev) : Prop :=
  let a := areaOf u + 0x1400 + 64 * i
  let x := d'.stream u i
  rdByte d' a = BitVec.ofNat 8 x.state ∧ rdByte d' (a + 1) = BitVec.ofNat 8 x.doneSeq ∧ rdByte d' (a + 2) = BitVec.ofNat 8 x.reqStatus ∧
    rdByte d' (a + 3) = BitVec.ofNat 8 x.stop ∧ rdNat d' (a + 4) 4 = x.jobHead.toNat ∧ rdNat d' (a + 8) 4 = x.bsHead.toNat ∧
    rdNat d' (a + 12) 4 = x.recTail.toNat

/-- Stream `i` of unit `u` has stopped for this reason (R388), with no job in progress. -/
def Stopped (u i reason : Nat) (d' : Dev) : Prop :=
  (d'.stream u i).state = 2 ∧ (d'.stream u i).stop = reason ∧ (d'.stream u i).job = none

end Sys2Proof.Machine
end

