-- ==== Sys2Proof/Certificates/Slice0/Obligations.lean ====
section
/-! DEFINITION. The statements for the provers: what the commands of each family do, what a step does, and what every step
keeps. -/

open Sys2Proof Sys2Proof.Machine

/-- The block takes the command at the front of its queue and runs it on the rest (the queue is the model's way to hold the
commands that wait). On an empty queue the actions that wait for a die crier that runs are put into it (R12, R412); otherwise
one fabric cycle passes (log entry 20): with no task that issues only wall-clock time differs, but for the cycles that every die
counts in a bell wait and in an issue hold (R66), and an abort that the last bundle raised stops its task (R64). -/
def Obligations.StepRunsFront : Prop :=
  (∀ (c : Instr) (s : State), step { s with pending := c :: s.pending } = exec c s) ∧
  (∀ (s : State) (c : Instr) (r : List Instr), s.pending = [] → s.dev.seq.dispatch = none → released s.dev = c :: r →
    ∃ w, Steps s { pending := c :: r, dev := { s.dev with waiting := w } } ∧
      ∀ p, p ∈ w ↔ p ∈ s.dev.waiting ∧ dieCrierRuns s.dev p.1 = false) ∧
  (∀ s : State, s.pending = [] → released s.dev = [] →
    (s.dev.seq.dispatch = none → s.dev.seq.running = none → s.dev.seq.adopt = [] →
      Steps s { s with dev := { s.dev with wall := s.dev.wall + 1 } }) ∧
    (∀ t, s.dev.seq.running = some t →
      (s.dev.seq.dispatch = none → issuing s.dev t = false →
        (s.dev.seq.mode ≠ .bellWait → s.dev.seq.mode ≠ .hold → Steps s { s with dev := { s.dev with wall := s.dev.wall + 1 } }) ∧
        (s.dev.seq.mode = .hold → ∃ h, CountedBy 1 s.dev.seq.hold h ∧
          Steps s { s with dev := { s.dev with wall := s.dev.wall + 1, seq := { s.dev.seq with hold := h } } }) ∧
        (s.dev.seq.mode = .bellWait → ∃ d', Steps s { s with dev := d' } ∧ d'.wall = s.dev.wall + 1 ∧
          CountedBy 1 s.dev.seq.stall d'.seq.stall ∧ OnlyCtx t { s.dev with wall := d'.wall, seq := d'.seq } d' ∧
          (d'.ctx t).bellWaited = (s.dev.ctx t).bellWaited + if s.dev.seq.tapHold then 0 else 1)) ∧
      (s.dev.seq.dispatch = some t → (s.dev.ctx t).stopDue = true → (s.dev.ctx t).abort ≠ none →
        ∃ d', Steps s { s with dev := d' } ∧ (d'.ctx t).phase = .aborting ∧ (d'.ctx t).abort = (s.dev.ctx t).abort ∧
          opsOf d' t = [] ∧ d'.seq.mode = .aborting ∧ d'.mem = s.dev.mem)))

/-- A step on an empty queue with a task that issues puts what falls due into the queue (R35, R36, R47, R50, R53, R59): the
limit of 19,800 cycles between checkpoints, a pre-emption at a yielding bundle, an IDLE or END bundle, a bell; otherwise the
operations of the next bundle's slots, where the porters accept its PT operation, and a cycle of issue hold where they do not. A
scheduled cycle lasts 16/F of a fabric cycle (R19). -/
def Obligations.BundlesAreFetched : Prop :=
  ∀ (s : State) (t : CtxId), s.pending = [] → s.dev.seq.dispatch = none → released s.dev = [] → issuing s.dev t = true →
    replaying s.dev = false →
    (let c := s.dev.ctx t
     let b := c.theProg.bundle c.pc
     let puts := fun (l : List Instr) (n : Nat) (pc : Nat) => ∃ d', Steps s { pending := l, dev := d' } ∧
       d'.wall = s.dev.wall + (if n = 0 then 0 else (stretched s.dev n).1) ∧
       (d'.ctx t).pc = pc ∧ (d'.ctx t).issuePc = c.pc ∧ (d'.ctx t).sinceCkpt = c.sinceCkpt + n ∧ d'.mem = s.dev.mem ∧
       d'.cores = s.dev.cores ∧ d'.tills = s.dev.tills ∧ ∀ u, u ≠ t → d'.ctx u = s.dev.ctx u
     (19800 < c.sinceCkpt → Steps s { s with pending := [.ckptLimitExceeded t] }) ∧
     (c.sinceCkpt ≤ 19800 → b.yielding = true → s.dev.seq.preemptPending = true → c.bellDone = false →
       Steps s { s with pending := [.preemption t] }) ∧
     (c.sinceCkpt ≤ 19800 → b.yielding = false ∨ s.dev.seq.preemptPending = false ∨ c.bellDone = true →
       (b.cls = 1 → c.loops = [] → puts [.idleBundle t (BitVec.ofNat 16 (b.ext % 2 ^ 16))] 0 (c.pc + 1)) ∧
       (b.cls = 2 → puts [.endBundle t] 1 c.pc) ∧
       (b.cls = 0 → b.bell = true → c.bellDone = false → porterReady s.dev t b = true → puts (b.syI t).toList 0 c.pc) ∧
       (b.cls = 0 → b.bell = false ∨ c.bellDone = true →
         (porterReady s.dev t b = true ∨ b.bell = true → c.loops = [] → lpBranches c b = false → puts (b.ops t) 1 (c.pc + 1)) ∧
         (porterReady s.dev t b = false → b.bell = false →
           ∃ d', Steps s { s with dev := d' } ∧ d'.wall = s.dev.wall + 1 ∧ d'.ctxs = s.dev.ctxs ∧ d'.mem = s.dev.mem))))

/-- A queue of commands without a reserved field value drains, in as many steps as it holds commands: no command stops the
block, whatever its state. -/
def Obligations.QueueDrains : Prop :=
  ∀ s : State, (∀ c ∈ s.pending, c.wellFormed = true) → ∃ d', StepsIn s.pending.length s { pending := [], dev := d' }

/-- Every step keeps the memory in its canonical form, in any state that has it. -/
def Obligations.MemoryStaysCanonical : Prop :=
  Kept MemoryCanonical

/-- The machine after reset: no command waits, memory is in its canonical form with nothing listed (what an unlisted byte reads
as is the model's choice, log entry 4), every context is idle, every till is disabled and no event is pending; the configuration
registers hold the factory values of their tables, in place of a ledger (log entry 3; R65, R86, R109, R175, R201, R218, R245,
R291, R316, R345, R379, R425). -/
def Obligations.ResetState : Prop :=
  MemoryCanonical State.reset ∧ State.reset.pending = [] ∧
    (let d := State.reset.dev
     (∀ a, rdByte d a = 0) ∧ (∀ t, (d.ctx t).phase = .idle ∧ (d.ctx t).prog = none ∧ ∀ r, (d.ctx t).scalar r = 0) ∧
     (∀ n, (d.till n).enable = false ∧ (d.till n).cur = none) ∧ (∀ n, (d.src n).pend = false ∧ (d.src n).active = false) ∧
     d.seq.running = none ∧ d.lease.valid = false ∧ d.cfg.streamWdog = 500 ∧ d.cfg.streamQuantum = 200 ∧ d.cfg.mxFailWindow = 600 ∧
     d.cfg.stewardEnable = true ∧ d.cfg.narrowDefault = 8 ∧ d.cfg.ovfDefault = 0x10 ∧ d.cfg.flushDefault = 0x290 ∧
     d.cfg.forceFull = false ∧ d.cfg.healthEvt = true ∧ d.cfg.hashEn = true ∧ d.cfg.convNoSkip = false ∧ d.cfg.attnNoSkip = false ∧
     d.cfg.moveShare = 25 ∧ d.cfg.hostTimeout = 200 ∧ d.cfg.autojoin = true ∧ d.cfg.fabricWait = 100 ∧ d.cfg.substEn = true ∧
     d.cfg.redDeadline = 0 ∧ d.cfg.hostDefer = 50 ∧ d.cfg.crierWdog = 10)

/-- A reserved field value in a slot operation (R38, R42, R87, R157, R274, R300, R327) stops the machine, in any state: the one
fault of the model (log entry 60). A command without one never faults and is never refused, and changes nothing of the queue. -/
def Obligations.OnlyReservedEncodingsStop : Prop :=
  ∀ (c : Instr) (s : State),
    (c.wellFormed = true → ∃ d', exec c s = .next { s with dev := d' }) ∧
    (c.wellFormed = false → exec c s = .fault .reservedEncoding)

/-- SMOVI and SADD (R41): the register named takes its value, S0 reads zero whatever is written to it, and nothing else differs.
BR, BRZ, BRNZ and LOOP (R41, R42): where the next bundle is, what a branch not taken leaves (everything), and what a loop level
holds; a count of 0 skips the body as a branch does. BSET, BADD and BROW (R41, R45): BASE[DST] of each acting slot of the mask
takes its value, every other base register and everything else stays. MLOAD (R41, R42, R44): the mask register named takes the
constant-pool entry, every other one and everything else stays; MASK0 is a reserved encoding. -/
def Obligations.LoopSlotActs : Prop :=
  (∀ (s : State) (t : CtxId), issuing s.dev t = true →
     (∀ dst imm, ∃ d', exec (.smovi t dst imm) s = .next { s with dev := d' } ∧ OnlyScalars t s.dev d' ∧
       ∀ n : BitVec 5, (d'.ctx t).scalar n.toNat =
         if n = 0 then 0 else if n = dst then imm.setWidth 32 else (s.dev.ctx t).scalar n.toNat) ∧
     (∀ dst src imm, ∃ d', exec (.sadd t dst src imm) s = .next { s with dev := d' } ∧ OnlyScalars t s.dev d' ∧
       ∀ n : BitVec 5, (d'.ctx t).scalar n.toNat =
         if n = 0 then 0
         else if n = dst then (s.dev.ctx t).scalar dst.toNat + (s.dev.ctx t).scalar src.toNat + imm.setWidth 32
         else (s.dev.ctx t).scalar n.toNat)) ∧
  (∀ (s : State) (t : CtxId), issuing s.dev t = true →
     (∀ imm, ∃ d', exec (.br t imm) s = .next { s with dev := d' } ∧ Jumped t (imm.toNat % 65536) s.dev d') ∧
     (∀ src imm, ∃ d', exec (.brz t src imm) s = .next { s with dev := d' } ∧
       if (s.dev.ctx t).scalar src.toNat = 0 then Jumped t (imm.toNat % 65536) s.dev d' else d' = s.dev) ∧
     (∀ src imm, ∃ d', exec (.brnz t src imm) s = .next { s with dev := d' } ∧
       if (s.dev.ctx t).scalar src.toNat = 0 then d' = s.dev else Jumped t (imm.toNat % 65536) s.dev d') ∧
     (∀ level src imm, ∃ d', exec (.loop t level src imm) s = .next { s with dev := d' } ∧
       (let c := s.dev.ctx t
        let count := (c.scalar src.toNat).toNat + imm.toNat % 65536
        let last := imm.toNat / 65536 % 65536
        let others := c.loops.filter (fun l => l.level ≠ level.toNat)
        if count = 0 then Scheduled t 1 { c with loops := others, pc := last + 1, taken := true } s.dev d'
        else OnlyCtx t s.dev d' ∧ d'.ctx t = { c with
          loops := { level := level.toNat, left := count, first := c.issuePc + 1, last := last } :: others }))) ∧
  (∀ (s : State) (t : CtxId) (dst src : BitVec 5) (mask : BitVec 4) (imm : BitVec 42), issuing s.dev t = true →
     (∀ ext : Option (BitVec 48), ∃ d', exec (.bset t dst mask imm ext) s = .next { s with dev := d' } ∧
       OnlyBases t s.dev d' ∧ ∀ (k : SlotId) (r : Fin 64), (d'.ctx t).base k r =
         if r.val = dst.toNat ∧ k.val ∈ actingSlots s.dev t mask.toNat then
           (match ext with | some e => e | none => imm.signExtend 48)
         else (s.dev.ctx t).base k r) ∧
     (∃ d', exec (.badd t dst src mask imm) s = .next { s with dev := d' } ∧
       OnlyBases t s.dev d' ∧ ∀ (k : SlotId) (r : Fin 64), (d'.ctx t).base k r =
         if r.val = dst.toNat ∧ k.val ∈ actingSlots s.dev t mask.toNat then
           (s.dev.ctx t).base k r + ((s.dev.ctx t).scalar src.toNat).setWidth 48 + imm.signExtend 48
         else (s.dev.ctx t).base k r) ∧
     (∃ d', exec (.brow t dst src mask imm) s = .next { s with dev := d' } ∧
       OnlyBases t s.dev d' ∧ ∀ (k : SlotId) (r : Fin 64), (d'.ctx t).base k r =
         if r.val = dst.toNat ∧ k.val ∈ actingSlots s.dev t mask.toNat then
           (let named := maskSlots (s.dev.ctx t) mask.toNat
            let j := (named.filter (fun x => decide (x < k.val))).length
            let rows := ceilDiv (j * ((s.dev.ctx t).scalar src.toNat).toNat) named.length
            (s.dev.ctx t).base k r + BitVec.ofNat 48 rows * imm.signExtend 48)
         else (s.dev.ctx t).base k r)) ∧
  (∀ (s : State) (t : CtxId) (dst : BitVec 4) (imm : BitVec 42),
     (dst = 0 → exec (.mload t dst imm) s = .fault .reservedEncoding) ∧
     (dst ≠ 0 → issuing s.dev t = true → ∃ d', exec (.mload t dst imm) s = .next { s with dev := d' } ∧
       OnlyCtx t s.dev d' ∧ { d'.ctx t with masks := (s.dev.ctx t).masks } = s.dev.ctx t ∧
       ∀ n : BitVec 4, (d'.ctx t).mask n.toNat =
         if n = dst then ((s.dev.ctx t).theProg.pool[imm.toNat % 4096]?).getD 0 else (s.dev.ctx t).mask n.toNat))

/-- BELL (R47, R50): satisfied and no checkpoint bell, it issues and reduces the counters it names; not satisfied, the schedule
clock stops at it and nothing else changes; where the porters cannot take its bundle's PT operation the bundle stays unissued.
BELL_RELEASE (R51, R52, R66): the bell of the running task that waits and is satisfied issues where no engine is late, no tap
dump is out and the porters take its bundle's PT operation; the cycles waited pass, and the stall count of every die has them. A
checkpoint bell that is satisfied and not early (R53, R54, R56): its number and time are kept, the schedule count starts anew,
and the two latest snapshots are held, the new one first with the scalars, loops, masks and bases as they are. One that falls
due within 3,300 cycles of the one before is held; where the sequencers' hashes differ the task aborts with INTERNAL (R48). -/
def Obligations.BellsHoldTheStream : Prop :=
  (∀ (s : State) (t : CtxId) (b : BellOp), issuing s.dev t = true → replaying s.dev = false →
     (bellSatisfied (s.dev.ctx t) b = true → bellReady s.dev t = false → exec (.bell t b) s = .next s) ∧
     (b.ckpt = false → bellSatisfied (s.dev.ctx t) b = true → bellReady s.dev t = true →
       ∃ d', exec (.bell t b) s = .next { s with dev := d' } ∧ BellPassed t b s.dev d') ∧
     (bellSatisfied (s.dev.ctx t) b = false →
       ∃ d', exec (.bell t b) s = .next { s with dev := d' } ∧
         OnlyCtx t { s.dev with seq := { s.dev.seq with mode := .bellWait } } d' ∧
         d'.ctx t = { s.dev.ctx t with bellWait := some b })) ∧
  (∀ (s : State) (t : CtxId) (b : BellOp) (waited : Nat), s.dev.seq.running = some t → s.dev.seq.mode = .bellWait →
     (s.dev.ctx t).bellWait = some b → bellSatisfied (s.dev.ctx t) b = true → b.ckpt = false → replaying s.dev = false →
     clockStands s.dev = false → bellReady (waitCycles t waited s.dev) t = true →
     ∃ d', exec (.bellRelease t waited) s = .next { s with dev := d' } ∧
       BellPassed t b { s.dev with wall := s.dev.wall + waited, seq := { s.dev.seq with stall := d'.seq.stall } } d' ∧
       CountedBy waited s.dev.seq.stall d'.seq.stall) ∧
  (∀ (s : State) (t : CtxId) (b : BellOp), issuing s.dev t = true → replaying s.dev = false → b.ckpt = true →
     bellSatisfied (s.dev.ctx t) b = true → bellReady s.dev t = true →
     (s.dev.wall < (s.dev.ctx t).ckptAt + 3300 →
       ∃ d', exec (.bell t b) s = .next { s with dev := d' } ∧
         OnlyCtx t { s.dev with seq := { s.dev.seq with mode := .hold, ckptHold := true } } d' ∧
         d'.ctx t = { s.dev.ctx t with bellWait := some b }) ∧
     ((s.dev.ctx t).ckptAt + 3300 ≤ s.dev.wall → s.dev.seq.replay = none → (s.dev.ctx t).phase = .running → (s.dev.ctx t).abort = none →
       ∃ d', exec (.bell t b) s = .next { s with dev := d' } ∧
         (hashDiffers s.dev ≠ none → ∃ detail, (d'.ctx t).abort = some (.internal, detail))) ∧
     ((s.dev.ctx t).ckptAt + 3300 ≤ s.dev.wall → hashDiffers s.dev = none → s.dev.seq.adopt = [] →
       ∃ d' sn, exec (.bell t b) s = .next { s with dev := d' } ∧
         (d'.ctx t).snaps = (sn :: (s.dev.ctx t).snaps).take 2 ∧ sn.pc = (s.dev.ctx t).issuePc ∧
         sn.scal = (s.dev.ctx t).scal ∧ sn.loops = (s.dev.ctx t).loops ∧ sn.masks = (s.dev.ctx t).masks ∧
         sn.bases = (s.dev.ctx t).bases ∧ (d'.ctx t).sinceCkpt = 0 ∧ (d'.ctx t).ckptAt = s.dev.wall ∧
         (d'.ctx t).bellNo = (s.dev.ctx t).bellNo + 1 ∧ (d'.ctx t).scal = (s.dev.ctx t).scal ∧
         (d'.ctx t).bases = (s.dev.ctx t).bases ∧ d'.mem = s.dev.mem ∧ d'.seq.issued = [] ∧
         ∀ u, u ≠ t → d'.ctx u = s.dev.ctx u))

/-- TCLEAR, SIGNAL and TOKEN_ARRIVAL (R43, R49): the counter named becomes zero, the stream-signal event of the context is
raised, the counter named counts one arrival; an arrival past 65,535 aborts the task with RESOURCE_OVERFLOW. -/
def Obligations.TokensAndSignals : Prop :=
  ∀ (s : State) (t : CtxId),
    (issuing s.dev t = true → replaying s.dev = false →
      (∀ token : BitVec 12, ∃ d', exec (.tclear t token) s = .next { s with dev := d' } ∧ OnlyTokens t s.dev d' ∧
        ∀ n : BitVec 12, Tab.get 0 (d'.ctx t).tokens n.toNat =
          if n = token then 0 else Tab.get 0 (s.dev.ctx t).tokens n.toNat) ∧
      (∀ arg : BitVec 8, exec (.signal t arg) s = .next { s with dev := raiseEvent (32 + t.val) arg.toNat s.dev })) ∧
    (∀ token : BitVec 12, (s.dev.ctx t).phase ≠ .idle → (s.dev.ctx t).phase ≠ .aborting →
      (Tab.get 0 (s.dev.ctx t).tokens token.toNat < 65535 →
        ∃ d', exec (.tokenArrival t token) s = .next { s with dev := d' } ∧ OnlyTokens t s.dev d' ∧
          ∀ n : BitVec 12, Tab.get 0 (d'.ctx t).tokens n.toNat =
            Tab.get 0 (s.dev.ctx t).tokens n.toNat + if n = token then 1 else 0) ∧
      (65535 ≤ Tab.get 0 (s.dev.ctx t).tokens token.toNat → (s.dev.ctx t).abort = none → endIssued s.dev t = false →
        s.dev.seq.dispatch ≠ some t →
        ∃ d' detail, exec (.tokenArrival t token) s = .next { s with dev := d' } ∧
          Aborted t .resourceOverflow detail s.dev d'))

/-- IDLE and END bundles (R36): n + 1 scheduled cycles in which nothing else happens; after END the context issues nothing more.
ENGINE_LATE, ISSUE_HOLD_END and CKPT_SPACING_HOLD_END (R47, R56): an engine with an operation in flight is noted as late and
issue holds; once no engine is late, at the end of a hold that no porter causes, issue goes on, the cycles held pass and every
die counts them; a checkpoint bell held for its spacing issues when 3,300 cycles have passed. BELL_WATCHDOG_EXPIRY and
CKPT_LIMIT_EXCEEDED (R52, R53, R64): the task aborts, with PREFETCH_LATE and the lowest-numbered token of its bell that is not
satisfied, or with BAD_PARAM and the bundle address. A cause already held is kept. -/
def Obligations.StreamHoldsAndEnds : Prop :=
  (∀ (s : State) (t : CtxId), issuing s.dev t = true →
     (∀ n : BitVec 16, ∃ d', exec (.idleBundle t n) s = .next { s with dev := d' } ∧
       Scheduled t (n.toNat + 1) (s.dev.ctx t) s.dev d') ∧
     (replaying s.dev = false → ∃ d', exec (.endBundle t) s = .next { s with dev := d' } ∧ OnlyCtx t s.dev d' ∧
       d'.ctx t = { s.dev.ctx t with ended := true } ∧ issuing d' t = false)) ∧
  (∀ (s : State) (t : CtxId), s.dev.seq.running = some t → s.dev.seq.replay = none →
     (∀ (c : CoreId) (e : Fin 3), s.dev.seq.mode = .issuing → (s.dev.core c.val).queue e.val ≠ [] →
       ∃ late, exec (.engineLate ⟨c, e⟩) s = .next { s with dev := { s.dev with seq := { s.dev.seq with mode := .hold, late := late } } } ∧
         ∀ x, x ∈ late ↔ x ∈ s.dev.seq.late ∨ x = (c.val, e.val)) ∧
     (∀ held, s.dev.seq.mode = .hold → s.dev.seq.ckptHold = false → s.dev.seq.tapHold = false → s.dev.seq.late = [] → s.dev.ptHeld = none →
       ∃ h, exec (.issueHoldEnd held) s = .next { s with dev := { s.dev with wall := s.dev.wall + held
                                                                             seq := { s.dev.seq with mode := .issuing, ptHold := false, hold := h } } } ∧
         CountedBy held s.dev.seq.hold h) ∧
     (∀ held b, (s.dev.ctx t).bellWait = some b → s.dev.seq.mode = .hold → s.dev.seq.ckptHold = true → b.ckpt = true →
       clockStands s.dev = false → bellReady s.dev t = true → hashDiffers s.dev = none → s.dev.seq.adopt = [] →
       (s.dev.ctx t).ckptAt + 3300 ≤ s.dev.wall + held →
       ∃ d', exec (.ckptSpacingHoldEnd t held) s = .next { s with dev := d' } ∧ d'.wall = s.dev.wall + held ∧
         d'.seq.mode = .issuing ∧ d'.seq.ckptHold = false ∧ (d'.ctx t).bellWait = none ∧
         (d'.ctx t).ckptAt = s.dev.wall + held ∧ d'.mem = s.dev.mem)) ∧
  (∀ (s : State) (t : CtxId), s.dev.seq.running = some t → (s.dev.ctx t).phase = .running → s.dev.seq.dispatch ≠ some t →
     ((s.dev.ctx t).abort = none → endIssued s.dev t = false →
       (∀ b tok, (s.dev.ctx t).bellWait = some b → s.dev.seq.mode = .bellWait →
         tok ∈ bellMissing (s.dev.ctx t) b → (∀ x ∈ bellMissing (s.dev.ctx t) b, tok ≤ x) →
         ∃ d', exec (.bellWatchdogExpiry t) s = .next { s with dev := d' } ∧ Aborted t .prefetchLate tok s.dev d') ∧
       (19800 < (s.dev.ctx t).sinceCkpt →
         ∃ d', exec (.ckptLimitExceeded t) s = .next { s with dev := d' } ∧
           Aborted t .badParam (s.dev.ctx t).issuePc s.dev d')) ∧
     ((s.dev.ctx t).abort ≠ none → (s.dev.ctx t).stopDue = false →
       exec (.ckptLimitExceeded t) s = .next s ∧
       ∃ d', exec (.bellWatchdogExpiry t) s = .next { s with dev := d' } ∧ (d'.ctx t).abort = (s.dev.ctx t).abort ∧
         (d'.ctx t).phase = .running ∧ d'.mem = s.dev.mem))

/-- FAULT_REPORT (R57, R81, R82, R443) on a slot that one core serves, outside a replay: the stream holds and a replay of the
slot from the checkpoint bell named is due; the fault's time is kept. A second fault of the core within the window takes it out
of service, marked failed and retired; no byte outside the accumulator buffers changes. SOLO_REPLAY_START and SOLO_REPLAY_END
(R57, R58): the context goes back to the snapshot, its execution point held; once it has come to that point again, the replay
ends there, the stream issues or waits as before, memory stays, and the core's event is pending. -/
def Obligations.CoreFaultsAreReplayed : Prop :=
  (∀ (s : State) (t : CtxId) (k : SlotId) (older : Bool) (kind : FaultKind) (core : Nat),
     s.dev.seq.running = some t → (s.dev.ctx t).phase = .running → s.dev.seq.replay = none → kind ≠ .coreLost →
     servingCores s.dev k.val = [core] →
     ((∀ w, Tab.get none s.dev.err.coreFaultAt core = some w → w + failWindow s.dev < s.dev.wall) →
       ∃ d', exec (.faultReport t k older kind) s = .next { s with dev := d' } ∧
         d'.seq = { s.dev.seq with mode := .hold, replay := some {
           ctx := t, slots := [(k.val, if older ∧ 2 ≤ (s.dev.ctx t).snaps.length then 1 else 0)], kind := kind, core := core } } ∧
         d'.ctx t = { s.dev.ctx t with recovered := true } ∧ Tab.get none d'.err.coreFaultAt core = some s.dev.wall ∧
         d'.mem = s.dev.mem ∧ d'.clusters = s.dev.clusters ∧ ∀ u, u ≠ t → d'.ctx u = s.dev.ctx u) ∧
     (∀ w, Tab.get none s.dev.err.coreFaultAt core = some w → s.dev.wall ≤ w + failWindow s.dev →
       ∃ d', exec (.faultReport t k older kind) s = .next { s with dev := d' } ∧ (d'.core core).failed = true ∧
         (d'.cluster (core / 9)).coreOk.getLsbD (core % 9) = false ∧ (d'.cluster (core / 9)).retired.getLsbD (core % 9) = true ∧
         ∀ a, (∀ j, placeOf a ≠ .acc j) → rdByte d' a = rdByte s.dev a)) ∧
  (∀ (s : State) (r : Replay), s.dev.seq.replay = some r →
     (∀ sn, r.running = false → r.held = none →
       (s.dev.ctx r.ctx).snaps[(r.slots.map (·.2)).foldl max 0]? = some sn →
       ∃ d' h, exec .soloReplayStart s = .next { s with dev := d' } ∧
         d'.seq = { s.dev.seq with mode := .replay, replay := some { r with
           running := true, stage := (r.slots.map (·.2)).foldl max 0, held := some h } } ∧
         h.pc = (s.dev.ctx r.ctx).pc ∧ h.scal = (s.dev.ctx r.ctx).scal ∧ h.loops = (s.dev.ctx r.ctx).loops ∧
         h.masks = (s.dev.ctx r.ctx).masks ∧ h.bases = (s.dev.ctx r.ctx).bases ∧
         h.issues = (s.dev.ctx r.ctx).issues ∧ h.bellWait = (s.dev.ctx r.ctx).bellWait ∧ h.ended = (s.dev.ctx r.ctx).ended ∧
         (d'.ctx r.ctx).pc = sn.pc ∧ (d'.ctx r.ctx).scal = sn.scal ∧ (d'.ctx r.ctx).loops = sn.loops ∧
         (d'.ctx r.ctx).masks = sn.masks ∧ (d'.ctx r.ctx).tokens = (s.dev.ctx r.ctx).tokens) ∧
     (∀ h replayed waits, r.running = true → r.held = some h → r.next = [] → r.adopted = false → r.core < 144 →
       atHeldPoint s.dev (s.dev.ctx r.ctx) = true → (s.dev.ctx r.ctx).hostAbort = false → s.dev.evt.retention = none →
       ∃ d', exec (.soloReplayEnd replayed waits) s = .next { s with dev := d' } ∧
         d'.seq = { s.dev.seq with replay := none, mode := if h.bellWait.isSome then .bellWait else if s.dev.seq.late ≠ [] ∨ s.dev.seq.tapHold = true then .hold else .issuing } ∧
         d'.wall = s.dev.wall + 16 + replayed ∧
         d'.ctx r.ctx = { s.dev.ctx r.ctx with
           pc := h.pc, issuePc := h.issuePc, scal := h.scal, loops := h.loops, masks := h.masks, bases := h.bases
           ended := h.ended, bellWait := h.bellWait, bellDone := h.bellDone, issues := h.issues } ∧
         (d'.src (128 + r.core)).pend = true ∧ d'.mem = s.dev.mem))

/-- QUANTUM_EXPIRY, PREEMPTION and PREEMPT_DRAIN_DONE (R59, R62): pre-emption is ordered where another task is ready; at a yield
bundle the task begins to drain, a bell bundle that waits to be evaluated again; when its engines are idle its accumulator
buffers are in the save areas of its slots, the top of each local-store share (its first 2 MiB: log entry 51), and every other
byte is as it was. TASK_SWITCH and TASK_RESUME (R53, R59, R60, R62, R79): the first ready context after the outgoing one runs,
whose accumulators hold what its save areas hold, every other byte of memory staying; its resumption counts as a checkpoint bell
and starts the quantum, and no array of a core goes on from where the outgoing task left it. -/
def Obligations.TasksArePreempted : Prop :=
  (∀ (s : State) (t : CtxId), s.dev.seq.running = some t →
     (∀ u, (s.dev.ctx u).phase = .ready → s.dev.cfg.streamQuantum ≠ 0 →
       exec .quantumExpiry s = .next { s with dev := { s.dev with seq := { s.dev.seq with preemptPending := true } } }) ∧
     (s.dev.seq.preemptPending = true → atYieldPoint (s.dev.ctx t) = true → s.dev.seq.replay = none →
       (s.dev.ctx t).abort = none → s.dev.seq.mode = .issuing ∨ s.dev.seq.mode = .bellWait →
       ∃ d', exec (.preemption t) s = .next { s with dev := d' } ∧
         OnlyCtx t { s.dev with seq := { s.dev.seq with mode := .saving, preempt := .draining t } } d' ∧
         d'.ctx t = if (s.dev.ctx t).bellWait = none then s.dev.ctx t
           else { s.dev.ctx t with bellWait := none, bellDone := false, pc := (s.dev.ctx t).issuePc }) ∧
     (MemoryCanonical s → sharesHold (s.dev.ctx t) → s.dev.seq.preempt = .draining t → enginesIdle s.dev t = true → (s.dev.ctx t).abort = none →
       (s.dev.ctx t).hostAbort = false →
       ∃ d', exec .preemptDrainDone s = .next { s with dev := d' } ∧
         OnlyCtx t { s.dev with seq := { s.dev.seq with preempt := .saved t }, mem := d'.mem, badSram := d'.badSram } d' ∧
         d'.ctx t = { s.dev.ctx t with saved := true } ∧
         (∀ k ∈ savedSlots (s.dev.ctx t), ∀ i, i < accSize →
           rdByte d' (saveAreaOf (s.dev.ctx t) k + i) = rdByte s.dev (accBase k + i)) ∧
         ∀ a, (∀ k ∈ savedSlots (s.dev.ctx t), a < saveAreaOf (s.dev.ctx t) k ∨ saveAreaOf (s.dev.ctx t) k + accSize ≤ a) →
           rdByte d' a = rdByte s.dev a)) ∧
  (∀ (s : State) (t u : CtxId),
     (MemoryCanonical s → sharesHold (s.dev.ctx u) → s.dev.seq.preempt = .saved t → (s.dev.ctx t).phase = .running → u ≠ t →
       (s.dev.ctx u).phase = .ready → (∀ v : CtxId, v - t - 1 < u - t - 1 → (s.dev.ctx v).phase ≠ .ready) →
       ∃ d', exec .taskSwitch s = .next { s with dev := d' } ∧
         d'.seq = { s.dev.seq with running := some u, mode := .saving, preempt := .restored u, preemptPending := false,
                                   lastRun := u.val } ∧
         d'.ctx t = { s.dev.ctx t with phase := .ready } ∧ d'.ctx u = { s.dev.ctx u with phase := .running, saved := false } ∧
         (∀ v, v ≠ t → v ≠ u → d'.ctx v = s.dev.ctx v) ∧
         ((s.dev.ctx u).saved = true → ∀ k ∈ savedSlots (s.dev.ctx u), ∀ i, i < accSize →
           rdByte d' (accBase k + i) = rdByte s.dev (saveAreaOf (s.dev.ctx u) k + i)) ∧
         ∀ a, (s.dev.ctx u).saved = false ∨ inSaved (s.dev.ctx u) a = false → rdByte d' a = rdByte s.dev a) ∧
     (s.dev.seq.preempt = .restored t → s.dev.seq.adopt = [] →
       ∃ d', exec .taskResume s = .next { s with dev := d' } ∧
         d'.seq = { s.dev.seq with mode := .issuing, preempt := .none, issued := [] } ∧
         (d'.ctx t).bellNo = (s.dev.ctx t).bellNo + 1 ∧ (d'.ctx t).sinceCkpt = 0 ∧ (d'.ctx t).ckptAt = s.dev.wall ∧
         (d'.ctx t).quantumAt = s.dev.wall ∧ (d'.ctx t).pc = (s.dev.ctx t).pc ∧ (d'.ctx t).scal = (s.dev.ctx t).scal ∧
         (d'.ctx t).tokens = (s.dev.ctx t).tokens ∧ d'.mem = s.dev.mem ∧ (∀ v, v ≠ t → d'.ctx v = s.dev.ctx v) ∧
         ∀ c, (s.dev.core c).mxQ = [] → (s.dev.core c).mxState ≠ 5 → (d'.core c).mxState = 0))

/-- RUN_TASK and TASK_START (R49, R53, R60, R367) where no pitch pool is attached and nothing is held for the task: a RUN_TASK
with parameters the device accepts makes the context start; the first bundle finds S1 to S31 as given, no token counted, no mask
loaded, one checkpoint bell counted, and the stream running the task where none ran or was ready; otherwise the task is ready.
TASK_END and CONTEXT_FREE (R36, R64, R190, R368) of a task that wants no step record, where no pitch pool is attached: the
RUN_TASK's record is formed, with OK and the sequences suspended, or with the abort's status and detail; the context is idle and
no task runs; after an abort the context's program is gone. -/
def Obligations.TasksStartAndEnd : Prop :=
  (∀ (s : State) (t : CtxId), noPools s.dev →
     (∀ p : RunParams, executing s.dev (taskTill t) 0x0102 = true → (s.dev.ctx t).phase = .idle → (s.dev.ctx t).prog.isSome = true →
       p.record = 0 → (∀ h ∈ p.inputs, handleOk s.dev h.toNat ≠ none) → runNeedsFirmware s.dev t p = false ∨ firmwareServes s.dev = true →
       ∃ d', exec (.runTask t p) s = .next { s with dev := d' } ∧ (d'.ctx t).phase = .starting ∧ (d'.ctx t).run = some p ∧
         (d'.ctx t).prog = (s.dev.ctx t).prog ∧ d'.pwr.darkValid = false ∧ (d'.ctx t).inputs.map (·.1) = p.inputs.map (·.toNat) ∧
         d'.mem = s.dev.mem ∧ d'.tills = s.dev.tills ∧ d'.seq = s.dev.seq ∧ ∀ u, u ≠ t → d'.ctx u = s.dev.ctx u) ∧
     (∀ r : RunParams, canStart s.dev t = true → (s.dev.ctx t).hostAbort = false → (s.dev.ctx t).run = some r →
       (∀ q, q < 24 → (s.dev.port q).landing = []) → (∀ u, u < 4 → (s.dev.codec u).held = []) →
       (s.dev.seq.running = none → s.dev.seq.adopt = []) →
       ∃ d', exec (.taskStart t) s = .next { s with dev := d' } ∧
         (if s.dev.seq.running = none ∧ s.dev.seq.preempt = .none ∧ (∀ u, (s.dev.ctx u).phase ≠ .ready) then
           (d'.ctx t).phase = .running ∧ d'.seq.running = some t ∧ d'.seq.mode = .issuing
         else (d'.ctx t).phase = .ready ∧ d'.seq = s.dev.seq) ∧ (d'.ctx t).pc = 0 ∧ (d'.ctx t).tokens = [] ∧ (d'.ctx t).masks = [] ∧ (d'.ctx t).loops = [] ∧
         (d'.ctx t).bellNo = 1 ∧ (d'.ctx t).step = r.step ∧ (d'.ctx t).seed = r.seed ∧
         (∀ n : BitVec 5, (d'.ctx t).scalar n.toNat = if n = 0 then 0 else r.scalars.getD (n.toNat - 1) 0) ∧
         d'.mem = s.dev.mem ∧ ∀ u, u ≠ t → d'.ctx u = s.dev.ctx u)) ∧
  (∀ (s : State) (t : CtxId), noPools s.dev → (s.dev.ctx t).record = 0 → (s.dev.ctx t).srep = none →
     (s.dev.till (taskTill t)).aborts = [] → (s.dev.till (taskTill t)).cur ≠ none → s.dev.seq.running = some t →
     (atEnd s.dev t = true →
       ∃ d', exec (.taskEnd t) s = .next { s with dev := d' } ∧
         Finished (taskTill t) .ok none (some ((s.dev.ctx t).suspended % 65536)) s.dev d' ∧ (d'.ctx t).phase = .idle ∧
         (d'.ctx t).prog = (s.dev.ctx t).prog ∧ d'.seq.running = none ∧ d'.mem = s.dev.mem ∧
         ∀ u, u ≠ t → d'.ctx u = s.dev.ctx u) ∧
     (∀ st detail, noStreams s.dev → canFree s.dev t = true → (s.dev.ctx t).abort = some (st, detail) → s.dev.seq.replay = none →
       ∃ d', exec (.contextFree t) s = .next { s with dev := d' } ∧
         Finished (taskTill t) st (some detail) (some ((s.dev.ctx t).suspended % 65536 + if (s.dev.ctx t).hostAbort then 65536 else 0))
           s.dev d' ∧ (d'.ctx t).phase = .idle ∧ (d'.ctx t).prog = none ∧ d'.seq.running = none ∧ d'.mem = s.dev.mem ∧
         ∀ u, u ≠ t → d'.ctx u = s.dev.ctx u))

/-- LOAD_PROGRAM and UNLOAD_PROGRAM (R365, R366): an image of a program with no objects and no pools that passes every check is
the context's program, with no task and the room left as the result; a context that is not idle answers BUSY to both; an
unloaded context holds no program. -/
def Obligations.ProgramsLoad : Prop :=
  ∀ (s : State) (t : CtxId),
    (∀ image (bytes : BitVec 64) digest (pl : Places), executing s.dev (taskTill t) 0x0100 = true →
      ((s.dev.ctx t).phase ≠ .idle → ∃ d', exec (.loadProgram t image bytes digest pl) s = .next { s with dev := d' } ∧
        Finished (taskTill t) .busy (some 0x00020000) none s.dev d' ∧ d'.ctxs = s.dev.ctxs ∧ d'.mem = s.dev.mem) ∧
      ((s.dev.ctx t).phase = .idle → (s.dev.ctx t).prog = none → formFault image bytes.toNat digest = none →
        (let p := progOf image pl.names
         objEntries p.objects pl.names = [] → imagePools p pl = [] → featureFault s.dev t image p = none → firstLarge p = none →
         imageFault s.dev image p pl = none → sharesMeet s.dev t p = false →
         residentBundles s.dev + p.bundles.length ≤ 65536 →
         ∃ d', exec (.loadProgram t image bytes digest pl) s = .next { s with dev := d' } ∧
           Finished (taskTill t) .ok none (some (65536 - residentBundles d')) s.dev d' ∧ (d'.ctx t).prog = some p ∧
           (d'.ctx t).phase = .idle ∧ d'.mem = s.dev.mem ∧ ∀ u, u ≠ t → d'.ctx u = s.dev.ctx u))) ∧
    (executing s.dev (taskTill t) 0x0101 = true →
      ((s.dev.ctx t).phase ≠ .idle → ∃ d', exec (.unloadProgram t) s = .next { s with dev := d' } ∧
        Finished (taskTill t) .busy none none s.dev d' ∧ d'.ctxs = s.dev.ctxs ∧ d'.mem = s.dev.mem) ∧
      ((s.dev.ctx t).phase = .idle → noStreams s.dev → ∃ d', exec (.unloadProgram t) s = .next { s with dev := d' } ∧
        Finished (taskTill t) .ok none none s.dev d' ∧ (d'.ctx t).prog = none ∧ d'.mem = s.dev.mem ∧
        ∀ u, u ≠ t → d'.ctx u = s.dev.ctx u))

/-- STEP_REPLAY, REPLAY_STOP and TAP_DUMP_LANDED (R194 to R200): a record that fails its first check is refused; one that passes
every check starts its step again with the recorded step, seed and inputs; a LOCAL replay ends at a bell on a token that only a
reduction raises; when the dumps of a held stream have landed it issues. -/
def Obligations.StepsAreReplayed : Prop :=
  ∀ (s : State) (t : CtxId),
    (∀ p : ReplayParams, executing s.dev (taskTill t) 0x0104 = true → (s.dev.ctx t).phase = .idle →
      p.scope.toNat ≤ 1 → p.taps.toNat ≤ 64 →
      (recordValid (recordAt s.dev p.record.toNat) = false → ∃ d', exec (.stepReplay t p) s = .next { s with dev := d' } ∧
        Finished (taskTill t) .badParam (some 1) none s.dev d' ∧ d'.ctxs = s.dev.ctxs ∧ d'.mem = s.dev.mem) ∧
      (recordValid (recordAt s.dev p.record.toNat) = true → (s.dev.ctx t).prog.isSome = true →
        slice (recordAt s.dev p.record.toNat) 24 32 = leBytes 32 (s.dev.ctx t).theProg.digest.toNat → p.scope = 0 →
        inputMismatch s.dev (recordAt s.dev p.record.toNat) = none → p.outRecord = 0 →
        ∃ d' r, exec (.stepReplay t p) s = .next { s with dev := d' } ∧ (d'.ctx t).phase = .starting ∧ (d'.ctx t).run = some r ∧
          r.step = BitVec.ofNat 32 (leAt (recordAt s.dev p.record.toNat) 8 4) ∧
          r.seed = BitVec.ofNat 64 (leAt (recordAt s.dev p.record.toNat) 16 8) ∧ r.wdog = p.wdog ∧
          d'.replayStat.running = true ∧ d'.replayStat.task = t.val ∧ d'.mem = s.dev.mem ∧ d'.tills = s.dev.tills ∧
          ∀ u, u ≠ t → d'.ctx u = s.dev.ctx u)) ∧
    (∀ r b tok n, (s.dev.ctx t).srep = some r → (s.dev.ctx t).bellWait = some b → r.fabric = false →
      s.dev.seq.running = some t → (tok, n) ∈ bellWaits b → tok ∈ redTokens (s.dev.ctx t).theProg →
      tok ∉ ptTokens (s.dev.ctx t).theProg →
      ∃ d', exec (.replayStop t) s = .next { s with dev := d' } ∧
        OnlyCtx t { s.dev with seq := { s.dev.seq with mode := .issuing, ckptHold := false } } d' ∧
        d'.ctx t = { s.dev.ctx t with ended := true, bellWait := none, srep := some { r with stopPc := some (s.dev.ctx t).issuePc } }) ∧
    (∀ r, (s.dev.ctx t).srep = some r → s.dev.seq.tapHold = true → s.dev.seq.mode = .hold → s.dev.seq.late = [] →
      s.dev.seq.ckptHold = false → s.dev.ptHeld = none → s.dev.seq.replay = none →
      ∃ d' r', exec (.tapDumpLanded t) s = .next { s with dev := d' } ∧
        d'.seq = { s.dev.seq with tapHold := false, mode := .issuing } ∧ (d'.ctx t).srep = some r' ∧
        r'.dumps = r.dumps.filter (fun x => !tapReady s.dev t x) ∧ ∀ u, u ≠ t → d'.ctx u = s.dev.ctx u)

/-- STEWARD_PASS and POLICY_ENTRY_WRITE (R106 to R108): the steward's pass names the step it processed and leaves no records
due; an entry that the rules accept, written by the host under EXPERT while no pass is due, is in the table with PLANNED and
STREAK as they were, and one they refuse changes no policy. -/
def Obligations.StewardAndPolicy : Prop :=
  ∀ (s : State) (t : CtxId),
    (∀ step recs, (s.dev.ctx t).stewardDue = some (step, recs) →
      ∃ d', exec (.stewardPass t) s = .next { s with dev := d' } ∧ (d'.ctx t).stewardDue = none ∧ (d'.ctx t).policyHeld = [] ∧
        d'.stewardStep = step ∧ d'.stewardTask = t.val ∧ d'.mem = s.dev.mem ∧ ∀ u, u ≠ t → d'.ctx u = s.dev.ctx u) ∧
    (∀ (i : Fin 64) (entry : BitVec 128), expert s.dev = true → (s.dev.ctx t).stewardDue = none →
      (let old := Tab.get 0 (s.dev.ctx t).policy i.val
       let e := policyMerge old entry
       (policyOk e = true → e ≠ 0 → polMode e ≠ 1 → polMode e ≠ 3 →
         polPlanned e = polPlanned old ∧ polStreak e = polStreak old ∧
         ∃ d', exec (.policyEntryWrite .host t i entry) s = .next { s with dev := d' } ∧ OnlyCtx t s.dev d' ∧
           { d'.ctx t with policy := (s.dev.ctx t).policy } = s.dev.ctx t ∧
           ∀ j : Fin 64, Tab.get 0 (d'.ctx t).policy j.val = if j = i then e else Tab.get 0 (s.dev.ctx t).policy j.val) ∧
       (policyOk e = false →
         exec (.policyEntryWrite .host t i entry) s = .next { s with dev := { s.dev with logged := s.dev.logged + 1 } })))

/-- Every well-formed matrix operation of a task that issues, in any form (R44, R47, R120): the operation stops its task, a slot
replay begins, or it is in flight, last in its queue, on the cores that work it, in ascending slot. Registers of no context,
time, configuration, homes, stacks, ports and the ledger change. The same of every vector and transpose operation (R44, R47,
R120, R140). A vector or transpose operation, in any form, changes no byte but in the local stores and the shared buffer of a
cluster with a slot that acts (R125, check 1), and in accumulator buffers where a repeated mismatch takes a core out of service
(R16, R82). While an operation runs, a byte shows what it holds or, where an operation in flight writes it, what it held before
(R142). -/
def Obligations.EngineOpsIssue : Prop :=
  (∀ (s : State) (t : CtxId) (o : MxOp) (op : Nat) (c : Instr), (op, c) ∈ mxOps t o → o.wellFormed = true →
     issuing s.dev t = true → (s.dev.ctx t).phase = .running →
     ∃ d', exec c s = .next { s with dev := d' } ∧ KeepsStream s.dev d' ∧ KeepsPackage s.dev d' ∧
       ((d'.ctx t).abort ≠ none ∨ d'.seq.replay ≠ none ∨
         ∀ core, (d'.core core).mxQ.map Flight.key =
           (s.dev.core core).mxQ.map Flight.key ++ flightsOn s.dev t o.mask.toNat op o.ldesc.toNat core)) ∧
  (∀ (s : State) (t : CtxId), issuing s.dev t = true → (s.dev.ctx t).phase = .running →
     (∀ (o : VxOp) (op : Nat) (c : Instr), (op, c) ∈ vxOps t o → o.wellFormed = true →
       ∃ d', exec c s = .next { s with dev := d' } ∧ KeepsStream s.dev d' ∧ KeepsPackage s.dev d' ∧
         ((d'.ctx t).abort ≠ none ∨ d'.seq.replay ≠ none ∨
           ∀ core, (d'.core core).vxQ.map Flight.key =
             (s.dev.core core).vxQ.map Flight.key ++ flightsOn s.dev t o.mask.toNat op o.ldesc.toNat core)) ∧
     (∀ (o : TxOp) (op : Nat) (c : Instr), (op, c) ∈ txOps t o → o.wellFormed = true →
       ∃ d', exec c s = .next { s with dev := d' } ∧ KeepsStream s.dev d' ∧ KeepsPackage s.dev d' ∧
         ((d'.ctx t).abort ≠ none ∨ d'.seq.replay ≠ none ∨
           ∀ core, (d'.core core).txQ.map Flight.key =
             (s.dev.core core).txQ.map Flight.key ++ flightsOn s.dev t o.mask.toNat op o.ldesc.toNat core))) ∧
  ((∀ (s : State) (t : CtxId) (c : Instr) (mask : BitVec 4),
     ((∃ o : VxOp, o.mask = mask ∧ ∃ op, (op, c) ∈ vxOps t o) ∨ (∃ o : TxOp, o.mask = mask ∧ ∃ op, (op, c) ∈ txOps t o)) →
     ∀ s', exec c s = .next s' → ∀ a, rdByte s'.dev a ≠ rdByte s.dev a →
       (∃ k ∈ actingSlots s.dev t mask.toNat, (∃ j, placeOf a = .localStore j ∧ j / 8 = k / 8) ∨ placeOf a = .shared (k / 8)) ∨
       (s'.dev.clusters ≠ s.dev.clusters ∧ ∃ j, placeOf a = .acc j)) ∧
   ∀ (d : Dev) (a : Nat), rdByte (veilOn d) a = rdByte d a ∨ ∃ e ∈ inFlight d, e.1 = memKey d a ∧ rdByte (veilOn d) a = e.2)

/-- Elementwise operations, reductions of one part and the random operations on one FP32 element (R129 to R134): the word of C
takes the result of the words of A, B and C, and no other byte changes. TCOPY and TBLOCK without DUAL on one FP32 element (R137,
R138): the destination word takes the source's value, saturated, and no other byte changes. OPTSTEP on one FP32 parameter (R135,
R136): the new parameter, first moment and, for KIND 0, second moment stand OUT_DELTA past the old ones, the parameter in C too,
and no other byte changes. -/
def Obligations.VectorElementResults : Prop :=
  (∀ (s : State) (t : CtxId) (o : VxOp) (k : SlotId) (c : Instr) (f : Machine.Num → Machine.Num → Machine.Num → Machine.Num),
     (c, f) ∈ vxResults t o (s.dev.ctx t).seed → o.wellFormed = true →
     OnOneSlot s.dev t o.mask.toNat o.ldesc.toNat k.val oneElem →
     (let at_ := fun (r : BitVec 6) => ((s.dev.ctx t).base k.val r.toNat).toNat
      inStore s.dev t k.val (at_ o.baseA) 4 → inStore s.dev t k.val (at_ o.baseB) 4 → inStore s.dev t k.val (at_ o.baseC) 4 →
      ∃ d', exec c s = .next { s with dev := d' } ∧
        rdNat d' (at_ o.baseC) 4 = Fmt.fp32.encode o.sat
          (f (wordAt s.dev (at_ o.baseA)) (wordAt s.dev (at_ o.baseB)) (wordAt s.dev (at_ o.baseC))) ∧
        ∀ a, a < at_ o.baseC ∨ at_ o.baseC + 4 ≤ a → rdByte d' a = rdByte s.dev a)) ∧
  (∀ (s : State) (t : CtxId) (o : TxOp) (k : SlotId) (c : Instr) (op : Nat), (op, c) ∈ txOps t o → o.wellFormed = true →
     o.dual = false → OnOneSlot s.dev t o.mask.toNat o.ldesc.toNat k.val oneElem →
     (let at_ := fun (r : BitVec 6) => ((s.dev.ctx t).base k.val r.toNat).toNat
      inStore s.dev t k.val (at_ o.baseSrc) 4 → inStore s.dev t k.val (at_ o.baseDst) 4 →
      ∃ d', exec c s = .next { s with dev := d' } ∧
        rdNat d' (at_ o.baseDst) 4 = Fmt.fp32.encode true (wordAt s.dev (at_ o.baseSrc)) ∧
        ∀ a, a < at_ o.baseDst ∨ at_ o.baseDst + 4 ≤ a → rdByte d' a = rdByte s.dev a)) ∧
  (∀ (s : State) (t : CtxId) (o : VxOp) (k : SlotId), o.wellFormed = true →
     OnOneSlot s.dev t o.mask.toNat o.ldesc.toNat k.val oneElem →
     (let at_ := fun (r : Nat) => ((s.dev.ctx t).base k.val r).toNat
      let a := at_ o.baseA.toNat
      let c := at_ o.baseC.toNat
      let rb := at_ (o.arg.toNat % 64)
      let q := OptRec.ofBytes (rdBytes s.dev rb 64)
      let plane := fun (x : Int) => ((at_ o.baseB.toNat : Int) + x).toNat
      let w := plane 0
      let m := plane q.plane
      let v := plane (2 * q.plane)
      let w' := plane q.delta
      let m' := plane (q.plane + q.delta)
      let v' := plane (2 * q.plane + q.delta)
      let outs := if q.kind = 0 then [c, w', m', v'] else [c, w', m']
      q.kind ≤ 1 → q.delta ≠ 0 → q.reserved = 0 → inStore s.dev t k.val rb 64 →
      (∀ z ∈ [q.delta, q.plane + q.delta, 2 * q.plane + q.delta], 0 ≤ (at_ o.baseB.toNat : Int) + z) →
      (∀ x ∈ [a, c, w, m, v, w', m', v'], inStore s.dev t k.val x 4) → outs.Pairwise apart →
      ∃ d', exec (.optstep t o) s = .next { s with dev := d' } ∧
        (let r := q.step (wordAt s.dev a) (wordAt s.dev w) (wordAt s.dev m) (wordAt s.dev v)
         rdNat d' w' 4 = Fmt.fp32.encode false r.1 ∧ rdNat d' m' 4 = Fmt.fp32.encode false r.2.1 ∧
           (q.kind = 0 → rdNat d' v' 4 = Fmt.fp32.encode false r.2.2) ∧ rdNat d' c 4 = Fmt.fp32.encode o.sat r.1) ∧
        ∀ x, (∀ y ∈ outs, x < y ∨ y + 4 ≤ x) → rdByte d' x = rdByte s.dev x))

/-- ACCZERO, ACCWRITE, SLOAD and MMA on slot `k` (R69 to R72, R96 to R98, R114): ACCZERO clears the valid lanes of its block, in
any form, and opens its units; ACCWRITE writes the accumulator word to C; SLOAD of a plain tile brings the weight's word to the
shadow bank, not yet valid; an MMA, with the weight that the active bank holds or, in time-sliced service, its own, writes to C,
through the accumulator, the product added to zero. No other byte changes. -/
def Obligations.MatrixElementResults : Prop :=
  ∀ (s : State) (t : CtxId) (o : MxOp) (k : SlotId) (x : Desc), o.wellFormed = true →
    OnOneSlot s.dev t o.mask.toNat o.ldesc.toNat k.val x → ((s.dev.ctx t).slot k.val).mxWait = [] →
    (let at_ := fun (r : BitVec 6) => ((s.dev.ctx t).base k.val r.toNat).toNat
     let acc := accBase k.val + o.accOff.toNat * 1024
     let i := issueOf s.dev t o.mask.toNat k.val
     let r := mxRun s.dev i o
     let st := r.blocks.headD []
     let lanes := (r.valid st r.lm).flatMap (fun m => (r.valid st r.ln).map (fun n =>
       r.lane 0 (m - st.getD r.lm 0 * r.tile r.lm) (n - st.getD r.ln 0 * r.tile r.ln)))
     ((∀ l ∈ x.levels, l.split = false ∧ l.plist = false ∧ l.boundSrc = 0 ∧ 1 ≤ l.bound) →
       (∀ off ∈ lanes, 0 ≤ off ∧ off + 4 ≤ accSize) → r.start 0 + r.blockBytes ≤ accSize →
       ∃ d', exec (.acczero t o) s = .next { s with dev := d' } ∧
         (∀ off ∈ lanes, rdNat d' (accBase k.val + off.toNat) 4 = 0) ∧
         (∀ a, (∀ off ∈ lanes, a < accBase k.val + off.toNat ∨ accBase k.val + off.toNat + 4 ≤ a) → rdByte d' a = rdByte s.dev a) ∧
         ∀ u, u < 2048 → (u ∈ ((d'.ctx t).slot k.val).openUnits ↔ u ∈ ((s.dev.ctx t).slot k.val).openUnits ∨
           (1024 * u < r.start 0 + r.blockBytes ∧ r.start 0 < 1024 * (u + 1)))) ∧
     (x = oneProduct → o.stat = 0 → o.preload = 0 → at_ o.baseM = 0 →
       (inStore s.dev t k.val (at_ o.baseC) 4 →
         ∃ d', exec (.accwrite t o) s = .next { s with dev := d' } ∧
           rdNat d' (at_ o.baseC) 4 = Fmt.fp32.encode o.sat (wordAt s.dev acc) ∧
           (∀ a, a < at_ o.baseC ∨ at_ o.baseC + 4 ≤ a → rdByte d' a = rdByte s.dev a) ∧
           o.accOff.toNat ∉ ((d'.ctx t).slot k.val).openUnits) ∧
       (inStore s.dev t k.val (at_ o.baseB) 4 → followingWg s.dev i o = none →
         ∃ d', exec (.sload t o) s = .next { s with dev := d' } ∧ d'.mem = s.dev.mem ∧
           ((d'.ctx t).slot k.val).sloadOut = ((s.dev.ctx t).slot k.val).sloadOut + 1 ∧
           ((d'.ctx t).slot k.val).activeBank = ((s.dev.ctx t).slot k.val).activeBank ∧
           ((d'.ctx t).slot k.val).shadowBank = { valid := false, tile := some {
             stat := 0, code := 0, ldesc := o.ldesc.toNat, base := at_ o.baseB
             elems := [(8 * (at_ o.baseB : Int), wordAt s.dev (at_ o.baseB))] } }) ∧
       (∀ w, o.accInto = false → o.swap = false → ((s.dev.ctx t).slot k.val).openUnits = [] →
         (if dealt s.dev k.val then inStore s.dev t k.val (at_ o.baseB) 4 ∧ w = wordAt s.dev (at_ o.baseB)
          else interval s.dev t ≤ ((s.dev.ctx t).slot k.val).activeBank.since + 1 ∧
            ((s.dev.ctx t).slot k.val).activeBank.tile = some {
              stat := 0, code := 0, ldesc := o.ldesc.toNat, base := at_ o.baseB, elems := [(8 * (at_ o.baseB : Int), w)] }) →
         inStore s.dev t k.val (at_ o.baseA) 4 → inStore s.dev t k.val (at_ o.baseC) 4 →
         ∃ d', exec (.mma t o) s = .next { s with dev := d' } ∧
           (let sum := fp32 (Machine.Num.add (Fmt.fp32.decode 0) (dot .zero [(wordAt s.dev (at_ o.baseA), w)]))
            rdNat d' acc 4 = fp32Bits sum ∧ rdNat d' (at_ o.baseC) 4 = Fmt.fp32.encode o.sat (Fmt.fp32.decode (fp32Bits sum))) ∧
           ∀ a, (a < acc ∨ acc + 4 ≤ a) → (a < at_ o.baseC ∨ at_ o.baseC + 4 ≤ a) → rdByte d' a = rdByte s.dev a)))

/-- CONV, CONVT and CONVDW with one tap over a field of one position, on slot `k` (R204 to R210): the product of the input and
of the weight, which the active bank holds or, in time-sliced service, memory, goes through the accumulator to C; no other byte
changes. CONVWG4 and CONVWG2 with a 3 by 3 kernel over a field of one position and one output (R213 to R215): C takes the
Winograd sum of that input and the nine weights, the first transformed one from the bank that an SLOAD filled; no byte outside C
and the region changes. -/
def Obligations.ConvolutionResults : Prop :=
  (∀ (s : State) (t : CtxId) (o : MxOp) (k : SlotId) (l : List Byte) (w : Machine.Num), o.wellFormed = true →
     OnOneSlot s.dev t o.mask.toNat o.ldesc.toNat k.val oneProduct → ((s.dev.ctx t).slot k.val).mxWait = [] →
     (s.dev.ctx t).theProg.conv[o.baseM.toNat]? = some l → OneTap (ConvRec.ofBytes l) →
     o.stat = 0 → o.preload = 0 → o.accInto = false → o.swap = false → ((s.dev.ctx t).slot k.val).openUnits = [] →
     (let at_ := fun (r : BitVec 6) => ((s.dev.ctx t).base k.val r.toNat).toNat
      let acc := accBase k.val + o.accOff.toNat * 1024
      let sum := addF (Fmt.fp32.decode 0) (dot .zero [(wordAt s.dev (at_ o.baseA), w)])
      (if dealt s.dev k.val then inStore s.dev t k.val (at_ o.baseB) 4 ∧ w = wordAt s.dev (at_ o.baseB)
       else bankHasOne s.dev t k.val 0 o.ldesc.toNat (at_ o.baseB) w) →
      inStore s.dev t k.val (at_ o.baseA) 4 → inStore s.dev t k.val (at_ o.baseC) 4 →
      ∀ c ∈ [Instr.conv t o, .convt t o, .convdw t o], ∃ d', exec c s = .next { s with dev := d' } ∧
        rdNat d' acc 4 = fp32Bits sum ∧ rdNat d' (at_ o.baseC) 4 = Fmt.fp32.encode o.sat (Fmt.fp32.decode (fp32Bits sum)) ∧
        ∀ a, (a < acc ∨ acc + 4 ≤ a) → (a < at_ o.baseC ∨ at_ o.baseC + 4 ≤ a) → rdByte d' a = rdByte s.dev a)) ∧
  (∀ (s : State) (t : CtxId) (o : MxOp) (k : SlotId) (l : List Byte) (n : Nat) (c : Instr),
     (n, c) ∈ [(4, Instr.convwg4 t o), (2, .convwg2 t o)] → o.wellFormed = true →
     OnOneSlot s.dev t o.mask.toNat o.ldesc.toNat k.val oneProduct → ((s.dev.ctx t).slot k.val).mxWait = [] →
     (s.dev.ctx t).theProg.conv[o.baseM.toNat]? = some l →
     o.stat = 0 → o.preload = 0 → o.swap = false →
     (let q := ConvRec.ofBytes l
      let at_ := fun (r : BitVec 6) => ((s.dev.ctx t).base k.val r.toNat).toNat
      let acc := accBase k.val + o.accOff.toNat * 1024
      let wAt := fun (j : Nat) => ((at_ o.baseB : Int) + 4 * (j * q.wtap)).toNat
      let kernel := (List.range 3).map (fun a => (List.range 3).map (fun b => wordAt s.dev (wAt (3 * a + b))))
      let zero := fun (m : Nat) => List.replicate m Machine.Num.zero
      let patch := (wordAt s.dev (at_ o.baseA) :: zero (n + 1)) :: List.replicate (n + 1) (zero (n + 2))
      q.ft = 1 → q.fh = 3 → q.fw = 3 → q.pt = 0 → q.ph = 0 → q.pw = 0 → 1 ≤ q.tin → q.hin = 1 → q.win = 1 → q.oh = 1 → q.ow = 1 →
      q.wtap ≠ 0 → (∀ j : Nat, j < 9 → 0 ≤ (at_ o.baseB : Int) + 4 * (j * q.wtap) ∧ inStore s.dev t k.val (wAt j) 4) →
      inStore s.dev t k.val (at_ o.baseA) 4 → inStore s.dev t k.val (at_ o.baseC) 4 →
      dealt s.dev k.val = true ∨ bankHasOne s.dev t k.val (32 * n) o.ldesc.toNat (at_ o.baseB) (((wgKernel n .fp32 kernel).headD []).headD .zero) →
      ∃ d', exec c s = .next { s with dev := d' } ∧
        rdNat d' (at_ o.baseC) 4 = Fmt.fp32.encode o.sat (winogradOne n patch kernel) ∧
        ∀ a, (a < acc ∨ acc + 4 * n * n ≤ a) → (a < at_ o.baseC ∨ at_ o.baseC + 4 ≤ a) → rdByte d' a = rdByte s.dev a))

/-- ATTN, ATTN_FIN and ATTN_BWD of one query row and one key with one element each, not masked, on slot `k` (R219 to R228): ATTN
writes the row's state to C and STAT, ATTN_FIN the normalised output and the merged state, ATTN_BWD the gradients of Q, K and V;
no other byte changes. KV_APPEND and ATTN_DEC of one token and one KV head with one element to a row, on slot `k` (R231 to
R237): the token's key and value stand in its pitch, whose one holder the sequence is; a first token's query meets its own key,
and the row's state stands in C and STAT. No other byte changes. -/
def Obligations.AttentionResults : Prop :=
  (∀ (s : State) (t : CtxId) (o : MxOp) (k : SlotId), o.wellFormed = true →
     OnOneSlot s.dev t o.mask.toNat o.ldesc.toNat k.val oneProduct → ((s.dev.ctx t).slot k.val).mxWait = [] →
     o.preload = 0 → o.accInto = false → o.swap = false → ((s.dev.ctx t).slot k.val).openUnits = [] →
     (attnOf s.dev t o).dim = 1 →
     (let q := attnOf s.dev t o
      let reg := attnBase s.dev t k.val o
      let aA := ((s.dev.ctx t).base k.val o.baseA.toNat).toNat
      let aC := ((s.dev.ctx t).base k.val o.baseC.toNat).toNat
      let acc := accBase k.val + o.accOff.toNat * 1024
      let stat := reg 2
      let len := rdNat s.dev (reg 3 + 8) 4
      let pos := fun (r : Nat) => (((s.dev.ctx t).scalar r)).toNat
      let word := wordAt s.dev
      let depth := tileDepth .fp32 .fp32
      let depthP := tileDepth q.fmtP .fp32
      let enc := Fmt.fp32.encode o.sat
      let same := fun (d' : Dev) (outs : List (Nat × Nat)) =>
        ∀ a, (∀ x ∈ outs, a < x.1 ∨ x.1 + x.2 ≤ a) → rdByte d' a = rdByte s.dev a
      inStore s.dev t k.val aA 4 → inStore s.dev t k.val aC 4 → inStore s.dev t k.val stat 8 → (aC + 4 ≤ stat ∨ stat + 8 ≤ aC) →
      (let st := mergeParts 1 [{ m := word stat, l := word (stat + 4), o := [word aA] }]
       ∃ d', exec (.attnFin t o) s = .next { s with dev := d' } ∧
         rdNat d' aC 4 = enc (if st.l.isZero then .zero else mulF (st.o.headD .zero) (recipF st.l)) ∧
         rdNat d' stat 4 = fp32Bits st.m ∧ rdNat d' (stat + 4) 4 = fp32Bits st.l ∧ same d' [(aC, 4), (stat, 8)]) ∧
      (inStore s.dev t k.val (reg 0) 4 → inStore s.dev t k.val (reg 1) 4 → inStore s.dev t k.val (reg 3) 16 →
       len ≤ 4194304 → rdNat s.dev (reg 3 + 12) 4 ≠ 0 → pos q.qpos < len → pos q.kpos < len →
       keyMasked q len (pos q.qpos) (pos q.kpos) = false →
       (let st := rowTile q o.sat depth depthP 1 [word aA] [(false, false, [word (reg 0)], [word (reg 1)])]
          { m := .inf true, l := .zero, o := [Fmt.fp32.decode 0] }
        ∃ d', exec (.attn t o) s = .next { s with dev := d' } ∧
          rdNat d' aC 4 = enc (Fmt.fp32.decode (fp32Bits (st.o.headD .zero))) ∧
          rdNat d' stat 4 = fp32Bits st.m ∧ rdNat d' (stat + 4) 4 = fp32Bits st.l ∧ same d' [(aC, 4), (stat, 8), (acc, 4)]) ∧
       (inStore s.dev t k.val (reg 4) 4 → inStore s.dev t k.val (reg 7) 4 → inStore s.dev t k.val (reg 5) 4 →
        inStore s.dev t k.val (reg 6) 4 → [aC, reg 5, reg 6].Pairwise apart →
        (let rnd := fun v => q.fmtP.decode (q.fmtP.encode o.sat v)
         let sc := mulF q.scale (dotPasses depth [(word aA, word (reg 0))])
         let p := rnd (mulF (expF (subF sc (word stat))) (recipF (word (stat + 4))))
         let ds := rnd (mulF p (subF (dotPasses depth [(word (reg 4), word (reg 1))]) (word (reg 7))))
         let dq := addPasses depthP (Fmt.fp32.decode 0) [(ds, word (reg 0))]
         ∃ d', exec (.attnBwd t o) s = .next { s with dev := d' } ∧
           rdNat d' aC 4 = enc (mulF q.scale (Fmt.fp32.decode (fp32Bits dq))) ∧
           rdNat d' (reg 6) 4 = fp32Bits (addF (word (reg 6)) (dotPasses depthP [(p, word (reg 4))])) ∧
           rdNat d' (reg 5) 4 = fp32Bits (addF (word (reg 5)) (mulF q.scale (dotPasses depthP [(ds, word aA)]))) ∧
           same d' [(aC, 4), (reg 5, 4), (reg 6, 4), (acc, 4)]))))) ∧
  (∀ (s : State) (t : CtxId) (o : MxOp) (k : SlotId), o.wellFormed = true →
     OnOneSlot s.dev t o.mask.toNat o.ldesc.toNat k.val oneProduct → ((s.dev.ctx t).slot k.val).mxWait = [] →
     o.preload = 0 → o.accInto = false → o.swap = false → (attnOf s.dev t o).dim = 1 →
     (let q := attnOf s.dev t o
      let reg := attnBase s.dev t k.val o
      let p := s.dev.pool q.pool
      let e8 := p.fmtOf.bits / 8
      let list := rdNat s.dev (reg 3) 6
      let len := rdNat s.dev (reg 3 + 8) 4
      let entry := leNat (hubRd s.dev (list + 4 * ((len - 1) / 16)) 4)
      let row := leNat (hubRd s.dev (p.table + 32 * (entry % 2 ^ 20)) 6)
      let refs := leNat (hubRd s.dev (p.table + 32 * (entry % 2 ^ 20) + 8) 4)
      let slice := row + ((s.dev.ctx t).scalar q.layer).toNat * p.hkv * p.slice
      let key := slice + (len - 1) % 16 * p.dim * e8
      let value := slice + (16 + (len - 1) % 16) * p.dim * e8
      let to_ := fun (a : Nat) => (List.range e8).map (fun j => physical s.dev (a + j))
      inStore s.dev t k.val (reg 3) 16 → rdNat s.dev (reg 3 + 12) 4 = 1 → 1 ≤ q.new → 1 ≤ len → len ≤ 4194304 →
      p.fmtOf.bits = 8 * e8 → (∀ c, listCap s.dev p list = some c → len ≤ 16 * c) → entry.testBit 20 = true →
      (refs = 1 → inStore s.dev t k.val (reg 0) e8 → inStore s.dev t k.val (reg 1) e8 → (to_ key ++ to_ value).Nodup →
       (∀ j, j < e8 → reg 1 + j ∉ to_ key) →
       ∃ d', exec (.kvAppend t o) s = .next { s with dev := d' } ∧
         (∀ j, j < e8 → rdByte d' (physical s.dev (key + j)) = rdByte s.dev (reg 0 + j) ∧
           rdByte d' (physical s.dev (value + j)) = rdByte s.dev (reg 1 + j)) ∧
         ∀ a, a ∉ to_ key ++ to_ value → rdByte d' a = rdByte s.dev a) ∧
      (let aA := ((s.dev.ctx t).base k.val o.baseA.toNat).toNat
       let aC := ((s.dev.ctx t).base k.val o.baseC.toNat).toNat
       let acc := accBase k.val + o.accOff.toNat * 1024
       let at_ := fun (a : Nat) => p.fmtOf.decode (leNat (hubRd s.dev a e8))
       let st := rowTile q o.sat (tileDepth .fp32 p.fmtOf) (tileDepth q.fmtP p.fmtOf) 1 [wordAt s.dev aA]
         [(false, false, [at_ key], [at_ value])] { m := .inf true, l := .zero, o := [.zero] }
       len = 1 → q.group = 1 → keyMasked q 1 0 0 = false → inStore s.dev t k.val aA 4 → inStore s.dev t k.val aC 4 →
       inStore s.dev t k.val (reg 2) 8 → (aC + 4 ≤ reg 2 ∨ reg 2 + 8 ≤ aC) →
       ∃ d', exec (.attnDec t o) s = .next { s with dev := d' } ∧ rdNat d' aC 4 = Fmt.fp32.encode o.sat (st.o.headD .zero) ∧
         rdNat d' (reg 2) 4 = fp32Bits st.m ∧ rdNat d' (reg 2 + 4) 4 = fp32Bits st.l ∧
         ∀ a, (a < aC ∨ aC + 4 ≤ a) → (a < reg 2 ∨ reg 2 + 8 ≤ a) → (a < acc ∨ acc + 4 ≤ a) → rdByte d' a = rdByte s.dev a)))

/-- Encoding the value of any element gives the element back (R87): every bit of every format but BLK40 is read and written, for
finite values under either SAT and for infinities without it. -/
def Obligations.FormatsRoundTrip : Prop :=
  ∀ (f : Fmt) (sat : Bool) (b : Nat), f ≠ .blk40 → b < 2 ^ f.bits → (f.decode b).isNan = false →
    ((f.decode b).isInf = true → sat = false) → f.encode sat (f.decode b) = b

/-- SLOAD_COMPLETE and BANK_SWAP (R71, R73, R83): the shadow bank becomes valid and the SLOAD leaves the engines of its slot;
once the shadow bank is valid and the array is in no pause and no replay, the operation that waits, and those behind it as far
as they can, run, and the cycles held are counted. MX_OP_COMPLETE, VX_OP_COMPLETE and TX_OP_COMPLETE (R47, R77, R139, R144): the
oldest operation of the array that no swap holds, an SLOAD apart, and the oldest of each other engine leaves its queue, the busy
cycles are counted, the engine is late no longer, and an array with none left drains; nothing else of the core or the package
differs. A mismatch of the transpose engine is counted and recorded. ARRAY_RAMP_DOWN, RAMP_DOWN_END, THROTTLE_PAUSE,
PAUSE_RELEASE and TILE_REFEED (R76, R78, R80, R83, R84): an array with no operation that streams, or whose only one's last
vector leaves, ramps down, and at the end is idle or ramps up for one that came; a pause order stops the arrays of the die that
are not idle; its release ramps up those that have an operation and counts the cycles; the withheld vectors enter again. -/
def Obligations.ArraysSwapAndRamp : Prop :=
  (∀ (s : State) (t : CtxId) (k : SlotId),
     (((s.dev.ctx t).slot k.val).sloadOut ≠ 0 →
       ∃ d', exec (.sloadComplete t k) s = .next { s with dev := d' } ∧ KeepsStream s.dev d' ∧ d'.mem = s.dev.mem ∧
         ((d'.ctx t).slot k.val).shadowBank = { ((s.dev.ctx t).slot k.val).shadowBank with valid := true } ∧
         ((d'.ctx t).slot k.val).activeBank = ((s.dev.ctx t).slot k.val).activeBank ∧
         ((d'.ctx t).slot k.val).sloadOut = ((s.dev.ctx t).slot k.val).sloadOut - 1 ∧
         ∀ c, d'.core c = if c ∈ servingCores s.dev k.val then { s.dev.core c with
           mxQ := (s.dev.core c).mxQ.eraseP (fun f => f.ctx == t && f.slot == k.val && f.op == 0x02) } else s.dev.core c) ∧
     (∀ held core, coreOfSlot s.dev k.val = some core → (s.dev.core core).mxQ ≠ [] →
       ((s.dev.core core).now s.dev.wall).mxState ≠ 5 → ((s.dev.core core).now s.dev.wall).mxState ≠ 6 →
       ((s.dev.ctx t).slot k.val).mxWait ≠ [] → ((s.dev.ctx t).slot k.val).shadowBank.valid = true →
       ∃ d' n, exec (.bankSwap t k held) s = .next { s with dev := d' } ∧ KeepsStream s.dev d' ∧ KeepsPackage s.dev d' ∧
         1 ≤ n ∧ ((d'.ctx t).slot k.val).mxWait = ((s.dev.ctx t).slot k.val).mxWait.drop n ∧
         (d'.core core).swapHold = (s.dev.core core).swapHold + held)) ∧
  (∀ (s : State) (c : CoreId) (busy : Nat), (∀ t, (s.dev.ctx t).srep = none) →
     (let x := s.dev.core c.val
      let only := fun (e : Nat) (d' : Dev) =>
        OnlyCore c.val { s.dev with seq := { s.dev.seq with late := s.dev.seq.late.filter (fun p => p ≠ (c.val, e)) } } d'
      (∀ pre f post, x.mxQ = pre ++ f :: post → f.op ≠ 0x02 → f.held = false → (∀ g ∈ pre, g.op = 0x02 ∨ g.held = true) →
        ∃ d', exec (.mxOpComplete c busy) s = .next { s with dev := d' } ∧ only 0 d' ∧
          (let y := { x.now s.dev.wall with mxQ := pre ++ post }
           d'.core c.val = { y with
             mxBusy := x.mxBusy + busy
             vxQ := if 0x20 ≤ f.op then x.vxQ.eraseP (fun g => g.ctx == f.ctx && g.slot == f.slot && g.op == f.op) else x.vxQ
             mxState := if y.mxState = 2 ∨ y.mxState = 3 ∨ y.mxState = 7 then y.rampedState
               else if y.mxState = 1 ∧ y.streams = [] then 3 else y.mxState })) ∧
      (∀ f rest parity, x.vxQ = f :: rest → f.op < 0x20 ∨ x.mxQ = [] →
        ∃ d', exec (.vxOpComplete c ⟨busy, 0, parity⟩) s = .next { s with dev := d' } ∧ only 1 d' ∧
          d'.core c.val = { x with vxQ := rest, vxBusy := x.vxBusy + busy, vxOp := f.op, tableParity := x.tableParity || parity }) ∧
      (∀ f rest, x.txQ = f :: rest →
        (∃ d', exec (.txOpComplete c ⟨busy, 0⟩) s = .next { s with dev := d' } ∧ only 2 d' ∧
          d'.core c.val = { x with txQ := rest, txBusy := x.txBusy + busy }) ∧
        (Tab.get none s.dev.err.coreFaultAt c.val = none → s.dev.evt.retention = none →
          ∃ d', exec (.txOpComplete c ⟨busy, 1⟩) s = .next { s with dev := d' } ∧
            d'.core c.val = { x with txQ := rest, txBusy := x.txBusy + busy, txRetries := satAdd 8 x.txRetries 1 } ∧
            Recorded 0 0 1 s.dev d' ∧ Tab.get none d'.err.coreFaultAt c.val = some s.dev.wall ∧ (d'.src (128 + c.val)).pend = true ∧
            d'.mem = s.dev.mem)))) ∧
  (∀ (s : State),
     (∀ c : CoreId, (let x := (s.dev.core c.val).now s.dev.wall
       x.mxState = 2 ∨ x.mxState = 3 →
       (x.streams = [] → ∃ d', exec (.arrayRampDown c) s = .next { s with dev := d' } ∧ OnlyCore c.val s.dev d' ∧
         d'.core c.val = { x with mxState := 4 }) ∧
       (∀ f, x.streams = [f] → f.forced = false → x.mxState = 2 →
         ∃ d', exec (.arrayRampDown c) s = .next { s with dev := d' } ∧ OnlyCore c.val s.dev d' ∧
           (d'.core c.val).mxState = 4 ∧ (d'.core c.val).streams = [] ∧ (d'.core c.val).mxQ.map Flight.key = x.mxQ.map Flight.key))) ∧
     (∀ c : CoreId, (let x := s.dev.core c.val
       x.mxState = 4 →
       ∃ d', exec (.rampDownEnd c) s = .next { s with dev := d' } ∧ OnlyCore c.val s.dev d' ∧
         (x.streams = [] → d'.core c.val = { x with mxState := 0 }) ∧
         (∀ f r, x.streams = f :: r → (d'.core c.val).mxState = 1 ∧ (d'.core c.val).rampAt = s.dev.wall + rampCycles s.dev ∧
           (d'.core c.val).mxNext = (if f.held then 7 else 2) ∧ (d'.core c.val).mxQ.map Flight.key = x.mxQ.map Flight.key))) ∧
     (∀ c : CoreId, (let x := (s.dev.core c.val).now s.dev.wall
       (x.mxState = 6 → ∃ d', exec (.tileRefeed c) s = .next { s with dev := d' } ∧ OnlyCore c.val s.dev d' ∧
         d'.core c.val = { x with mxState := x.rampedState }) ∧
       (x.mxState = 2 → x.mxQ.any (·.cells) = true → Tab.get none s.dev.err.coreFaultAt c.val = none →
         ∃ d', exec (.tileRefeed c) s = .next { s with dev := d' } ∧
           d'.core c.val = { x with tileReplays := satAdd 8 x.tileReplays 1, mxState := x.rampedState } ∧ Recorded 0 0 1 s.dev d' ∧
           Tab.get none d'.err.coreFaultAt c.val = some s.dev.wall ∧ d'.mem = s.dev.mem))) ∧
     (∀ x : DieId, Tab.get false s.dev.awning.paused x.val = true →
       ∃ d', exec (.throttlePause x) s = .next { s with dev := d' } ∧ { d' with cores := s.dev.cores } = s.dev ∧
         ∀ c : CoreId, (let y := (s.dev.core c.val).now s.dev.wall
           d'.core c.val =
             if c.val / 36 = x.val ∧ (s.dev.cluster (c.val / 9)).coreOk.getLsbD (c.val % 9) = true then
               (if y.mxState = 0 ∨ y.mxState = 5 then y else { y with mxState := 5, mxResume := y.mxState })
             else s.dev.core c.val)) ∧
     (∀ (x : DieId) (cycles : Nat), Tab.get false s.dev.awning.paused x.val = true → targetOf s.dev x.val = divOf s.dev x.val →
       sagHolds s.dev x.val = false →
       ∃ d', exec (.pauseRelease x cycles) s = .next { s with dev := d' } ∧ Tab.get false d'.awning.paused x.val = false ∧
         { d' with cores := s.dev.cores, awning := s.dev.awning } = s.dev ∧
         ∀ c : CoreId, (let y := s.dev.core c.val
           d'.core c.val =
             if c.val / 36 = x.val ∧ (s.dev.cluster (c.val / 9)).coreOk.getLsbD (c.val % 9) = true ∧ y.mxState = 5 then
               (let up := fun (next : Nat) => { y with
                  pause := y.pause + cycles, mxResume := 0, mxState := 1, mxNext := next, rampAt := s.dev.wall + rampCycles s.dev }
                if y.mxResume = 6 then up 6
                else if y.streams = [] then { y with pause := y.pause + cycles, mxResume := 0, mxState := 0 }
                else up (if y.streams.all (·.held) then 7 else 2))
             else y)))

/-- BPUSH, BPUSHOFF, BPUSHRC and BPOP issue (R157 to R159, R271): an operation with transfers is begun and joins its slot's
queue; BPUSHRC, which moves nothing, writes its entry at TOP as its turn comes, with KIND 3 and its tag, and ends. -/
def Obligations.BarrowOpsIssue : Prop :=
  ∀ (s : State) (t : CtxId) (o : PtOp) (k : Nat), (let i := issueOf s.dev t o.mask.toNat k
    let b := s.dev.bar t k
    issuing s.dev t = true → replaying s.dev = false → (s.dev.ctx t).srep = none → actingSlots s.dev t o.mask.toNat = [k] →
    o.frc.toNat ≤ 4 → b.queue = [] →
    (∀ c ∈ [Instr.bpush t o, .bpushoff t o, .bpop t o], ptStops s.dev c o i = none → ptSteps s.dev c i ≠ 0 →
      canAccept s.dev c [k] = true →
      ∃ d', exec c s = .next { s with dev := d' } ∧ d'.op s.dev.ptNext = some {
          instr := c, ctx := t, token := if o.tokenEn = true then some o.token.toNat else none
          parts := [{ at_ := i, steps := ptSteps s.dev c i }] } ∧ (d'.bar t k).queue = [s.dev.ptNext] ∧
        { d'.bar t k with queue := [] } = b ∧ d'.mem = s.dev.mem ∧ ∀ u, u ≠ t → d'.ctx u = s.dev.ctx u) ∧
    (ptStops s.dev (.bpushrc t o) o i = none → o.tokenEn = false → 0 < b.winUnits → b.top % 65536 + 64 ≤ 65536 →
      b.top + 64 ≤ b.capUnits * 65536 → b.holds (b.top / 65536) = true →
      b.isProtected (s.dev.ctx t).bellNo b.top (b.top + 64) = false →
      (let a := b.winBase + b.top / 65536 % b.winUnits * 65536 + b.top % 65536
       ∃ d', exec (.bpushrc t o) s = .next { s with dev := d' } ∧ d'.op s.dev.ptNext = none ∧ (d'.bar t k).queue = [] ∧
         (d'.bar t k).top = b.top + 64 ∧ (d'.bar t k).entries = b.entries + 1 ∧ (d'.bar t k).holds (b.top / 65536) = true ∧
         rdNat d' a 4 = o.ext.toNat % 2 ^ 32 ∧ rdNat d' (a + 32) 4 = 8 ∧ rdNat d' (a + 36) 1 = 3 ∧
         rdNat d' (a + 38) 2 = o.oparg.toNat % 2 ^ 12 ∧ ∀ x, (x < a ∨ a + 64 ≤ x) → rdByte d' x = rdByte s.dev x)))

/-- TRANSFER_LANDED of a BPUSH and TRANSFER_ISSUE and TRANSFER_LANDED of a BPOP, of one FP32 element kept as it is (R158 to
R160): the push writes payload and header at TOP, which advances by 64 bytes, and counts its entry; the pop takes the entry off
as it starts, and when it lands, the payload's bytes are at the destination. -/
def Obligations.BarrowPushesAndPops : Prop :=
  ∀ (s : State) (core : CoreId) (e : EntryId) (t : CtxId) (o : PtOp) (i : Issue),
    (let x := s.dev.entry core.val e.val
     let b := s.dev.bar t x.slot
     let rcd := fun (c : Instr) (hdr : Option Nat) => s.dev.op x.op = some {
       instr := c, ctx := t, token := none, parts := [{ at_ := i, steps := 1, hdr := hdr }] }
     i.t = t → i.k = x.slot → x.slot < 128 → i.rank < i.n → x.step = 0 → (s.dev.ctx t).theProg.descs[o.ldesc.toNat]? = some oneElem →
     s.dev.badSram = [] → s.dev.badBlocks = [] → x.own = 0 → waitsIntent s.dev core.val e.val = false →
     (s.dev.core core.val).backlog = [] → (s.dev.ctx t).srep = none → b.queue = [x.op] →
     b.armed = [] → o.frc = 0 → 0 < b.winUnits → b.winBase + b.winUnits * 65536 ≤ 2 ^ 32 →
     (let src := i.base o.baseSrc.toNat
      let a := b.winBase + b.top / 65536 % b.winUnits * 65536 + b.top % 65536
      x.state = 2 → inFlight s.dev = [] → rcd (.bpush t o) (some (b.top + 32)) → inStore s.dev t x.slot src 4 → b.top % 65536 + 64 ≤ 65536 →
      b.holds (b.top / 65536) = true →
      ∀ n, ∃ d', exec (.transferLanded core ⟨e, n⟩) s = .next { s with dev := d' } ∧ d'.op x.op = none ∧ (d'.bar t x.slot).queue = [] ∧
        (d'.bar t x.slot).top = b.top + 64 ∧ (d'.bar t x.slot).entries = b.entries + 1 ∧ rdNat d' a 4 = rdNat s.dev src 4 ∧
        rdNat d' (a + 32) 4 = 4 ∧ rdNat d' (a + 36) 1 = 0 ∧ rdNat d' (a + 38) 2 = o.oparg.toNat % 2 ^ 12 ∧
        rdNat d' (a + 44) 4 = 1 ∧ ∀ y, (y < a ∨ a + 64 ≤ y) → rdByte d' y = rdByte s.dev y) ∧
     (∀ hdr, (let dst := i.base o.baseDst.toNat
      let h := Header.ofBytes (Barrow.bytes s.dev b hdr 32)
      inStore s.dev t x.slot dst 4 → h.kind = 0 → h.frc = 0 → h.payload = 4 → h.fmt = oneElem.fa.toNat → h.elements = 1 →
      32 ≤ hdr →
      (x.state = 1 → rcd (.bpop t o) none → hdr + 32 = b.top → 0 < b.entries → h.tag % 2 ^ 12 = o.oparg.toNat % 2 ^ 12 →
        earlierWaits s.dev x = false → Tab.wf (none : Option WinPos) b.win = true →
        ∃ d', exec (.transferIssue core e) s = .next { s with dev := d' } ∧ d'.entry core.val e.val = { x with state := 2 } ∧
          (d'.bar t x.slot).top = b.top - 64 ∧ (d'.bar t x.slot).entries = b.entries - 1 ∧ d'.mem = s.dev.mem ∧
          d'.op x.op = some { instr := .bpop t o, ctx := t, token := none, parts := [{ at_ := i, steps := 1, hdr := some hdr }] }) ∧
      (x.state = 2 → rcd (.bpop t o) (some hdr) →
        ∃ d', exec (.transferLanded core ⟨e, 0⟩) s = .next { s with dev := d' } ∧ d'.op x.op = none ∧ (d'.bar t x.slot).queue = [] ∧
          (d'.bar t x.slot).top = b.top ∧ ∀ y, rdByte d' y =
            if dst ≤ y ∧ y < dst + 4 then (Barrow.bytes s.dev b (hdr - 32) 4).getD (y - dst) 0 else rdByte s.dev y))))

/-- SPILL_DONE and REFILL_DONE (R163): a unit that is spilled has its 64 KiB in the spill region, its position is CLEAN and
counted; a unit that is fetched into a position without dirty bytes is there, likewise; a request that is not under way changes
nothing. PUSH_RESUME and PROTECT_RELEASE (R163, R164): a push that waited has its place at TOP once nothing holds it back.
HOST_WRITE_ACK and PREFETCH_BACK_LANDED (R159, R161, R185, R187): the data of an armed entry are in the host tier when it is
acknowledged, and its push is over; a prefetch-back brings them to the landing address, and the entry waits for its pop.
POOL_WAIT_EXPIRY (R243): only the context whose pass waits is served; its grow is given up and counted, and nothing outside the
pools, the tasks and memory differs. -/
def Obligations.BarrowUnitsAndWaits : Prop :=
  (∀ (s : State) (t : CtxId) (k : SlotId) (u : Nat), (let b := s.dev.bar t k.val
     let win := b.winBase + u % b.winUnits * 65536
     let out := physical s.dev (b.spillBase + u * 65536)
     let kept := fun (d' : Dev) => d'.homes = s.dev.homes ∧ (d'.bar t k.val).top = b.top ∧ (d'.bar t k.val).entries = b.entries ∧
       (d'.bar t k.val).armed = b.armed ∧ ∀ v, v ≠ t → s.dev.seq.running ≠ some v → d'.ctx v = s.dev.ctx v
     let placed := Tab.wf (0 : Byte) s.dev.mem = true ∧ oneRegion win 65536 ∧ oneRegion out 65536
     (u ∉ b.spilling → exec (.spillDone t k u) s = .next s) ∧ (u ∉ b.refilling → exec (.refillDone t k u) s = .next s) ∧
     (placed → u ∈ b.spilling → b.holds u = true →
       ∃ d', exec (.spillDone t k u) s = .next { s with dev := d' } ∧ kept d' ∧ (d'.bar t k.val).spilled = b.spilled + 1 ∧
         (d'.bar t k.val).at_ u = some { unit := u, dirty := false } ∧
         ∀ a, rdByte d' a = if out ≤ a ∧ a < out + 65536 then rdByte s.dev (a - out + win) else rdByte s.dev a) ∧
     (placed → u ∈ b.refilling → b.holds u = false → (∀ w, b.at_ u = some w → w.dirty = false) →
       ∃ d', exec (.refillDone t k u) s = .next { s with dev := d' } ∧ kept d' ∧ (d'.bar t k.val).refilled = b.refilled + 1 ∧
         (d'.bar t k.val).at_ u = some { unit := u, dirty := false } ∧
         ∀ a, rdByte d' a = if win ≤ a ∧ a < win + 65536 then rdByte s.dev (a - win + out) else rdByte s.dev a))) ∧
  (∀ (s : State) (t : CtxId) (k : SlotId), (let b := s.dev.bar t k.val
     (b.pushWait = false → exec (.pushResume t k) s = .next s) ∧ (b.protectWait = false → exec (.protectRelease t k) s = .next s) ∧
     (∀ n (o : PtOp) (i : Issue), b.queue = [n] → s.dev.op n = some {
         instr := .bpush t o, ctx := t, token := none, parts := [{ at_ := i, steps := 1 }] } →
       i.t = t → i.k = k.val → i.rank < i.n → (s.dev.ctx t).theProg.descs[o.ldesc.toNat]? = some oneElem → o.frc = 0 →
       inStore s.dev t k.val (i.base o.baseSrc.toNat) 4 → 0 < b.winUnits → b.top + 64 ≤ b.capUnits * 65536 →
       (let done := fun (d' : Dev) => d'.mem = s.dev.mem ∧ (d'.bar t k.val).pushWait = false ∧ (d'.bar t k.val).protectWait = false ∧
          (d'.bar t k.val).top = b.top ∧ d'.op n = some {
            instr := .bpush t o, ctx := t, token := none, parts := [{ at_ := i, steps := 1, hdr := some (b.top + 32) }] }
        (b.pushWait = true → pushWait b (s.dev.ctx t).bellNo 64 false = .go →
          ∃ d', exec (.pushResume t k) s = .next { s with dev := d' } ∧ done d') ∧
        (b.protectWait = true → pushWait (b.empty (s.dev.ctx t).bellNo) (s.dev.ctx t).bellNo 64 false = .go →
          ∃ d', exec (.protectRelease t k) s = .next { s with dev := d' } ∧ done d'))) ∧
     (∀ index, (∀ a ∈ b.armed, a.index = index → a.acked = true) → exec (.hostWriteAck t k index) s = .next s) ∧
     (∀ a v, b.armed = [a] → a.acked = false → a.back = 0 → a.data = [v] →
       (a.pushOp = none →
         ∃ d', exec (.hostWriteAck t k a.index) s = .next { s with dev := d' } ∧ (d'.bar t k.val) = { b with armed := [{ a with acked := true }] } ∧
           ∀ x, rdByte d' x = if x = physical s.dev a.host then v else rdByte s.dev x) ∧
       (∀ n r p, a.pushOp = some n → s.dev.op n = some r → r.parts = [p] → p.at_.k = k.val → r.token = none →
         ∃ d', exec (.hostWriteAck t k a.index) s = .next { s with dev := d' } ∧ d'.op n = none ∧
           (d'.bar t k.val).armed = [{ a with acked := true, pushOp := none }] ∧ rdByte d' (physical s.dev a.host) = v)) ∧
     (∀ index, (∀ a ∈ b.armed, a.index = index → a.back ≠ 2) → exec (.prefetchBackLanded t k index) s = .next s) ∧
     (∀ a n r p (o : PtOp) (core : CoreId) e, b.armed = [a] → a.back = 2 → a.popOp = none → a.instr = .bpushoff t o → a.frc = 0 →
       a.data.length = 4 → a.at_.t = t → a.at_.k = k.val → a.at_.rank < a.at_.n →
       (s.dev.ctx t).theProg.descs[o.ldesc.toNat]? = some oneElem → inStore s.dev t k.val a.landing 4 → s.dev.badSram = [] →
       s.dev.badBlocks = [] → s.dev.ptOps = [(n, some r)] → r.ctx = t → r.back = some a.index → r.parts = [p] → p.at_.k = k.val →
       r.token = none → entriesOf s.dev n k.val = [(core.val, e)] → (s.dev.core core.val).backlog = [] →
       ∃ d', exec (.prefetchBackLanded t k a.index) s = .next { s with dev := d' } ∧ d'.op n = none ∧
         (d'.bar t k.val).armed = [{ a with back := 3 }] ∧ d'.offFetched = s.dev.offFetched + 4 ∧
         ∀ x, rdByte d' x = if a.landing ≤ x ∧ x < a.landing + 4 then ptByte s.dev (a.host + (x - a.landing)) else rdByte s.dev x))) ∧
  (∀ (s : State) (t : CtxId) (p : PoolId),
     ((s.dev.pool p.val).queue.head? ≠ some t ∨ (s.dev.pool p.val).taken = none → exec (.poolWaitExpiry t p) s = .next s) ∧
     (∀ x, (s.dev.pool p.val).queue.head? = some t → (s.dev.pool p.val).taken = some x →
       ∃ d', exec (.poolWaitExpiry t p) s = .next { s with dev := d' } ∧
         (d'.pool p.val).exhausted = (s.dev.pool p.val).exhausted + 1 ∧ d'.homes = s.dev.homes ∧ d'.cores = s.dev.cores ∧
         d'.seq = s.dev.seq ∧ d'.ports = s.dev.ports ∧ d'.cfg = s.dev.cfg))

/-- STACK_READ, STACK_WRITE, CXL_MEM_READ, CXL_MEM_WRITE and SCRUB_PASS (R28, R249 to R254, R268, R352): a populated block in
service is read, what the code or the parity repairs is counted and recorded; a block that cannot be rebuilt fails until it is
written whole, and its consumer's task aborts; a write stores exactly its bytes; the window reads and writes the bytes its names
translate to. -/
def Obligations.StackAccesses : Prop :=
  ∀ (s : State),
    (∀ (a : BitVec 48) (len : BitVec 13) consumer sk ch, isStack a.toNat = true → populated s.dev a.toNat = true →
      chanOfAddr s.dev a.toNat = (sk, ch) → (s.dev.stk sk).refresh = false → a.toNat / 4096 * 4096 ∉ s.dev.badBlocks →
      (s.dev.chan sk ch).state = 0 →
      exec (.stackRead a len consumer .clean) s =
        .next { s with dev := { s.dev with readData := leNat (rdBytes s.dev a.toNat len.toNat) } } ∧
      (∃ d', exec (.stackRead a len consumer .corrected) s = .next { s with dev := d' } ∧ d'.mem = s.dev.mem ∧
        d'.readData = leNat (rdBytes s.dev a.toNat len.toNat) ∧ Recorded 3 3 0 s.dev d' ∧ d'.ctxs = s.dev.ctxs ∧
        d'.stk sk = { s.dev.stk sk with corrected := min ((s.dev.stk sk).corrected + 1) 65535 }) ∧
      (∃ d', exec (.stackRead a len consumer .onDie) s = .next { s with dev := d' } ∧ d'.mem = s.dev.mem ∧
        d'.readData = leNat (rdBytes s.dev a.toNat len.toNat) ∧ Recorded 3 3 0 s.dev d' ∧ d'.ctxs = s.dev.ctxs ∧
        d'.stk sk = { s.dev.stk sk with onDie := min ((s.dev.stk sk).onDie + 1) 65535 }) ∧
      (rebuildable s.dev sk ch = true →
        ∃ d', exec (.stackRead a len consumer .mismatch) s = .next { s with dev := d' } ∧ d'.mem = s.dev.mem ∧
          d'.readData = leNat (rdBytes s.dev a.toNat len.toNat) ∧ Recorded 3 3 6 s.dev d' ∧ d'.ctxs = s.dev.ctxs ∧
          (d'.stk sk).mismatch = min ((s.dev.stk sk).mismatch + 1) 65535 ∧
          (d'.stk sk).rebuilt = min ((s.dev.stk sk).rebuilt + 1) 65535 ∧
          (d'.chan sk ch).errors = min ((s.dev.chan sk ch).errors + 1) 255) ∧
      (∃ d', exec (.stackRead a len none .unrebuilt) s = .next { s with dev := d' } ∧ d'.mem = s.dev.mem ∧
        a.toNat / 4096 * 4096 ∈ d'.badBlocks ∧ Recorded 3 3 15 s.dev d' ∧ d'.ctxs = s.dev.ctxs) ∧
      (∀ t, (s.dev.ctx t).phase ≠ .idle → (s.dev.ctx t).abort = none → endIssued s.dev t = false → s.dev.seq.dispatch ≠ some t →
        ∃ d', exec (.stackRead a len (some t) .unrebuilt) s = .next { s with dev := d' } ∧
          a.toNat / 4096 * 4096 ∈ d'.badBlocks ∧ Recorded 3 3 13 s.dev d' ∧
          Aborted t .checksumMismatch (blockNo a.toNat % 2 ^ 26 + 2 ^ 26 * (dieOfAddr a.toNat % 4)) s.dev d')) ∧
    (∀ (a : BitVec 48) (len : BitVec 13) consumer chk, isStack a.toNat = false ∨ populated s.dev a.toNat = false →
      exec (.stackRead a len consumer chk) s = .next { s with dev := { s.dev with readData := 0, logged := s.dev.logged + 1 } }) ∧
    (∀ (a : BitVec 48) data, (s.dev.stk (chanOfAddr s.dev a.toNat).1).refresh = false →
      (∀ i, i < data.length → isStack (a.toNat + i) = true ∧ populated s.dev (a.toNat + i) = true) →
      ((∀ i, i < data.length → blockBad s.dev (a.toNat + i) = false) ∨ (data.length = 4096 ∧ a.toNat % 4096 = 0)) →
      ∃ d', exec (.stackWrite a data) s = .next { s with dev := d' } ∧
        { d' with mem := s.dev.mem, badBlocks := s.dev.badBlocks } = s.dev ∧
        (∀ b, b ∈ d'.badBlocks ↔ b ∈ s.dev.badBlocks ∧ b ≠ a.toNat) ∧
        ∀ b, rdByte d' b = if a.toNat ≤ b ∧ b < a.toNat + data.length then data.getD (b - a.toNat) 0 else rdByte s.dev b) ∧
    (∀ (x : BitVec 48) (len : BitVec 16), windowServes s.dev x.toNat len.toNat = true →
      ((∀ i, i < len.toNat → ∃ b, translate s.dev (s.dev.host.winName.toNat + x.toNat + i) = some b ∧
          blockBad s.dev b = false) →
        ∃ d', exec (.cxlMemRead x len) s = .next { s with dev := d' } ∧
          { d' with readData := s.dev.readData, host := s.dev.host } = s.dev ∧ { d'.host with poison := s.dev.host.poison } = s.dev.host ∧
          d'.host.poison = false ∧ ∀ i, i < len.toNat →
            d'.readData / 256 ^ i % 256 = (rdByte s.dev (physical s.dev (s.dev.host.winName.toNat + x.toNat + i))).toNat) ∧
      (∀ i, i < len.toNat → translate s.dev (s.dev.host.winName.toNat + x.toNat + i) = none →
        ∃ d', exec (.cxlMemRead x len) s = .next { s with dev := d' } ∧ d'.host.poison = true ∧ d'.mem = s.dev.mem)) ∧
    (∀ (x : BitVec 48) data, windowServes s.dev x.toNat data.length = true →
      (∀ i, i < data.length → ∃ b, translate s.dev (s.dev.host.winName.toNat + x.toNat + i) = some b ∧ isStack b = true ∧
        populated s.dev b = true ∧ s.dev.badBlocks = [] ∧ blockBad s.dev b = false) →
      (∀ i j, i < data.length → j < data.length →
        physical s.dev (s.dev.host.winName.toNat + x.toNat + i) = physical s.dev (s.dev.host.winName.toNat + x.toNat + j) → i = j) →
      ∃ d', exec (.cxlMemWrite x data) s = .next { s with dev := d' } ∧ { d' with mem := s.dev.mem } = s.dev ∧
        (∀ i, i < data.length → rdByte d' (physical s.dev (s.dev.host.winName.toNat + x.toNat + i)) = data.getD i 0) ∧
        ∀ b, (∀ i, i < data.length → physical s.dev (s.dev.host.winName.toNat + x.toNat + i) ≠ b) → rdByte d' b = rdByte s.dev b) ∧
    (∀ (k : StackId) fixed, (s.dev.stkCfg k.val).scrubEnable = true → (s.dev.stk k.val).trained = true →
      ∃ d', exec (.scrubPass k fixed) s = .next { s with dev := d' } ∧ { d' with stks := s.dev.stks, logged := s.dev.logged } = s.dev ∧
        d'.logged = s.dev.logged + fixed ∧ d'.stk k.val = { s.dev.stk k.val with passes := (s.dev.stk k.val).passes + 1 } ∧
        ∀ j, j ≠ k.val → d'.stk j = s.dev.stk j)

/-- The loss of a channel (R256 to R262): it is announced and its capacity goes; the cut waits until no home meets its band;
what it held is relocated; its groups re-form and it is mapped out; a drained channel is resilvered and returns to service. -/
def Obligations.ChannelsAreLost : Prop :=
  ∀ (s : State) (k : StackId) (x : ChanId),
    ((s.dev.chan k.val x.val).role ≠ 1 → (s.dev.chan k.val x.val).state ≠ 1 → lossOf s.dev k.val x.val = none →
      ∃ d', exec (.channelFailed k x) s = .next { s with dev := d' } ∧ (d'.chan k.val x.val).state = 1 ∧ d'.mem = s.dev.mem ∧
        d'.losses = s.dev.losses ++ [{ stack := k.val, chan := x.val, phase := 0
                                       band := (s.dev.losses.filter (fun l => l.stack / 3 == k.val / 3)).length + 1 }] ∧
        Recorded 4 3 7 s.dev d' ∧ (s.dev.evt.retention = none → (d'.src (288 + k.val)).pend = true) ∧
        d'.shape.stackCap = s.dev.shape.stackCap.mapIdx (fun i c => if i = k.val then c - chanBytes else c)) ∧
    (∀ l, lossOf s.dev k.val x.val = some l → l.phase = 0 →
      s.dev.losses.find? (fun q => q.stack / 3 == k.val / 3 && q.phase == 0) = some l → s.dev.moves = [] →
      (∀ p ∈ liveHomes s.dev, p.2.tier = 1 → inBand l p.2 = false) →
      ∃ d' m, exec (.channelCut k x) s = .next { s with dev := d' } ∧ lossOf d' k.val x.val = some m ∧ m.phase = 1 ∧
        ∀ a, rdByte d' a = if dieBase (k.val / 3) + populatedBytes d' (k.val / 3) ≤ a ∧
            a < dieBase (k.val / 3) + populatedBytes d' (k.val / 3) + chanBytes then 0 else rdByte s.dev a) ∧
    (∀ l, lossOf s.dev k.val x.val = some l → l.phase = 1 →
      ∃ d' m, exec (.relocateDone k x) s = .next { s with dev := d' } ∧ lossOf d' k.val x.val = some m ∧ m.phase = 2 ∧
        { d' with losses := s.dev.losses, reloc := s.dev.reloc } = s.dev) ∧
    (∀ l kib (holdup : BitVec 10), lossOf s.dev k.val x.val = some l → l.phase = 2 → l.parity = none →
      96 + 6 * kib ≤ 10 * holdup.toNat →
      ∃ d' m, exec (.reformDone k x kib holdup) s = .next { s with dev := d' } ∧ lossOf d' k.val x.val = some m ∧ m.phase = 3 ∧
        (d'.chan k.val l.chan).state = 4 ∧ d'.ledger.commits = s.dev.ledger.commits + 1 ∧ d'.mem = s.dev.mem) ∧
    (s.dev.repair.step = 0 → s.dev.host.test = none → (s.dev.chan k.val x.val).state = 2 → isOut s.dev k.val x.val = false →
      ∃ d', exec (.channelDrainEnd k x) s = .next { s with dev := d' } ∧ { d' with stks := s.dev.stks } = s.dev ∧
        x.val ∈ (d'.stk k.val).resilver ∧ (d'.stk k.val).chans = (s.dev.stk k.val).chans ∧
        ∀ j, j ≠ k.val → d'.stk j = s.dev.stk j) ∧
    (s.dev.host.test = none → x.val ∈ (s.dev.stk k.val).resilver →
      ∃ d', exec (.resilverDone k x) s = .next { s with dev := d' } ∧ (d'.chan k.val x.val).state = 0 ∧
        x.val ∉ (d'.stk k.val).resilver ∧ (s.dev.evt.retention = none → (d'.src (288 + k.val)).pend = true) ∧ d'.mem = s.dev.mem) ∧
    (∀ kept, s.dev.fabric.state ≠ 2 →
      ∃ d', exec (.stackTraining [] kept) s = .next { s with dev := d' } ∧ d'.fabric.stacksReady = true ∧
        (∀ j, d'.stk j = if j < 12 then { s.dev.stk j with trained := true } else s.dev.stk j) ∧ d'.losses = s.dev.losses ∧
        (kept = true → d'.mem = s.dev.mem ∧ d'.badBlocks = s.dev.badBlocks) ∧
        (kept = false → d'.badBlocks = [] ∧ ∀ a, rdByte d' a = if isStack a then 0 else rdByte s.dev a))

/-- REPAIR_STACK, REPAIR_STEP_DONE and REPAIR_JOURNAL_RESOLVE (R262, R264 to R266, R361, R422): a repair of a channel in service
drains it and commits its first journal record, or is refused with BUSY; each step ends with the next one, or ends the repair
with the result word of R264; where a record cannot be committed it ends with HOLDUP_LOW; one cut short goes no further; at
restart the latest journal record of an unfinished repair decides, and it is rolled back or completed. -/
def Obligations.ChannelsAreRepaired : Prop :=
  ∀ (s : State) (kib : Nat) (holdup : BitVec 10), (s.dev.till mgmtTill).cur ≠ none →
    (∀ (k : StackId) (x : ChanId), executing s.dev mgmtTill 0x0022 = true → s.dev.repair.step = 0 → isOut s.dev k.val x.val = false →
      ((s.dev.chan k.val x.val).state = 0 → drainRefused s.dev k.val x.val = false →
        (∀ p, partnerOf x.val = some p → drainRefused s.dev k.val p = false) →
        (96 + 6 * kib ≤ 10 * holdup.toNat → ∃ d', exec (.repairStack k x kib holdup) s = .next { s with dev := d' } ∧
          d'.repair.step = 1 ∧ d'.repair.stack = k.val ∧
          d'.repair.chan = x.val ∧ (d'.chan k.val x.val).state = 2 ∧ d'.mem = s.dev.mem ∧ d'.tills = s.dev.tills ∧
          ∃ j, d'.repair.journal = s.dev.repair.journal ++ s.dev.repair.unwritten ++ [j] ∧
            j.stack = k.val ∧ j.chan = x.val ∧ j.step = 1 ∧ j.phase = 0 ∧ j.sequence = s.dev.repair.sequence + 1) ∧
        (10 * holdup.toNat < 96 + 6 * kib → ∃ d', exec (.repairStack k x kib holdup) s = .next { s with dev := d' } ∧
          Finished mgmtTill .holdupLow none none s.dev d' ∧ d'.repair = s.dev.repair ∧ d'.stks = s.dev.stks)) ∧
      ((s.dev.chan k.val x.val).state ≠ 0 ∨ drainRefused s.dev k.val x.val = true →
        ∃ d', exec (.repairStack k x kib holdup) s = .next { s with dev := d' } ∧ Finished mgmtTill .busy none none s.dev d' ∧
          d'.repair = s.dev.repair ∧ d'.stks = s.dev.stks)) ∧
    (∀ r : TasteResult, s.dev.repair.step = 0 ∨ s.dev.repair.cut = true → exec (.repairStepDone r kib holdup) s = .next s) ∧
    (∀ r : TasteResult, s.dev.repair.step ≠ 0 → s.dev.repair.cut = false → 10 * holdup.toNat < 96 + 6 * kib →
      (s.dev.repair.step = 2 → isOut s.dev s.dev.repair.stack s.dev.repair.chan = true) →
      (∃ j, s.dev.repair.journal.getLast? = some j ∧ j.stack = s.dev.repair.stack ∧ j.chan = s.dev.repair.chan ∧ j.phase = 0 ∧
        3 ≤ j.step) →
      ∃ d', exec (.repairStepDone r kib holdup) s = .next { s with dev := d' } ∧ d'.repair.step = 0 ∧ d'.repair.rolled = true ∧
        Finished mgmtTill .holdupLow none none s.dev d' ∧ (d'.chan s.dev.repair.stack s.dev.repair.chan).state = 4 ∧
        d'.mem = s.dev.mem) ∧
    (∀ r : TasteResult, s.dev.repair.cut = false → 96 + 6 * kib ≤ 10 * holdup.toNat → (let p := s.dev.repair
      let old := s.dev.chan p.stack p.chan
      (p.step = 1 → ∃ d', exec (.repairStepDone r kib holdup) s = .next { s with dev := d' } ∧ d'.repair.step = 2 ∧ d'.mem = s.dev.mem) ∧
      (p.step = 2 → isOut s.dev p.stack p.chan = true →
        ∃ d', exec (.repairStepDone r kib holdup) s = .next { s with dev := d' } ∧ d'.repair.step = 3 ∧
          d'.chan p.stack p.chan = { old with state := 3 } ∧ d'.mem = s.dev.mem) ∧
      (p.step = 3 → r.rows ≤ old.rowsLeft → r.cols ≤ old.colsLeft →
        ∃ d', exec (.repairStepDone r kib holdup) s = .next { s with dev := d' } ∧ d'.repair.step = 4 ∧ d'.repair.needRows = r.rows ∧
          d'.repair.needCols = r.cols ∧ d'.chan p.stack p.chan = { old with state := 5 } ∧ d'.mem = s.dev.mem) ∧
      (p.step = 3 → old.rowsLeft < r.rows ∨ old.colsLeft < r.cols →
        ∃ d', exec (.repairStepDone r kib holdup) s = .next { s with dev := d' } ∧ d'.repair.step = 0 ∧ d'.repair.repaired = false ∧
          Finished mgmtTill .ok none (some (2 ^ 8 * (p.rows % 256) + 2 ^ 16 * (p.cols % 256) + 2 ^ 24 * 3)) s.dev d' ∧
          (d'.chan p.stack p.chan).state = 4) ∧
      (p.step = 4 → ∃ d', exec (.repairStepDone r kib holdup) s = .next { s with dev := d' } ∧ d'.repair.step = 5 ∧
        d'.repair.rows = p.needRows ∧ d'.repair.cols = p.needCols ∧ d'.chan p.stack p.chan = { old with
          state := 3, rowsLeft := old.rowsLeft - p.needRows, colsLeft := old.colsLeft - p.needCols }) ∧
      (p.step = 5 → r.pass = true → ∃ d', exec (.repairStepDone r kib holdup) s = .next { s with dev := d' } ∧ d'.repair.step = 6 ∧
        d'.chan p.stack p.chan = { old with state := 5 }) ∧
      (p.step = 5 → r.pass = false → ∃ d', exec (.repairStepDone r kib holdup) s = .next { s with dev := d' } ∧ d'.repair.step = 0 ∧
        Finished mgmtTill .ok none (some (2 ^ 8 * (p.rows % 256) + 2 ^ 16 * (p.cols % 256) + 2 ^ 24 * 5)) s.dev d' ∧
        (d'.chan p.stack p.chan).state = 4) ∧
      (p.step = 6 → ∃ d', exec (.repairStepDone r kib holdup) s = .next { s with dev := d' } ∧ d'.repair.step = 0 ∧
        d'.repair.repaired = true ∧ (d'.chan p.stack p.chan).state = 0 ∧
        Finished mgmtTill .ok none (some (1 + 2 ^ 8 * (p.rows % 256) + 2 ^ 16 * (p.cols % 256) + 2 ^ 24 * 6)) s.dev d'))) ∧
    (∀ kept, (∀ j, s.dev.repair.journal.getLast? = some j → j.phase = 2) →
      exec (.repairJournalResolve kept kib holdup) s = .next s) ∧
    (∀ kept j, s.dev.repair.journal.getLast? = some j → j.phase = 0 → 3 ≤ j.step →
      ∃ d', exec (.repairJournalResolve kept kib holdup) s = .next { s with dev := d' } ∧ d'.repair.step = 0 ∧
        d'.repair.rolled = true ∧ d'.repair.repaired = false ∧ d'.repair.cut = false ∧ (d'.chan j.stack j.chan).state = 4 ∧ d'.mem = s.dev.mem)

/-- SELF_TEST, TASTE_CHANNEL and what ends them (R263, R375 to R377, R469): a test starts in an idle window, or is deferred; a
form outside R375 is BAD_PARAM; one deferred starts when its moment comes, or ends with BUSY; its result word is that of R375 or
R263, a core that fails is retired, a tasted channel is resilvered; with no packet's test it ends the test of a die that was
reset. -/
def Obligations.TestsRun : Prop :=
  ∀ (s : State),
    (∀ (scope : BitVec 8) (index : BitVec 16), executing s.dev mgmtTill 0x0020 = true → s.dev.host.test = none →
      (selfTestOk scope.toNat index.toNat = false →
        ∃ d', exec (.selfTest scope index) s = .next { s with dev := d' } ∧ Finished mgmtTill .badParam none none s.dev d' ∧
          d'.host.test = none) ∧
      (selfTestOk scope.toNat index.toNat = true → 1 ≤ scope.toNat → scope.toNat ≤ 3 →
        (idleWindow s.dev = true → ∃ d', exec (.selfTest scope index) s = .next { s with dev := d' } ∧
          d'.host.test = some { scope := scope.toNat, index := index.toNat, running := true, window := true } ∧
          (d'.till mgmtTill).cur = (s.dev.till mgmtTill).cur ∧ { d' with host := s.dev.host, tills := s.dev.tills } = s.dev) ∧
        (idleWindow s.dev = false → ∃ d', exec (.selfTest scope index) s = .next { s with dev := d' } ∧ Deferred mgmtTill s.dev d' ∧
          d'.host.test = some { scope := scope.toNat, index := index.toNat }))) ∧
    (∀ (k : StackId) (x : ChanId) (pattern : BitVec 8), executing s.dev mgmtTill 0x0021 = true → s.dev.host.test = none →
      (let j : TestJob := { scope := 6, index := 256 * k.val + x.val, pattern := pattern.toNat }
       (6 < pattern.toNat → ∃ d', exec (.tasteChannel k x pattern) s = .next { s with dev := d' } ∧
         Finished mgmtTill .badParam none none s.dev d' ∧ d'.stks = s.dev.stks) ∧
       (pattern.toNat ≤ 6 → testMay s.dev j = true → ∃ d', exec (.tasteChannel k x pattern) s = .next { s with dev := d' } ∧
         d'.host.test = some { j with running := true, window := idleWindow s.dev } ∧ (d'.chan k.val x.val).state = 3 ∧
         (d'.stk k.val).tasteRunning = true ∧ (d'.stk k.val).tasteChan = x.val ∧ (d'.stk k.val).tastePattern = pattern.toNat ∧
         d'.mem = s.dev.mem) ∧
       (pattern.toNat ≤ 6 → testMay s.dev j = false → ∃ d', exec (.tasteChannel k x pattern) s = .next { s with dev := d' } ∧
         Deferred mgmtTill s.dev d' ∧ d'.host.test = some j ∧ d'.stks = s.dev.stks))) ∧
    (∀ j, s.dev.host.test = some j → j.running = false → (s.dev.till mgmtTill).cur ≠ none →
      (testMay s.dev j = true → ∃ d', exec .testStart s = .next { s with dev := d' } ∧ (d'.till mgmtTill).deferred = false ∧
        d'.host.test = some { j with running := true, window := idleWindow s.dev } ∧ d'.mem = s.dev.mem) ∧
      (∃ d' n, exec .testDeferExpiry s = .next { s with dev := d' } ∧ 1 ≤ n ∧ n ≤ 4 ∧ (j.scope = 1 → n = 1) ∧
        Finished mgmtTill .busy (some n) none s.dev d' ∧ d'.host.test = none ∧ d'.stks = s.dev.stks ∧ d'.clusters = s.dev.clusters)) ∧
    (∀ (k : StackId) (x : ChanId) j (r : TasteResult), s.dev.host.test = some j → j.running = true → j.scope = 6 →
      j.index = 256 * k.val + x.val → (s.dev.stk k.val).tasteRunning = true → (s.dev.till mgmtTill).cur ≠ none →
      ∃ d', exec (.tasteDone k r) s = .next { s with dev := d' } ∧ (d'.stk k.val).tasteRunning = false ∧
        (d'.stk k.val).tastePass = r.pass ∧ (d'.stk k.val).tasteFirst = r.first ∧ d'.mem = s.dev.mem ∧
        (isOut s.dev k.val x.val = true → Finished mgmtTill .ok none (some (b2n r.pass + 2 * (r.failing % 2 ^ 23))) s.dev d' ∧
          d'.host.test = none ∧ (d'.chan k.val x.val).state = 4) ∧
        (isOut s.dev k.val x.val = false → d'.host.test = some { j with failing := r.failing } ∧
          (d'.chan k.val x.val).state = 2 ∧ x.val ∈ (d'.stk k.val).resilver)) ∧
    (∀ j (c : CoreId), s.dev.host.test = some j → j.running = true → j.scope = 0 → j.index = c.val →
      (s.dev.till mgmtTill).cur ≠ none → (s.dev.cluster (c.val / 9)).retired.getLsbD (c.val % 9) = false →
      (∃ d', exec (.selfTestDone [] 0) s = .next { s with dev := d' } ∧ Finished mgmtTill .ok none (some 3) s.dev d' ∧
        d'.host.test = none ∧ d'.clusters = s.dev.clusters) ∧
      (∃ d', exec (.selfTestDone [c] 0) s = .next { s with dev := d' } ∧ Finished mgmtTill .ok none (some (2 + 512)) s.dev d' ∧
        d'.host.test = none ∧ (d'.cluster (c.val / 9)).retired.getLsbD (c.val % 9) = true)) ∧
    (∀ x : DieId, s.dev.host.test = none → s.dev.awning.tripped = false → s.dev.pwr.asleep = 0 →
      Tab.get false s.dev.pwr.dieDown x.val = true → (∀ y : DieId, y < x → Tab.get false s.dev.pwr.dieDown y.val = false) →
      ∃ d', exec (.selfTestDone [] 0) s = .next { s with dev := d' } ∧ { d' with pwr := s.dev.pwr, stks := s.dev.stks } = s.dev ∧
        Tab.get false d'.pwr.dieDown x.val = false ∧ (∀ i, i < 3 → (d'.stk (3 * x.val + i)).refresh = false) ∧
        d'.pwr.locked.getLsbD (1 + x.val) = true ∧ d'.pwr.locked.getLsbD (5 + x.val) = true)

/-- MOVE_OBJECT (R283): a stale handle, a compiler-placed or an SRAM object, a die other than a spread quarter's own, a host-
tier move of an object that meets the window are BAD_PARAM; an object that moves already, or a target without room, is BUSY;
otherwise the move waits in the queue, and the packet with it. HINT_PLACEMENT (R281, R283): the hint is held for the context's
object; with APPLY the object is moved as MOVE_OBJECT would; a host-tier hint asks for its feature, and a value past its range
is BAD_PARAM. MOVE_UNIT (R282, R283): one 64 KiB unit of the move at the front is copied and no other byte changes; after the
last unit the descriptor takes the new place, tier and die with its generation counted, and the packet that posted the move is
answered with that generation. -/
def Obligations.ObjectsAreMovedAndPlaced : Prop :=
  (∀ (s : State) (handle : BitVec 64) (tier die : BitVec 8), executing s.dev mgmtTill 0x0010 = true →
     (handleOk s.dev handle.toNat = none →
       ∃ d', exec (.moveObject handle tier die) s = .next { s with dev := d' } ∧ Finished mgmtTill .badParam none none s.dev d' ∧
         OnlyAnswer s.dev d') ∧
     (∀ i x, handleOk s.dev handle.toNat = some i →
       (let h := s.dev.home i
        (tier = 1 ∧ die.toNat = x ∧ x < 4 ∨ tier = 2 ∧ die = 0xFF ∧ x = 4) →
        ((h.tier = 0 ∨ h.compiler = true ∨ (h.spread = true ∧ x ≠ h.die) ∨ (x = 4 ∧ meetsWindow s.dev h = true)) →
          ∃ d', exec (.moveObject handle tier die) s = .next { s with dev := d' } ∧ Finished mgmtTill .badParam none none s.dev d' ∧
            OnlyAnswer s.dev d') ∧
        (h.tier ≠ 0 → h.compiler = false → (h.spread = true → x = h.die) → (x = 4 → meetsWindow s.dev h = false) →
          (let room := freePlace s.dev (if x = 4 then none else some x) h.size
           (h.moving = true ∨ room = none →
             ∃ d', exec (.moveObject handle tier die) s = .next { s with dev := d' } ∧ Finished mgmtTill .busy none none s.dev d' ∧
               OnlyAnswer s.dev d') ∧
           (∀ a, h.moving = false → room = some a →
             ∃ d', exec (.moveObject handle tier die) s = .next { s with dev := d' } ∧
               { d' with homes := s.dev.homes, moves := s.dev.moves } = s.dev ∧ (d'.home i).hint = h.hint ∧
               MovePosted i a (if x = 4 then 2 else 1) (if x = 4 then 0 else x) s.dev d')))))) ∧
  (∀ (s : State) (t : CtxId) (context hint : BitVec 8) (number : BitVec 16) (apply : BitVec 8),
     executing s.dev mgmtTill 0x0011 = true → context.toNat = t.val →
     (hint = 5 → agreedBit s.dev 2 = false →
       ∃ d', exec (.hintPlacement context hint number apply) s = .next { s with dev := d' } ∧
         Finished mgmtTill .notNegotiated none none s.dev d' ∧ OnlyAnswer s.dev d') ∧
     (hint.toNat ≠ 5 → 6 ≤ hint.toNat ∨ 1024 ≤ number.toNat ∨ 2 ≤ apply.toNat ∨
         (objectHomes s.dev t.val number.toNat).any (fun p => p.2.compiler) = true →
       ∃ d', exec (.hintPlacement context hint number apply) s = .next { s with dev := d' } ∧
         Finished mgmtTill .badParam none none s.dev d' ∧ OnlyAnswer s.dev d') ∧
     (hint.toNat ≤ 4 → number.toNat < 1024 → apply.toNat ≤ 1 → objectHomes s.dev t.val number.toNat = [] →
       ∃ d', exec (.hintPlacement context hint number apply) s = .next { s with dev := d' } ∧
         Finished mgmtTill .ok none none s.dev d' ∧ Tab.get none (d'.ctx t).hints number.toNat = some hint.toNat ∧
         OnlyCtx t { s.dev with tills := d'.tills, evt := d'.evt, freeIdx := d'.freeIdx } d' ∧
         { d'.ctx t with hints := (s.dev.ctx t).hints } = s.dev.ctx t) ∧
     (∀ i h, 1 ≤ hint.toNat → hint.toNat ≤ 4 → number.toNat < 1024 → Tab.wf ({} : Home) s.dev.homes = true →
       objectHomes s.dev t.val number.toNat = [(i, h)] → h.compiler = false → h.hint ≠ 0 →
       (apply = 0 → ∃ d', exec (.hintPlacement context hint number apply) s = .next { s with dev := d' } ∧
         Finished mgmtTill .ok none none s.dev d' ∧ d'.moves = s.dev.moves ∧ OtherHomes i s.dev d' ∧
         d'.home i = { h with hint := hint.toNat }) ∧
       (∀ a, apply = 1 → h.moving = false → freePlace s.dev (some (hint.toNat - 1)) h.size = some a →
         ∃ d', exec (.hintPlacement context hint number apply) s = .next { s with dev := d' } ∧ d'.tills = s.dev.tills ∧
           d'.mem = s.dev.mem ∧ Tab.get none (d'.ctx t).hints number.toNat = some hint.toNat ∧ (d'.home i).hint = hint.toNat ∧
           MovePosted i a 1 (hint.toNat - 1) s.dev d'))) ∧
  (∀ (s : State),
     (s.dev.moves = [] → s.dev.losses = [] → exec .moveUnit s = .next s) ∧
     (∀ m rest, s.dev.moves = m :: rest → Tab.wf (0 : Byte) s.dev.mem = true →
       (let h := s.dev.home m.index
        let src := h.place + 65536 * h.moved
        let dst := h.toPlace + 65536 * h.moved
        oneRegion src 65536 → oneRegion dst 65536 →
        ∃ d', exec .moveUnit s = .next { s with dev := d' } ∧ OtherHomes m.index s.dev d' ∧
          (∀ a, rdByte d' a = if dst ≤ a ∧ a < dst + 65536 then rdByte s.dev (a - dst + src) else rdByte s.dev a) ∧
          (65536 * (h.moved + 1) < h.size → d'.home m.index = { h with moved := h.moved + 1 } ∧ d'.moves = s.dev.moves ∧
            d'.tills = s.dev.tills) ∧
          (h.size ≤ 65536 * (h.moved + 1) → d'.moves = rest ∧
            d'.home m.index = { h with
              place := h.toPlace, tier := h.toTier, die := h.toDie, gen := h.gen + 1, moving := false, moved := 0, toPlace := 0
              toTier := 0, toDie := 0 } ∧
            (m.posted = false → d'.tills = s.dev.tills) ∧
            (m.posted = true → (s.dev.till mgmtTill).cur ≠ none →
              Finished mgmtTill .ok none (some (h.gen + 1).toNat) s.dev d')))) ∧
     (∀ i a die, s.dev.moves = [] → nextEvac s.dev = some (i, a, die) → 65536 < (s.dev.home i).size →
       ∃ d', exec .moveUnit s = .next { s with dev := d' } ∧ OtherHomes i s.dev d' ∧
         d'.moves = [{ index := i, evac := true, posted := false }] ∧
         d'.home i = { s.dev.home i with moving := true, moved := 1, toPlace := a, toTier := 1, toDie := die }))

/-- COPY, ENCODE, DECODE, RING, LSEND, RXMAX, RSEND and RGATHER issue (R44, R47, R271, R274, R300, R327): a well-formed
operation that meets no stop is begun where its porters have room for its first transfers, with one transfer for each tile step
of each slot; otherwise the sequencers hold for it. RXMAX, RSEND and RGATHER open their reduction (R342). A STANDBY operation is
armed instead (R329). Nothing moves yet. -/
def Obligations.PorterOpsIssue : Prop :=
  ∀ (s : State) (t : CtxId) (o : PtOp) (c : Instr),
    c ∈ [Instr.copy t o, .encode t o, .decode t o, .ring t o, .lsend t o, .rxmax t o, .rsend t o, .rgather t o] →
    c.wellFormed = true → issuing s.dev t = true → replaying s.dev = false → (s.dev.ctx t).srep = none →
    actingSlots s.dev t o.mask.toNat ≠ [] →
    (let is := (actingSlots s.dev t o.mask.toNat).map (issueOf s.dev t o.mask.toNat)
     (∀ i ∈ is, ptStops s.dev c o i = none) → (c = .lsend t o → (lsendDest s.dev o).isSome = true) →
     (isStandby c = false → (∀ i ∈ is, ptSteps s.dev c i ≠ 0) →
       (canAccept s.dev c (actingSlots s.dev t o.mask.toNat) = true →
         ∃ d', exec c s = .next { s with dev := d' } ∧ d'.ptNext = s.dev.ptNext + 1 ∧
           d'.op s.dev.ptNext = some {
             instr := c, ctx := t, token := if o.tokenEn = true then some o.token.toNat else none
             parts := is.map (fun i => { at_ := i, steps := ptSteps s.dev c i }) } ∧
           (∀ n, n ≠ s.dev.ptNext → d'.op n = s.dev.op n) ∧
           { d' with ptOps := s.dev.ptOps, ptNext := s.dev.ptNext, cores := s.dev.cores, lastPorter := s.dev.lastPorter
                     seq := s.dev.seq, red := s.dev.red } = s.dev ∧ d'.red = (openReduction c t o s.dev).red ∧ { d'.seq with tapOn := s.dev.seq.tapOn } = s.dev.seq) ∧
       (canAccept s.dev c (actingSlots s.dev t o.mask.toNat) = false →
         ∃ d', exec c s = .next { s with dev := d' } ∧
           d' = { s.dev with ptHeld := some c, seq := { s.dev.seq with mode := .hold, ptHold := true } })) ∧
     (isStandby c = true → o.tokenEn = false →
       ∃ d', exec c s = .next { s with dev := d' } ∧ { d' with red := s.dev.red } = s.dev ∧
         { d'.redCtx t with armed := (s.dev.redCtx t).armed } = s.dev.redCtx t ∧
         (d'.redCtx t).armed = (s.dev.redCtx t).armed ++
           is.map (fun i => { instr := c, at_ := i, member := o.ext.toNat % 2 ^ 10 }) ∧
         ∀ u, u ≠ t → d'.redCtx u = s.dev.redCtx u))

/-- TRANSFER_ISSUE and TRANSFER_LANDED of a COPY of one FP32 element within the task's windows (R125, R271, R274, R49): the
request is sent once no earlier transfer of the slot waits; when it lands, the four bytes are at the destination and no other
byte changes, the entry is free under its next generation, the operation is over and its token has arrived. A partial write is
listed before it is made (R253, R255): the request of a COPY of one FP32 element to an object in the stacks enters the stripe
line of the block it writes in the table of the line's group; with 64 entries there it waits. The entry falls away as the
transfer lands. -/
def Obligations.CopiesLand : Prop :=
  (∀ (s : State) (core : CoreId) (e : EntryId) (t : CtxId) (o : PtOp) (i : Issue),
     (let x := s.dev.entry core.val e.val
      (x.state ≠ 1 ∨ earlierWaits s.dev x = true → exec (.transferIssue core e) s = .next s) ∧
      (x.state ≠ 2 ∨ x.own ≠ 0 ∨ waitsIntent s.dev core.val e.val = true → ∀ n, exec (.transferLanded core ⟨e, n⟩) s = .next s)) ∧
     (let x := s.dev.entry core.val e.val
      let src := i.base o.baseSrc.toNat
      let dst := i.base o.baseDst.toNat
      s.dev.op x.op = some {
        instr := .copy t o, ctx := t, token := if o.tokenEn = true then some o.token.toNat else none, parts := [{ at_ := i, steps := 1 }] } →
      i.t = t → i.k = x.slot → i.rank < i.n → x.step = 0 → (s.dev.ctx t).theProg.descs[o.ldesc.toNat]? = some oneElem →
      inStore s.dev t x.slot src 4 → inStore s.dev t x.slot dst 4 → s.dev.badSram = [] → s.dev.badBlocks = [] →
      (x.state = 1 → ∃ d', exec (.transferIssue core e) s = .next { s with dev := d' } ∧ OnlyCore core.val s.dev d' ∧
          d'.entry core.val e.val = { x with state := 2 } ∧ ∀ f, f ≠ e.val → d'.entry core.val f = s.dev.entry core.val f) ∧
      (x.state = 2 → inFlight s.dev = [] → x.own = 0 → waitsIntent s.dev core.val e.val = false → barrowsRest s.dev → (s.dev.core core.val).backlog = [] → (s.dev.ctx t).srep = none → (s.dev.ctx t).phase = .running →
        Tab.get 0 (s.dev.ctx t).tokens o.token.toNat < 65535 →
        ∀ n, ∃ d', exec (.transferLanded core ⟨e, n⟩) s = .next { s with dev := d' } ∧ d'.op x.op = none ∧
          d'.entry core.val e.val = { gen := x.gen + 1 } ∧ OnlyTokens t { s.dev with mem := d'.mem, cores := d'.cores, ptOps := d'.ptOps, intent := d'.intent } d' ∧
          (∀ q ∈ d'.intent, ∀ y ∈ q.2, ¬(y.core = core.val ∧ y.entry = e.val)) ∧
          (∀ a, rdByte d' a = if dst ≤ a ∧ a < dst + 4 then rdByte s.dev (a - dst + src) else rdByte s.dev a) ∧
          ∀ tok, Tab.get 0 (d'.ctx t).tokens tok =
            Tab.get 0 (s.dev.ctx t).tokens tok + if o.tokenEn = true ∧ tok = o.token.toNat then 1 else 0))) ∧
  (∀ (s : State) (core : CoreId) (e : EntryId) (t : CtxId) (o : PtOp) (i : Issue) (h : Nat × Home) (p : Nat),
     (let x := s.dev.entry core.val e.val
      let src := i.base o.baseSrc.toNat
      let dst := i.base o.baseDst.toNat
      let at_ := lineOfBlock s.dev (p / 4096 * 4096)
      x.state = 1 → s.dev.op x.op = some {
        instr := .copy t o, ctx := t, token := if o.tokenEn = true then some o.token.toNat else none, parts := [{ at_ := i, steps := 1 }] } →
      i.t = t → i.k = x.slot → i.rank < i.n → x.step = 0 → (s.dev.ctx t).theProg.descs[o.ldesc.toNat]? = some oneElem →
      inStore s.dev t x.slot src 4 → s.dev.badSram = [] → s.dev.badBlocks = [] → p % 4096 ≤ 4092 →
      (∀ j, j < 4 → isName (dst + j) = true ∧ homeAt s.dev (dst + j) = some h ∧ h.2.addr (dst + j - h.2.name) = p + j ∧
        populated s.dev (p + j) = true ∧ isStack (p + j) = true) →
      Tab.wf ([] : List Intent) s.dev.intent = true →
      (∀ q ∈ s.dev.intent, ∀ y ∈ q.2, ¬(y.core = core.val ∧ y.entry = e.val)) →
      ∃ d', exec (.transferIssue core e) s = .next { s with dev := d' } ∧ d'.entry core.val e.val = { x with state := 2 } ∧
        d'.mem = s.dev.mem ∧ d'.ctxs = s.dev.ctxs ∧
        Tab.get [] d'.intent at_.1 = Tab.get [] s.dev.intent at_.1 ++
          [{ core := core.val, entry := e.val, line := at_.2, blocks := [p / 4096 * 4096] }] ∧
        (∀ key, key ≠ at_.1 → Tab.get [] d'.intent key = Tab.get [] s.dev.intent key) ∧
        waitsIntent d' core.val e.val = decide (64 ≤ (Tab.get [] s.dev.intent at_.1).length) ∧
        (64 ≤ (Tab.get [] s.dev.intent at_.1).length → ∀ n, exec (.transferLanded core ⟨e, n⟩) { s with dev := d' } = .next { s with dev := d' })))

/-- COPY, RING, ENCODE and DECODE of one FP32 element within the task's windows run to their end (R121, R183, R271, R274 to
R276): the operation issues, its one transfer is sent and lands, and then the element, its FRC block, or the element decoded
from the block at the source stands at the destination, and no other byte and no context has changed. LSEND, RXMAX, RSEND and
RGATHER run until their packet is on its way (R299, R300, R325 to R328, R330, R338): LSEND of one FP32 element to a package that
can be reached sends its bytes in one packet for the destination address; RXMAX sends the proposals, and RSEND the integers
under the proposals at XBASE, of a tensor of one element to the member that keeps its chunk; RGATHER sends the chunk's image to
the other member of the line. The packet's tag names the slot and the entry. Memory and contexts stay. -/
def Obligations.TransfersComplete : Prop :=
  (∀ (s : State) (t : CtxId) (o : PtOp) (k : SlotId) (core : CoreId) (e : EntryId) (c : Instr) (n : Nat) (out : List Byte),
     (let src := ((s.dev.ctx t).base k.val o.baseSrc.toNat).toNat
      let dst := ((s.dev.ctx t).base k.val o.baseDst.toNat).toNat
      let b := frcWidth o.frc.toNat
      (c, n, out) ∈ [(Instr.copy t o, 4, rdBytes s.dev src 4), (.ring t o, 4, rdBytes s.dev src 4),
        (.encode t o, 4, frcRun b [wordAt s.dev src]),
        (.decode t o, 8 * b, leBytes 4 (Fmt.fp32.encode true ((frcUnrun b 1 (rdBytes s.dev src (8 * b))).headD .zero)))] →
      c.wellFormed = true → o.tokenEn = false → OnOneEntry s.dev t o k core e oneElem → inStore s.dev t k.val src n →
      inStore s.dev t k.val dst out.length → (c = .ring t o → apart src dst) →
      ∃ d2 d3, SendsAs c core e s d2 ∧ d2.mem = s.dev.mem ∧ exec (.transferLanded core ⟨e, 0⟩) { s with dev := d2 } = .next { s with dev := d3 } ∧
        d3.op s.dev.ptNext = none ∧ d3.ctxs = s.dev.ctxs ∧
        ∀ a, rdByte d3 a = if dst ≤ a ∧ a < dst + out.length then out.getD (a - dst) 0 else rdByte s.dev a)) ∧
  (∀ (s : State) (t : CtxId) (o : PtOp) (k : SlotId) (core : CoreId) (e : EntryId), o.tokenEn = false →
     (let src := ((s.dev.ctx t).base k.val o.baseSrc.toNat).toNat
      let dst := ((s.dev.ctx t).base k.val o.baseDst.toNat).toNat
      let gen := (s.dev.entry core.val e.val).gen
      let sends := fun (c : Instr) (p : OutPkt) => ∃ d2 port, SendsAs c core e s d2 ∧
        d2.fabric.outbox = s.dev.fabric.outbox ++ [{ p with port := port }] ∧ d2.mem = s.dev.mem ∧ d2.ctxs = s.dev.ctxs ∧
        d2.entry core.val e.val = { s.dev.entry core.val e.val with
          state := 2, ctx := t.val, op := s.dev.ptNext, slot := k.val, step := 0, packets := 1, tokenSent := false, own := 0 }
      (∀ dest, (Instr.lsend t o).wellFormed = true → OnOneEntry s.dev t o k core e oneElem → lsendDest s.dev o = some dest →
        dest ≠ s.dev.shape.coord → reachable s.dev dest = true → inStore s.dev t k.val src 4 → dst % 4096 ≤ 4092 →
        sends (.lsend t o) { port := none, kind := 0, link := { headerOf s.dev t k.val e.val gen dest with
          addr := BitVec.ofNat 48 dst, payload := rdBytes s.dev src 4 } }) ∧
      (let red := o.oparg.toNat % 2 ^ 11
       let x := redDesc s.dev t red
       let l := (s.dev.redCtx t).layout
       let sent := fun (mode : Nat) (dest : Nat × Nat × Nat) (q : RedPacket) => ({ port := none, kind := 3, mode := mode, red := some q, link := { headerOf s.dev t k.val e.val gen dest with
         addr := BitVec.ofNat 48 (red + 2 ^ 38 * mode), payload := redPayload mode q } } : OutPkt)
       let header := { redHeader s.dev t red 0 0 with tagSlot := k, tagEntry := BitVec.ofNat 9 e.val, tagGen := gen }
       (∀ dim rest, OnOneEntry s.dev t o k core e oneElem → inStore s.dev t k.val src 4 → x.elements = 1 →
         l.member s.dev.shape.coord = true → l.stages = dim :: rest →
         (let me := l.rank s.dev.shape.coord dim
          let keep := l.keeper s.dev.shape.coord 1 0 0
          let dest := l.onLine s.dev.shape.coord dim keep
          let v := wordAt s.dev src :: List.replicate 767 .zero
          let scales := (List.range 24).map (fun b => ptByte s.dev (x.xbase + b))
          let ints := (chunkInts v scales s.dev).1
          keep ≠ me → reachable s.dev dest = true → o.oparg.getLsbD 11 = false →
          ((Instr.rxmax t o).wellFormed = true →
            sends (.rxmax t o) (sent 1 dest { header with rank := me, data := chunkProposals v })) ∧
          ((Instr.rsend t o).wellFormed = true →
            sends (.rsend t o) (sent 0 dest { header with rank := me, tally := tallyOf ints, elems := ints, scales := scales })))) ∧
       (∀ dim y, (Instr.rgather t o).wellFormed = true → OnOneEntry s.dev t o k core e y → x.elements = 1 → l.stages = [dim] →
         (l.members_ dim).length = 2 → l.rank s.dev.shape.coord dim = 0 → l.member s.dev.shape.coord = true →
         slotRange l s.dev.shape.coord x k.val = (0, 1) → gatherStop s.dev t x [0] = none →
         (let dest := l.onLine s.dev.shape.coord dim 1
          reachable s.dev dest = true →
          sends (.rgather t o) (sent 2 dest { header with data := chunkImage s.dev x 0 }))))))

/-- TRANSFER_FAULT, HOST_TIMEOUT, RESPONSE_DISCARD and CANCEL_COMPLETE (R271, R286 to R288): a failure of a cancelled transfer,
or a response of another generation, is discarded and counted; one of an issued host-tier transfer aborts its task with
PREFETCH_FAULT, its slot and its cause; the writes already accepted complete, and Release frees the cancelled entries of the
task under their next generation and is counted. -/
def Obligations.TransfersFail : Prop :=
  ∀ (s : State) (c : CoreId) (e : EntryId),
    (let x := s.dev.entry c.val e.val
     let drop := fun (d' : Dev) => OnlyCore c.val s.dev d' ∧
       d'.core c.val = { s.dev.core c.val with discarded := (s.dev.core c.val).discarded + 1 }
     (∀ gen, (x.gen = gen → exec (.responseDiscard c e gen) s = .next s) ∧
       (x.gen ≠ gen → ∃ d', exec (.responseDiscard c e gen) s = .next { s with dev := d' } ∧ drop d')) ∧
     (x.state ≠ 2 → exec (.hostTimeout c e) s = .next s) ∧
     (∀ poisoned, (x.state = 0 ∨ x.state = 1 → exec (.transferFault c e poisoned) s = .next s) ∧
       (x.state = 3 → ∃ d', exec (.transferFault c e poisoned) s = .next { s with dev := d' } ∧ drop d')) ∧
     (∀ r p a, x.state = 2 → x.own = 0 → s.dev.op x.op = some r → r.part x.slot = some p → hostAddr s.dev x r p = some a →
       (s.dev.ctx r.ctx).started = true → (s.dev.ctx r.ctx).abort = none → endIssued s.dev r.ctx = false → s.dev.seq.dispatch ≠ some r.ctx →
       (let detail := fun (cause : Nat) => p.at_.pc % 65536 + 2 ^ 16 * (x.slot % 128) + 2 ^ 23 * cause
        (∀ poisoned, ∃ d', exec (.transferFault c e poisoned) s = .next { s with dev := d' } ∧
          Aborted r.ctx .prefetchFault (detail (if poisoned = true then 3 else 2)) s.dev d') ∧
        ∃ d', exec (.hostTimeout c e) s = .next { s with dev := d' } ∧ Aborted r.ctx .prefetchFault (detail 4) s.dev d'))) ∧
    (∀ t : CtxId, Tab.wf ({} : Core) s.dev.cores = true → (∀ k, Tab.wf ({} : Entry) (s.dev.core k).entries = true) →
      ∃ d', exec (.cancelComplete t) s = .next { s with dev := d' } ∧
        { d' with cores := s.dev.cores, intent := s.dev.intent, drains := s.dev.drains, mem := s.dev.mem, ctxs := s.dev.ctxs
                  freeIdx := s.dev.freeIdx, badSram := s.dev.badSram, badBlocks := s.dev.badBlocks } = s.dev ∧
        ((∀ x ∈ s.dev.drains, x.was.ctx ≠ t.val) → d'.mem = s.dev.mem ∧ d'.ctxs = s.dev.ctxs ∧ d'.badSram = s.dev.badSram ∧
          d'.badBlocks = s.dev.badBlocks) ∧
        d'.drains = s.dev.drains.filter (fun x => x.was.ctx ≠ t.val) ∧
        (∀ k, (s.dev.core k).cancelling ≠ some t → { d'.core k with writtenBytes := (s.dev.core k).writtenBytes } = s.dev.core k) ∧
        ∀ k, (s.dev.core k).cancelling = some t → (d'.core k).cancelling = none ∧ (d'.core k).cancels = (s.dev.core k).cancels + 1 ∧
          ((s.dev.core k).backlog = [] → ∀ f, d'.entry k f =
            if (s.dev.entry k f).state = 3 ∧ (s.dev.entry k f).ctx = t.val then { gen := (s.dev.entry k f).gen + 1 }
            else s.dev.entry k f))

/-- FLIT_RECEIVE and FLIT_NAK (R293, R294): a flit that fails its CRC, or comes out of order, is answered with NAK and not
accepted; one accepted before is dropped; the flit expected is accepted, and its ACK frees what the peer has received. A NAK
resends from its flit and is counted; the eighth replay of one flit in a row takes the port down. LANE_FAIL and LANE_SWAP_DONE
(R295, R296, R314): a first failure starts a swap, one during a swap waits for it, one at half width takes the port down; the
swap ends at full width on the spare, or at half width where the spare was used, and a lane that failed meanwhile is then dealt
with. PORT_DOWN, PORT_RETRAIN_TIMER, LINK_RETRAIN and LINK_TRAINING_DONE (R296, R303, R308, R310, R315): a port that goes down
is recorded and its line is told; a port that may train trains again, on its own or when ordered, also one that was refused; the
order waits for the die's crier (R412); training that the spare can complete goes on to the identity exchange. -/
def Obligations.PortsCarryFlits : Prop :=
  (∀ (s : State) (p : PortId) (seq ack credit : BitVec 12) (payload : List Byte),
     (let x := s.dev.port p.val
      let got := fun (y : Port) => { y with
        retry := y.retry.filter (fun q => decide (2048 ≤ (ack.toNat + 4096 - q) % 4096)), credits := y.credits + credit.toNat
        replaySeq := none }
      (portRuns s.dev p.val = false → ∀ nak ok, exec (.flitReceive p seq ack nak credit payload ok) s = .next s) ∧
      (portRuns s.dev p.val = true → x.replaySeq = none →
        (∀ r, x.rxSeq = some r → r < 4096 →
          (let e := (r + 1) % 4096
           (∀ nak, ∃ d', exec (.flitReceive p seq ack nak credit payload false) s = .next { s with dev := d' } ∧ OnlyPort p.val s.dev d' ∧
             d'.port p.val = { x with flitReplies := x.flitReplies ++ [(e, true)] }) ∧
           (∃ d', exec (.flitReceive p seq ack false credit payload true) s = .next { s with dev := d' } ∧ OnlyPort p.val s.dev d' ∧
             (seq.toNat = e → d'.port p.val = { got x with rxSeq := some e, flitReplies := x.flitReplies ++ [(e, false)] }) ∧
             (seq.toNat ≠ e → (r + 4096 - seq.toNat) % 4096 < 2048 → d'.port p.val = got x) ∧
             (seq.toNat ≠ e → 2048 ≤ (r + 4096 - seq.toNat) % 4096 →
               d'.port p.val = { got x with flitReplies := x.flitReplies ++ [(e, true)] })))) ∧
        (x.rxSeq = none →
          ∃ d', exec (.flitReceive p seq ack false credit payload true) s = .next { s with dev := d' } ∧ OnlyPort p.val s.dev d' ∧
            d'.port p.val = { got x with rxSeq := some seq.toNat, flitReplies := x.flitReplies ++ [(seq.toNat, false)] })) ∧
      (portRuns s.dev p.val = false ∨ seq.toNat ∉ x.retry → exec (.flitNak p seq) s = .next s) ∧
      (portRuns s.dev p.val = true → seq.toNat ∈ x.retry →
        (x.replaySeq ≠ some seq.toNat ∨ x.replayRuns < 7 →
          ∃ d', exec (.flitNak p seq) s = .next { s with dev := d' } ∧ OnlyPort p.val s.dev d' ∧ d'.port p.val = { x with
            replays := min (x.replays + 1) 65535, replaySeq := some seq.toNat
            replayRuns := if x.replaySeq = some seq.toNat then x.replayRuns + 1 else 1 }) ∧
        (x.replaySeq = some seq.toNat → 7 ≤ x.replayRuns →
          ∃ d', exec (.flitNak p seq) s = .next { s with dev := d' } ∧ PortIsDown p.val s.dev d')))) ∧
  (∀ (s : State) (p : PortId), (let x := s.dev.port p.val
     (∀ lane : Fin 11,
       (x.state = 4 → ∃ d', exec (.laneFail p lane) s = .next { s with dev := d' } ∧ OnlyPort p.val s.dev d' ∧
         d'.port p.val = { x with state := 6, lane := some lane.val, second := none }) ∧
       (x.state = 5 → ∃ d', exec (.laneFail p lane) s = .next { s with dev := d' } ∧ PortIsDown p.val s.dev d') ∧
       (x.state = 6 → ∃ d', exec (.laneFail p lane) s = .next { s with dev := d' } ∧ OnlyPort p.val s.dev d' ∧
         d'.port p.val = { x with second := some lane.val }) ∧
       (x.state ≠ 4 → x.state ≠ 5 → x.state ≠ 6 → exec (.laneFail p lane) s = .next s)) ∧
     (x.state ≠ 6 → exec (.laneSwapDone p) s = .next s) ∧
     (x.state = 6 →
       (let after : Port := { x with
          spareUsed := true, swaps := min (x.swaps + 1) 255, lane := none, second := none
          state := if x.spareUsed = true then 5 else 4, lanes := if x.spareUsed = true then 5 else 10 }
        (x.second = none →
          ∃ d', exec (.laneSwapDone p) s = .next { s with dev := d' } ∧ Recorded 5 3 (if x.spareUsed = true then 9 else 8) s.dev d' ∧
            d'.port p.val = after ∧ (∀ q, q ≠ p.val → d'.port q = s.dev.port q) ∧ d'.mem = s.dev.mem ∧ d'.fabric = s.dev.fabric) ∧
        (∀ lane, x.second = some lane → x.spareUsed = false →
          ∃ d', exec (.laneSwapDone p) s = .next { s with dev := d' } ∧ Recorded 5 3 8 s.dev d' ∧
            d'.port p.val = { after with state := 6, lane := some lane }) ∧
        (∀ lane, x.second = some lane → x.spareUsed = true →
          ∃ d', exec (.laneSwapDone p) s = .next { s with dev := d' } ∧ PortIsDown p.val s.dev d'))))) ∧
  (∀ (s : State) (p : PortId), (let x := s.dev.port p.val
     (x.state = 0 ∨ x.state = 7 → exec (.portDown p) s = .next s) ∧
     (x.state ≠ 0 → x.state ≠ 7 →
       ∃ d', exec (.portDown p) s = .next { s with dev := d' } ∧ PortIsDown p.val s.dev d' ∧
         ∀ l, portRuns s.dev p.val = true → lineOf s.dev p.val = some l → Flooded (.down l) s.dev d' ∧ Recorded 6 3 10 s.dev d' ∧
           (linksTo d' l.dim.val (wireOf s.dev p.val).off = [] → l ∈ d'.fabric.down)) ∧
     (x.state = 0 → trainable s.dev p.val = true →
       ∃ d', exec (.portRetrainTimer p) s = .next { s with dev := d' } ∧ OnlyPort p.val s.dev d' ∧
         d'.port p.val = { x with state := 1, lanes := 0 }) ∧
     (x.state ≠ 0 ∨ trainable s.dev p.val = false → exec (.portRetrainTimer p) s = .next s) ∧
     (∀ c, leads s.dev c = true → dieCrierRuns s.dev (p.val / 6) = false →
       exec (.linkRetrain (.crier c) p) s =
         .next { s with dev := { s.dev with waiting := s.dev.waiting ++ [(p.val / 6, .linkRetrain (.crier c) p)] } }) ∧
     (∀ c, leads s.dev c = true → dieCrierRuns s.dev (p.val / 6) = true →
       ∃ d', exec (.linkRetrain (.crier c) p) s = .next { s with dev := d' } ∧ d'.mem = s.dev.mem ∧
         (d'.port p.val).state = (if trainable s.dev p.val = true then 1 else 0) ∧
         ∀ q, q ≠ p.val → (d'.port q).state = (s.dev.port q).state) ∧
     (exec (.linkRetrain .host p) s = .next { s with dev := { s.dev with logged := s.dev.logged + 1 } }) ∧
     (x.state = 1 → trainable s.dev p.val = true →
       (∃ d', exec (.linkTrainingDone p 0) s = .next { s with dev := d' } ∧ OnlyPort p.val s.dev d' ∧
         d'.port p.val = { x with state := 2, lanes := 0 }) ∧
       (∃ d', exec (.linkTrainingDone p 1) s = .next { s with dev := d' } ∧ OnlyPort p.val s.dev d' ∧ d'.port p.val =
         if x.spareUsed = true then { x with state := 0, lanes := 0 } else { x with state := 2, lanes := 0, spareUsed := true }) ∧
       (∀ n, 2 ≤ n → ∃ d', exec (.linkTrainingDone p n) s = .next { s with dev := d' } ∧ OnlyPort p.val s.dev d' ∧
         d'.port p.val = { x with state := 0, lanes := 0 }))))

/-- LINK_DOWN_NOTICE, PORT_RETURN_NOTICE, ABSENT_NOTICE and LEAVE_NOTICE (R303, R306, R313): a line is known to be down, or
known no more; a package that is absent or has left is no longer present, no packet for it stays to be sent, and a task whose
packet it was, and whose END has not issued, aborts with PREFETCH_FAULT cause 6 at the bundle of the operation whose transfer it
was. FABRIC_LEAVE, LEAVE_FORWARD_END and FABRIC_RESOLVE (R307, R309, R313, R314, R372): only the leading complex may order the
leave, which is told; when forwarding ends the ports are down; a resolve, from the host too, adopts the table written: an
invalid one, or one in which the package does not find itself once, leaves no port in service. -/
def Obligations.NoticesReachTheTask : Prop :=
  (∀ (s : State),
     (∀ l, ∃ d', exec (.linkDownNotice l) s = .next { s with dev := d' } ∧ d'.mem = s.dev.mem ∧ l ∈ d'.fabric.down ∧
       (∀ m ∈ s.dev.fabric.down, m ∈ d'.fabric.down) ∧
       (s.dev.fabric.outbox = [] → d'.ctxs = s.dev.ctxs ∧ d'.ports = s.dev.ports)) ∧
     (∀ l, ∃ d', exec (.portReturnNotice l) s = .next { s with dev := d' } ∧ { d' with fabric := s.dev.fabric } = s.dev ∧
       { d'.fabric with down := s.dev.fabric.down } = s.dev.fabric ∧
       ∀ m, m ∈ d'.fabric.down ↔ m ∈ s.dev.fabric.down ∧ ¬sameLine m l) ∧
     (∀ (c : Nat × Nat × Nat) (i : Instr), i = .absentNotice c ∨ i = .leaveNotice c →
       (let j := coordIndex s.dev.fabric.table c
        (∃ d', exec i s = .next { s with dev := d' } ∧ d'.mem = s.dev.mem ∧ j ∈ d'.fabric.absent ∧
          (j ∉ s.dev.fabric.absent → j ∉ d'.fabric.present) ∧ (∀ m, m ≠ j → (m ∈ d'.fabric.present ↔ m ∈ s.dev.fabric.present)) ∧
          (∀ k ∈ d'.fabric.outbox, coordIndex s.dev.fabric.table k.link.dest ≠ j) ∧
          (s.dev.fabric.outbox = [] → d'.ctxs = s.dev.ctxs ∧ d'.ports = s.dev.ports)) ∧
        (∀ k, s.dev.fabric.outbox = [k] → k.link.dest = c → (s.dev.ctx k.link.ctx).started = true →
          (s.dev.ctx k.link.ctx).abort = none → endIssued s.dev k.link.ctx = false → s.dev.seq.dispatch ≠ some k.link.ctx →
          ∃ d', exec i s = .next { s with dev := d' } ∧ (d'.ctx k.link.ctx).phase = .aborting ∧
            (d'.ctx k.link.ctx).abort = some (.prefetchFault,
              tagPc s.dev k.link + 2 ^ 16 * k.link.tagSlot.val + 2 ^ 23 * 6) ∧
            ∀ u, u ≠ k.link.ctx → d'.ctx u = s.dev.ctx u)))) ∧
  (∀ (s : State),
     (∀ c, leads s.dev c = true →
       ∃ d', exec (.fabricLeave (.crier c)) s = .next { s with dev := d' } ∧ { d' with fabric := s.dev.fabric } = s.dev ∧
         d'.fabric = { s.dev.fabric with leaving := true, notices := s.dev.fabric.notices ++ [.leave (ownCoord s.dev)] }) ∧
     (exec (.fabricLeave .host) s = .next { s with dev := { s.dev with logged := s.dev.logged + 1 } }) ∧
     (s.dev.fabric.leaving = false → exec .leaveForwardEnd s = .next s) ∧
     (s.dev.fabric.leaving = true →
       ∃ d', exec .leaveForwardEnd s = .next { s with dev := d' } ∧ d'.fabric.state = 0 ∧ d'.fabric.present = [] ∧ d'.mem = s.dev.mem ∧
         ∀ p, p < 24 → (d'.port p).state = 0 ∨ (d'.port p).state = 7) ∧
     (∀ (src : Source), (src = .host ∨ ∃ c, src = .crier c ∧ leads s.dev c = true) →
       (let l := wholeTable s.dev.fabric.written
        let mine := ownIndices s.dev l
        ∃ d', exec (.fabricResolve src) s = .next { s with dev := d' } ∧ d'.fabric.table = l ∧ d'.fabric.written = s.dev.fabric.written ∧
          d'.fabric.present = [] ∧ d'.fabric.absent = [] ∧ d'.fabric.rounds = 0 ∧ d'.mem = s.dev.mem ∧ d'.ctxs = s.dev.ctxs ∧
          (tableValid l = false → d'.fabric.state = 4) ∧ (tableValid l = true → mine.length ≠ 1 → d'.fabric.state = 5) ∧
          (tableValid l = false ∨ mine.length ≠ 1 → d'.fabric.version = 0 ∧ d'.shape.topology = 0 ∧
            d'.shape.dim = (1, 1, 1) ∧ d'.shape.coord = (0, 0, 0) ∧ ∀ p, p < 24 → portUp d' p = false) ∧
          (tableValid l = true → mine.length = 1 → d'.fabric.state = 1 ∧ d'.fabric.version = leAt l 8 4))))

/-- IDENTITY_EXCHANGE and PORT_JOIN (R309, R310, R312, R486, R489): a peer whose chain or signature fails is refused, counted
and recorded, as any peer is while the package's own identity is bad; one that does not match the fabric table is held; one that
matches carries traffic and its line is told, at once while the fabric forms, and while it runs when it joins. COORD_ROUND,
READY_NOTICE and FABRIC_WAIT_EXPIRY (R309, R311): each round is counted and its links are known; the last of the D rounds
publishes topology, sizes and coordinate; a port whose peer disagrees with the wiring is held; a notice with another digest is a
table conflict; the last missing ready, or the end of the wait, makes the fabric ready, and who is missing then is absent. -/
def Obligations.FabricFormsFromPeers : Prop :=
  (∀ (s : State) (p : PortId), (s.dev.port p.val).state = 2 →
     (∀ chainOk sigOk peer digest, (chainOk && sigOk) = false ∨ s.dev.sec.idBad = true →
       ∃ d', exec (.identityExchange p chainOk sigOk peer digest) s = .next { s with dev := d' } ∧ Recorded 6 3 15 s.dev d' ∧
         (d'.port p.val).state = 7 ∧ d'.sec.authFails = s.dev.sec.authFails + 1 ∧ d'.mem = s.dev.mem ∧ d'.fabric = s.dev.fabric ∧
         ∀ q, q ≠ p.val → d'.port q = s.dev.port q) ∧
     (∀ peer digest c, peerOf s.dev p.val = some c →
       s.dev.sec.idBad = false →
       (let fits := tableEntry s.dev.fabric.table (coordIndex s.dev.fabric.table c) = peer.toNat ∧ digest = tableDigest s.dev
        (¬fits → ∃ d', exec (.identityExchange p true true peer digest) s = .next { s with dev := d' } ∧
          OnlyPort p.val s.dev d' ∧ d'.port p.val = { s.dev.port p.val with state := 3, lanes := 0, peerId := some (peer, digest) }) ∧
        (fits → s.dev.fabric.state = 3 → ∃ d', exec (.identityExchange p true true peer digest) s = .next { s with dev := d' } ∧
          OnlyPort p.val s.dev d' ∧ d'.port p.val = { s.dev.port p.val with peerId := some (peer, digest) }) ∧
        (∀ l, fits → s.dev.fabric.state ≠ 3 → lineOf s.dev p.val = some l →
          ∃ d', exec (.identityExchange p true true peer digest) s = .next { s with dev := d' } ∧
            d'.port p.val = { s.dev.port p.val with state := 4, lanes := 10, peer := some c, peerId := some (peer, digest) } ∧
            (∀ q, q ≠ p.val → d'.port q = s.dev.port q) ∧ Flooded (.back l) s.dev d' ∧ l ∉ d'.fabric.down ∧ d'.mem = s.dev.mem))) ∧
     (∀ c l, peerOf s.dev p.val = some c → lineOf s.dev p.val = some l → peerMatches s.dev p.val = true → s.dev.fabric.state = 3 →
       (let j := coordIndex s.dev.fabric.table c
        (j ∈ s.dev.fabric.absent → s.dev.cfg.autojoin = false → exec (.portJoin p) s = .next s) ∧
        (j ∉ s.dev.fabric.absent ∨ s.dev.cfg.autojoin = true →
          ∃ d', exec (.portJoin p) s = .next { s with dev := d' } ∧
            d'.port p.val = { s.dev.port p.val with state := 4, lanes := 10, peer := some c } ∧
            (∀ q, q ≠ p.val → d'.port q = s.dev.port q) ∧ Flooded (.back l) s.dev d' ∧ j ∈ d'.fabric.present ∧
            (∀ m, m ∈ d'.fabric.absent ↔ m ∈ s.dev.fabric.absent ∧ m ≠ j) ∧ d'.mem = s.dev.mem ∧ d'.ctxs = s.dev.ctxs)))) ∧
  (∀ (s : State) t sizes c, placed s.dev = some (t, sizes, c) →
     (∀ links, s.dev.fabric.state = 1 ∨ s.dev.fabric.state = 2 → s.dev.fabric.rounds < 255 →
       (s.dev.fabric.stacksReady = false ∨ s.dev.fabric.rounds + 1 < t → (∀ l ∈ links, linkFits sizes l = true) →
         ∃ d', exec (.coordRound links) s = .next { s with dev := d' } ∧ d'.fabric.state = 2 ∧
           d'.fabric.rounds = s.dev.fabric.rounds + 1 ∧ d'.ports = s.dev.ports ∧ d'.mem = s.dev.mem ∧
           (∀ l, l ∈ d'.fabric.known ↔ l ∈ s.dev.fabric.known ∨ l ∈ links) ∧
           (s.dev.fabric.rounds + 1 = t → d'.shape.topology = t ∧ d'.shape.dim = sizes ∧ d'.shape.coord = c) ∧
           (s.dev.fabric.rounds + 1 ≠ t → d'.shape = s.dev.shape)) ∧
       (∀ (p : PortId) l, l ∈ links → linkFits sizes l = false → portUp s.dev p.val = true →
         (s.dev.port p.val).peer = some l.here ∨ (s.dev.port p.val).peer = some l.there →
         ∃ d', exec (.coordRound links) s = .next { s with dev := d' } ∧ (d'.port p.val).state = 3 ∧ (d'.port p.val).lanes = 0 ∧
           d'.mem = s.dev.mem)) ∧
     (∀ coord digest, (let j := coordIndex s.dev.fabric.table coord
       (digest ≠ tableDigest s.dev →
         ∃ d', exec (.readyNotice coord digest) s = .next { s with dev := d' } ∧ d'.fabric = { s.dev.fabric with state := 6 } ∧
           d'.ports = s.dev.ports ∧ d'.mem = s.dev.mem) ∧
       (digest = tableDigest s.dev → j < tableCount s.dev.fabric.table →
         ∃ d', exec (.readyNotice coord digest) s = .next { s with dev := d' } ∧ j ∈ d'.fabric.present ∧ j ∉ d'.fabric.absent ∧
           d'.ports = s.dev.ports ∧ d'.mem = s.dev.mem ∧
           (s.dev.fabric.state = 3 → d'.fabric.state = 3) ∧
           ((s.dev.fabric.state = 1 ∨ s.dev.fabric.state = 2) → s.dev.fabric.readySent = true →
             (∀ m ∈ population s.dev, m ∈ s.dev.fabric.present ∨ m = j) →
             d'.fabric.state = 3 ∧ (s.dev.evt.retention = none → (d'.src 69).pend = true))))) ∧
     (s.dev.fabric.state ≠ 1 → s.dev.fabric.state ≠ 2 → exec .fabricWaitExpiry s = .next s) ∧
     (s.dev.fabric.state = 1 ∨ s.dev.fabric.state = 2 →
       ∃ d', exec .fabricWaitExpiry s = .next { s with dev := d' } ∧ { d' with fabric := s.dev.fabric, evt := s.dev.evt } = s.dev ∧
         d'.fabric.state = 3 ∧ d'.fabric.present = s.dev.fabric.present ∧ (s.dev.evt.retention = none → (d'.src 69).pend = true) ∧
         ∀ m, m ∈ d'.fabric.absent ↔ m ∈ s.dev.fabric.absent ∨ (m ∈ population s.dev ∧ m ∉ s.dev.fabric.present)))

/-- LINK_WRITE_PACKET and LINK_TOKEN_PACKET (R300, R301, R304, R305): a packet that this package does not take changes nothing;
the first matching row of R304 decides: refused as stale, held until its step starts, refused for want of room, or landed; a
write that lands puts its bytes at its address and changes no other byte, one that fails R305 is refused with reason 4; a token
packet is one arrival, counted once for its source and tag. LINK_WRITE_ACK, LINK_REFUSAL, HELD_PACKET_RESEND and PACKET_FORWARD
(R300 to R306): an answer to a packet that was not sent changes nothing; an acknowledgement releases the packet and is counted
on its entry; a refusal aborts the sending task with its cause, at the bundle of the operation whose transfer it was, but one
for want of room keeps the packet, which is sent again later; a packet for another package goes out one hop on, and memory is
not touched. -/
def Obligations.PacketsCrossTheFabric : Prop :=
  (∀ (s : State) (p : PortId) (k : LinkPacket),
     (let c := s.dev.ctx k.ctx
      let x := s.dev.port p.val
      let takes := k.dest = s.dev.shape.coord ∧ portUp s.dev p.val = true ∧ s.dev.fabric.leaving = false
      let fresh := c.prog.isSome = true ∧ k.epoch = ctxEpoch s.dev k.ctx
      let lands := takes ∧ fresh ∧ c.curStep = some k.step ∧ (c.phase = .running ∨ c.phase = .ready)
      let used := (x.landing.map HeldPkt.bytes).sum
      (∀ (i : Instr) kind, i = .linkWritePacket p k ∧ kind = 0 ∨ i = .linkTokenPacket p k ∧ kind = 5 →
        (¬takes → exec i s = .next s) ∧
        (takes → ¬fresh → ∃ d', exec i s = .next { s with dev := d' } ∧ OnlyAnswered p.val s.dev d' ∧ Replied p.val 2 k 1 0 s.dev d' ∧
          d'.port p.val = { x with stale := x.stale + 1 }) ∧
        (takes → fresh → (c.curStep = none ∨ ∃ n, c.curStep = some n ∧ n < k.step) →
          (used + 32 + k.payload.length ≤ 2 ^ 21 → ∃ d', exec i s = .next { s with dev := d' } ∧ OnlyAnswered p.val s.dev d' ∧
            d'.fabric = s.dev.fabric ∧ d'.port p.val = { x with landing := x.landing ++ [{ kind := kind, link := k }], ahead := x.ahead + 1 }) ∧
          (2 ^ 21 < used + 32 + k.payload.length → ∃ d', exec i s = .next { s with dev := d' } ∧ OnlyAnswered p.val s.dev d' ∧
            Replied p.val 2 k 3 0 s.dev d' ∧ d'.port p.val = { x with full := x.full + 1 })) ∧
        (∀ n, takes → fresh → c.curStep = some n → k.step < n ∨ (n = k.step ∧ (c.phase = .idle ∨ c.phase = .aborting ∨ c.phase = .starting)) →
          ∃ d', exec i s = .next { s with dev := d' } ∧ OnlyAnswered p.val s.dev d' ∧ Replied p.val 2 k 2 0 s.dev d' ∧
            d'.port p.val = { x with stale := x.stale + 1 })) ∧
      (lands → ∀ r, landCheck s.dev k.ctx k.addr.toNat k.payload.length = some r →
        ∃ d', exec (.linkWritePacket p k) s = .next { s with dev := d' } ∧ OnlyAnswered p.val s.dev d' ∧ Replied p.val 2 k 4 r s.dev d' ∧
          d'.port p.val = { x with window := x.window + 1 }) ∧
      (lands → landCheck s.dev k.ctx k.addr.toNat k.payload.length = none → s.dev.badSram = [] → s.dev.badBlocks = [] →
        (∀ i, i < k.payload.length → ∃ j, placeOf (k.addr.toNat + i) = .localStore j) →
        ∃ d', exec (.linkWritePacket p k) s = .next { s with dev := d' } ∧ Replied p.val 1 k 0 0 s.dev d' ∧
          d'.ctxs = s.dev.ctxs ∧ d'.ports = s.dev.ports ∧
          ∀ a, rdByte d' a = if k.addr.toNat ≤ a ∧ a < k.addr.toNat + k.payload.length then k.payload.getD (a - k.addr.toNat) 0
            else rdByte s.dev a) ∧
      (lands → (let key := (k.ctx, k.src, k.tagSlot.val, k.tagEntry.toNat, k.tagGen.toNat, k.step.toNat)
        ((key ∈ s.dev.fabric.seenTokens → ∃ d', exec (.linkTokenPacket p k) s = .next { s with dev := d' } ∧
          OnlyAnswered p.val s.dev d' ∧ Replied p.val 1 k 0 0 s.dev d' ∧ d'.ports = s.dev.ports) ∧
        (key ∉ s.dev.fabric.seenTokens → Tab.get 0 c.tokens k.remoteToken.toNat < 65535 →
          ∃ d', exec (.linkTokenPacket p k) s = .next { s with dev := d' } ∧ Replied p.val 1 k 0 0 s.dev d' ∧ d'.mem = s.dev.mem ∧
            OnlyTokens k.ctx { s.dev with fabric := d'.fabric } d' ∧ key ∈ d'.fabric.seenTokens ∧
            ∀ tok, Tab.get 0 (d'.ctx k.ctx).tokens tok =
              Tab.get 0 c.tokens tok + if tok = k.remoteToken.toNat then 1 else 0)))))) ∧
  (∀ (s : State) (p : PortId),
     (∀ (t : CtxId) (k : SlotId) (entry : BitVec 9),
       (let tagged := fun (x : OutPkt) => x.link.ctx == t && x.link.tagSlot.val == k.val && x.link.tagEntry.toNat == entry.toNat
        ((∀ x ∈ s.dev.fabric.outbox, tagged x = false) →
          (∀ token, exec (.linkWriteAck p t k entry token) s = .next s) ∧
          ∀ reason resource, exec (.linkRefusal p t k entry reason resource) s = .next s) ∧
        (∀ x core, s.dev.fabric.outbox = [x] → tagged x = true → x.kind = 0 → x.bank = false → servingCores s.dev k.val = [core] →
          (let y := Tab.get ({} : Entry) (s.dev.core core).entries entry.toNat
           y.state = 2 → y.ctx = t.val → y.slot = k.val → y.gen = x.link.tagGen → 2 ≤ y.packets →
           ∃ d', exec (.linkWriteAck p t k entry false) s = .next { s with dev := d' } ∧ d'.fabric = { s.dev.fabric with outbox := [] } ∧
             OnlyCore core { s.dev with fabric := d'.fabric } d' ∧
             Tab.get ({} : Entry) (d'.core core).entries entry.toNat = { y with packets := y.packets - 1 })) ∧
        (∀ x, s.dev.fabric.outbox = [x] → tagged x = true →
          (∀ resource, ∃ d', exec (.linkRefusal p t k entry 3 resource) s = .next { s with dev := d' } ∧
            d' = { s.dev with fabric := { s.dev.fabric with outbox := [{ x with full := true }] } }) ∧
          (let pc := tagPc s.dev x.link + 2 ^ 16 * k.val
           (s.dev.ctx t).started = true → (s.dev.ctx t).abort = none → endIssued s.dev t = false → s.dev.seq.dispatch ≠ some t →
            (∀ reason resource, reason = 1 ∨ reason = 2 → x.kind = 0 →
              ∃ d', exec (.linkRefusal p t k entry reason resource) s = .next { s with dev := d' } ∧
                Aborted t .prefetchFault (pc + 2 ^ 23 * 5) s.dev d') ∧
            (∃ d', exec (.linkRefusal p t k entry 4 0) s = .next { s with dev := d' } ∧ Aborted t .prefetchFault (pc + 2 ^ 23) s.dev d') ∧
            (∀ resource, resource ≠ 0 → ∃ d', exec (.linkRefusal p t k entry 4 resource) s = .next { s with dev := d' } ∧
              Aborted t .resourceOverflow (pc + 2 ^ 23 * resource.toNat) s.dev d'))))) ∧
     (∃ d', exec (.heldPacketResend p) s = .next { s with dev := d' } ∧ { d' with fabric := s.dev.fabric, ports := s.dev.ports } = s.dev ∧
       d'.fabric.outbox.length = s.dev.fabric.outbox.length ∧ ∀ x ∈ d'.fabric.outbox, ¬(x.full = true ∧ x.port = some p.val)) ∧
     (∀ (hops : BitVec 3) (k : LinkPacket),
       (k.dest = ownCoord s.dev ∨ portUp s.dev p.val = false ∨ 6 ≤ hops.toNat ∨ nextHop s.dev k.dest = none →
         exec (.packetForward p hops k) s = .next s) ∧
       (∀ dim off q, k.dest ≠ ownCoord s.dev → portUp s.dev p.val = true → hops.toNat < 6 → nextHop s.dev k.dest = some (dim, off) →
         linksTo s.dev dim off = [q] →
         ∃ d', exec (.packetForward p hops k) s = .next { s with dev := d' } ∧
           { d' with fabric := s.dev.fabric, ports := s.dev.ports } = s.dev ∧ d'.fabric.passed = s.dev.fabric.passed ++ [(q, k)] ∧
           (∀ r, r ≠ q → d'.port r = s.dev.port r) ∧
           (d'.port q).forwardedBytes = (s.dev.port q).forwardedBytes + 32 + k.payload.length)))

/-- REDUCTION_ADD_PACKET, REDUCTION_MAX_PACKET, REDUCTION_RETURN_PACKET and REDUCTION_REQUEST (R304, R332, R335, R336, R338):
each obeys R304; a first arrival opens its chunk in the gathering bank, a further one is added to it, a second one of a rank is
a duplicate, one for a chunk that is freed is late, and a tally that disagrees aborts the task and tells the members; a RETURN
lands its chunk in place; a request that nothing armed serves is only acknowledged. -/
def Obligations.ReductionsGather : Prop :=
  ∀ (s : State) (p : PortId) (q : RedPacket),
    (let c := s.dev.ctx q.ctx
     let x := s.dev.port p.val
     let k := redLink q s.dev.shape.coord
     let l := (s.dev.redCtx q.ctx).layout
     let red := q.reduction.toNat
     let rows : List (Nat × Instr) := [(0, .reductionAddPacket p q), (1, .reductionMaxPacket p q), (2, .reductionReturnPacket p q),
       (3, .reductionRequest p q false), (4, .reductionRequest p q true)]
     let takes := portUp s.dev p.val = true ∧ s.dev.fabric.leaving = false
     let fresh := c.prog.isSome = true ∧ q.epoch = ctxEpoch s.dev q.ctx
     let lands := takes ∧ fresh ∧ c.curStep = some q.step ∧ (c.phase = .running ∨ c.phase = .ready)
     let g := gatherPort s.dev l q.stage.val q.chunk
     let b := s.dev.adderBank g
     (∀ r ∈ rows,
       (¬takes → exec r.2 s = .next s) ∧
       (takes → ¬fresh → ∃ d', exec r.2 s = .next { s with dev := d' } ∧ OnlyAnswered p.val s.dev d' ∧ Replied p.val 2 k 1 0 s.dev d' ∧
         d'.port p.val = { x with stale := x.stale + 1 }) ∧
       (takes → fresh → c.curStep = none → (x.landing.map HeldPkt.bytes).sum + 32 + (redPayload r.1 q).length ≤ 2 ^ 21 →
         ∃ d', exec r.2 s = .next { s with dev := d' } ∧ OnlyAnswered p.val s.dev d' ∧ d'.fabric = s.dev.fabric ∧
           d'.port p.val = { x with
             landing := x.landing ++ [{ kind := 3, link := { k with payload := redPayload r.1 q }, mode := r.1, red := some q }]
             ahead := x.ahead + 1 }) ∧
       (∀ n, takes → fresh → c.curStep = some n → q.step < n →
         ∃ d', exec r.2 s = .next { s with dev := d' } ∧ OnlyAnswered p.val s.dev d' ∧ Replied p.val 2 k 2 0 s.dev d' ∧
           d'.port p.val = { x with stale := x.stale + 1 })) ∧
     (lands →
       ((q.ctx, red, q.chunk, q.stage.val, true) ∈ b.freed →
         ∃ d', exec (.reductionAddPacket p q) s = .next { s with dev := d' } ∧ Replied p.val 1 k 0 0 s.dev d' ∧
           d'.adderBank g = { b with late := b.late + 1 } ∧ d'.ctxs = s.dev.ctxs ∧ d'.mem = s.dev.mem) ∧
       (∀ dim, (q.ctx, red, q.chunk, q.stage.val, true) ∉ b.freed → b.chunks = [] → b.inject = false → q.elems.length = 768 →
         l.stages[q.stage.val]? = some dim → 2 ≤ (l.members_ dim).length →
         (q.tally = tallyOf q.elems → fits40 q.elems = true →
           ∃ d', exec (.reductionAddPacket p q) s = .next { s with dev := d' } ∧ Replied p.val 1 k 0 0 s.dev d' ∧
             d'.ctxs = s.dev.ctxs ∧ d'.mem = s.dev.mem ∧ d'.adderBank g = { b with
               addedBytes := b.addedBytes + 3880
               chunks := [{ ctx := q.ctx, red := red, chunk := q.chunk, stage := q.stage.val, add := true, ranks := [q.rank], ints := q.elems
                            scales := q.scales, tally := q.tally % tallyMod, tallies := [(q.rank, q.tally)] }] }) ∧
         (q.tally ≠ tallyOf q.elems → c.abort = none → endIssued s.dev q.ctx = false → s.dev.seq.dispatch ≠ some q.ctx →
           ∃ d', exec (.reductionAddPacket p q) s = .next { s with dev := d' } ∧ d'.redMismatch = s.dev.redMismatch + 1 ∧
             Flooded (.mismatch q.ctx red q.stage.val) s.dev d' ∧ (d'.ctx q.ctx).phase = .aborting ∧
             (d'.ctx q.ctx).abort = some (.tallyMismatch, red + 2 ^ 11 * q.stage.val + 2 ^ 13) ∧ d'.mem = s.dev.mem ∧
             ∀ u, u ≠ q.ctx → d'.ctx u = s.dev.ctx u)) ∧
       (∀ dim y, (q.ctx, red, q.chunk, q.stage.val, true) ∉ b.freed → b.chunks = [y] → b.inject = false →
         y.ctx = q.ctx → y.red = red → y.chunk = q.chunk → y.stage = q.stage.val → y.add = true → y.scales = q.scales →
         q.tally = tallyOf q.elems → l.stages[q.stage.val]? = some dim →
         (q.rank ∉ y.ranks → fits40 (List.zipWith (· + ·) y.ints q.elems) = true → y.ranks.length + 1 < (l.members_ dim).length →
           ∃ d', exec (.reductionAddPacket p q) s = .next { s with dev := d' } ∧ Replied p.val 1 k 0 0 s.dev d' ∧
             d'.ctxs = s.dev.ctxs ∧ d'.mem = s.dev.mem ∧ d'.adderBank g = { b with
               addedBytes := b.addedBytes + 3880
               chunks := [{ y with
                 ints := List.zipWith (· + ·) y.ints q.elems, ranks := y.ranks ++ [q.rank], tally := (y.tally + q.tally) % tallyMod
                 tallies := y.tallies ++ [(q.rank, q.tally)] }] }) ∧
         (q.rank ∈ y.ranks → (q.rank, q.tally) ∈ y.tallies →
           ∃ d', exec (.reductionAddPacket p q) s = .next { s with dev := d' } ∧ Replied p.val 1 k 0 0 s.dev d' ∧
             d'.ctxs = s.dev.ctxs ∧ d'.mem = s.dev.mem ∧ d'.adderBank g = { b with duplicates := b.duplicates + 1 })) ∧
       (∀ dim, (q.ctx, red, q.chunk, q.stage.val, false) ∉ b.freed → b.chunks = [] → b.inject = false → q.count = 1 →
         q.data.length = 24 → l.stages[q.stage.val]? = some dim → 2 ≤ (l.members_ dim).length →
         ∃ d', exec (.reductionMaxPacket p q) s = .next { s with dev := d' } ∧ Replied p.val 1 k 0 0 s.dev d' ∧
           d'.ctxs = s.dev.ctxs ∧ d'.mem = s.dev.mem ∧ (d'.adderBank g).addedBytes = b.addedBytes + 40 ∧
           ∃ y, (d'.adderBank g).chunks = [y] ∧ y.is q.ctx red q.chunk q.stage.val false = true ∧ y.ranks = [q.rank] ∧
             y.scales = q.data ∧ y.copies = [(q.rank, q.data)]) ∧
       (let r := redDesc s.dev q.ctx red
        let a := r.xbase + 24 * q.chunk
        let n := (min 768 (r.elements - 768 * q.chunk) + 31) / 32
        q.what = true → q.count = 1 → q.stage.val = 0 → n ≤ q.data.length →
        (∀ res, landCheck s.dev q.ctx a n = some res →
          ∃ d', exec (.reductionReturnPacket p q) s = .next { s with dev := d' } ∧ Replied p.val 2 k 4 res s.dev d' ∧
            d'.mem = s.dev.mem ∧ d'.ctxs = s.dev.ctxs) ∧
        (landCheck s.dev q.ctx a n = none → s.dev.badSram = [] → s.dev.badBlocks = [] → Tab.get 0 c.tokens r.xtoken < 65535 →
          (∀ i, i < n → ∃ j, placeOf (a + i) = .localStore j) →
          ∃ d' z, exec (.reductionReturnPacket p q) s = .next { s with dev := d' } ∧ Replied p.val 1 k 0 0 s.dev d' ∧
            d'.run q.ctx red = some z ∧ q.chunk ∈ z.proposals ∧
            ∀ i, rdByte d' i = if a ≤ i ∧ i < a + n then q.data.getD (i - a) 0 else rdByte s.dev i)) ∧
       (∀ add, findArmed s.dev q add = none →
         ∃ d', exec (.reductionRequest p q add) s = .next { s with dev := d' } ∧ OnlyAnswered p.val s.dev d' ∧
           Replied p.val 1 k 0 0 s.dev d' ∧ d'.ports = s.dev.ports)))

/-- HANDOFF_FRAME_WRITE, STAGE_DEADLINE and TALLY_ABORT_NOTICE (R135, R333 to R336): a chunk that waited for its frame is
written there and its slot is freed; a deadline asks the backup of a rank that is missing, where substitution is enabled; a
notice aborts the task with TALLY_MISMATCH. RESHARD (R323, R341): a layout table in memory that breaks a condition is BAD_PARAM;
open reductions, a started task or held packets make it BUSY with what stands in the way; otherwise the context has the new
layout and epoch and no reduction. -/
def Obligations.ReductionsMoveOn : Prop :=
  (∀ (s : State) (t : CtxId) (reduction : BitVec 11) (chunk : Nat),
     (let x := redDesc s.dev t reduction.toNat
      let l := (s.dev.redCtx t).layout
      ((∀ p, p < 24 → (s.dev.adderBank p).chunks = []) → exec (.handoffFrameWrite t reduction chunk) s = .next s) ∧
      (∀ p y k, p < 24 → (∀ q, q < 24 → q ≠ p → (s.dev.adderBank q).chunks = []) → (s.dev.adderBank p).chunks = [y] →
        y.is t reduction.toNat chunk y.stage true = true → y.phase = 2 → y.ints.length = 768 → y.scales.length = 24 →
        (let r := slotRange l s.dev.shape.coord x k
         let f := (chunk - r.1) % 128
         x.owners.find? (fun k => decide ((slotRange l s.dev.shape.coord x k).1 ≤ chunk) &&
           decide (chunk < (slotRange l s.dev.shape.coord x k).2)) = some k → frameFree s.dev k f = true →
         ∃ d', exec (.handoffFrameWrite t reduction chunk) s = .next { s with dev := d' } ∧ d'.mem = s.dev.mem ∧
           ((d'.ctx t).abort = (s.dev.ctx t).abort →
             (d'.adderBank p).chunks = [] ∧ Tab.get ({} : Frame) d'.frames (128 * k + f) = { full := true, owner := some t } ∧
             (∀ j, j < 4096 → Tab.get 0 d'.handoff (524288 * k + 4096 * f + j) = (frameBytes x y).getD j 0) ∧
             ∃ z, d'.run t reduction.toNat = some z ∧ (k, chunk - r.1) ∈ z.handed))) ∧
      (∀ (p : PortId) add,
        (s.dev.cfg.substEn = false ∨ (∀ y ∈ (s.dev.adderBank p.val).chunks, y.is t reduction.toNat chunk 0 add = false) →
          exec (.stageDeadline p t reduction chunk add) s = .next s) ∧
        (∀ y dim j b, s.dev.cfg.substEn = true → x.deadline ≠ 0 ∨ s.dev.cfg.redDeadline ≠ 0 → l.stages[0]? = some dim →
          (s.dev.adderBank p.val).chunks = [y] → y.is t reduction.toNat chunk 0 add = true → y.phase = 0 →
          (List.range (l.members_ dim).length).filter (fun j => !y.ranks.contains j && !y.asked.contains j) = [j] →
          l.backups.getD (l.index (l.onLine s.dev.shape.coord dim j)) none = some b → reachable s.dev b = true →
          ∃ d' k q, exec (.stageDeadline p t reduction chunk add) s = .next { s with dev := d' } ∧
            d'.redSubst = s.dev.redSubst + 1 ∧ d'.fabric.outbox = s.dev.fabric.outbox ++ [k] ∧ k.link.dest = b ∧ k.kind = 3 ∧
            k.mode = 3 ∧ k.red = some q ∧ q.rank = j ∧ q.chunk = chunk ∧ q.reduction = reduction ∧ d'.mem = s.dev.mem ∧
            d'.ctxs = s.dev.ctxs)) ∧
      (∀ stage : BitVec 2,
        ((s.dev.ctx t).started = false ∨ endIssued s.dev t = true ∨ ((s.dev.ctx t).abort ≠ none ∧ (s.dev.ctx t).stopDue = false) →
          exec (.tallyAbortNotice t reduction stage) s = .next s) ∧
        ((s.dev.ctx t).started = true → (s.dev.ctx t).abort = none → endIssued s.dev t = false → s.dev.seq.dispatch ≠ some t →
          ∃ d', exec (.tallyAbortNotice t reduction stage) s = .next { s with dev := d' } ∧
            Aborted t .tallyMismatch (reduction.toNat + 2 ^ 11 * stage.toNat) s.dev d')))) ∧
  (∀ (s : State) (t : CtxId) (at_ : BitVec 64), executing s.dev mgmtTill 0x0012 = true →
     (let l := layoutAt s.dev at_.toNat
      let opens := ((s.dev.redCtx t).runs.filter (fun (p : Nat × Option RedRun) => redOpen s.dev t p.1)).length
      let run := (s.dev.ctx t).started
      let held := (List.range 24).any (fun p => (s.dev.port p).landing.any (fun h => h.link.ctx == t))
      (l.epoch ≤ ctxEpoch s.dev t ∨ layoutBad s.dev (ctxEpoch s.dev t) l = true →
        ∃ d', exec (.reshard t at_) s = .next { s with dev := d' } ∧ Finished mgmtTill .badParam none none s.dev d' ∧ OnlyAnswer s.dev d') ∧
      (layoutBad s.dev (ctxEpoch s.dev t) l = false → opens ≠ 0 ∨ run = true ∨ held = true →
        ∃ d', exec (.reshard t at_) s = .next { s with dev := d' } ∧ OnlyAnswer s.dev d' ∧
          Finished mgmtTill .busy (some (opens % 2 ^ 16 + (if run = true then 2 ^ 16 else 0) + if held = true then 2 ^ 17 else 0)) none
            s.dev d') ∧
      (layoutBad s.dev (ctxEpoch s.dev t) l = false → opens = 0 → run = false → held = false →
        ∃ d', exec (.reshard t at_) s = .next { s with dev := d' } ∧ Finished mgmtTill .ok none (some (l.epoch.toNat % 2 ^ 32)) s.dev d' ∧
          OnlyAnswer { s.dev with red := d'.red, lease := d'.lease } d' ∧ (d'.redCtx t).runs = [] ∧
          (d'.redCtx t).layout = { epoch := l.epoch, maskX := l.maskX, maskY := l.maskY, maskZ := l.maskZ, members := l.members
                                   backups := l.backups } ∧
          ctxEpoch d' t = l.epoch ∧ ∀ u, u ≠ t → d'.redCtx u = s.dev.redCtx u)))

/-- TILL_DOORBELL, TILL_ENABLE and CPL_HEAD_ADVANCE (R360, R381): the doorbell stores TAIL; enabling resets the pointers and the
expected SEQ, and a write while ENABLE = 1 is ignored and logged; the records held are written in order as far as there is room.
PACKET_TAKE (R355 to R358, R360): a till that may take its next packet moves its head past it and expects the next SEQ; the
first failing check decides its record, and a packet that passes begins to execute; a till that may not take one does nothing.
ABORT_TASK (R64, R358, R369): it acts once TAIL has passed it; the packets before it that have not started complete with RETRY;
a running task stops issuing and its transfers are cancelled; with no task it completes at once with result 0; otherwise its
record waits behind the task's. -/
def Obligations.TillsTakePackets : Prop :=
  (∀ (s : State) (n : TillId), (let x := s.dev.till n
     (∀ tail, ∃ d', exec (.tillDoorbell n tail) s = .next { s with dev := d' } ∧ { d' with tills := s.dev.tills } = s.dev ∧
       d'.till n = { x with tail := tail } ∧ ∀ m, m ≠ n → d'.till m = s.dev.till m) ∧
     (∀ base log2, (x.enable = true → exec (.tillEnable n base log2) s = .next { s with dev := { s.dev with logged := s.dev.logged + 1 } }) ∧
       (x.enable = false →
         ∃ d', exec (.tillEnable n base log2) s = .next { s with dev := d' } ∧ { d' with tills := s.dev.tills } = s.dev ∧
           (∀ m, m ≠ n → d'.till m = s.dev.till m) ∧ d'.till n = { x with
             enable := true, base := base, log2 := log2, tail := 0, head := 0, cplHead := 0, cplTail := 0, expectSeq := 0, records := [] })) ∧
     (∀ head, (let room := 2 ^ x.cplLog2.toNat - (x.cplTail - head).toNat
       ∃ d', exec (.cplHeadAdvance n head) s = .next { s with dev := d' } ∧ { d' with tills := s.dev.tills } = s.dev ∧
         (∀ m, m ≠ n → d'.till m = s.dev.till m) ∧ (d'.till n).cplHead = head ∧ cplRecords (d'.till n) = cplRecords x ∧
         (s.dev.host.rate = 0 → d'.till n = { x with cplHead := head }) ∧
         (s.dev.host.rate ≠ 0 → (d'.till n).held = x.held.drop room ∧
           (d'.till n).records.length = x.records.length + min room x.held.length))))) ∧
  (∀ (s : State) (n : TillId) (k : Packet),
     (canTake s.dev n = false → exec (.packetTake n k) s = .next s) ∧
     (canTake s.dev n = true → k.opcode ≠ 0x0103 → packetFault s.dev n k = none →
       ∃ d', exec (.packetTake n k) s = .next { s with dev := d' } ∧ { d' with tills := s.dev.tills } = s.dev ∧
         Taken n (1 + (k.paramLen.toNat + 63) / 64) k s.dev d' ∧ (d'.till n).cur = some k ∧ (d'.till n).curAt = s.dev.wall ∧
         (d'.till n).deferred = false ∧ cplRecords (d'.till n) = cplRecords (s.dev.till n)) ∧
     (∀ st detail, canTake s.dev n = true →
       ((crc32c (packetHeader k ++ k.params) ≠ k.check ∧ st = .badParam ∧ detail = some 0x00010001) ∨
         (crc32c (packetHeader k ++ k.params) = k.check ∧ k.seq ≠ (s.dev.till n).expectSeq ∧ st = .badParam ∧ detail = some 0x00010002) ∨
         (crc32c (packetHeader k ++ k.params) = k.check ∧ k.seq = (s.dev.till n).expectSeq ∧
           (k.flags.toNat / 2 ≠ 0 ∨ k.rsv10 ≠ 0 ∨ k.rsv24 ≠ 0) ∧ st = .badParam ∧ detail = some 0x00010003) ∨
         (crc32c (packetHeader k ++ k.params) = k.check ∧ k.seq = (s.dev.till n).expectSeq ∧ k.flags.toNat ≤ 1 ∧ k.rsv10 = 0 ∧ k.rsv24 = 0 ∧
           (n.val < 16 ∧ k.opcode.toNat < 0x100 ∨ n.val = 16 ∧ 0x100 ≤ k.opcode.toNat ∨ 0x0104 < k.opcode.toNat) ∧ st = .badOpcode ∧
           detail = none) ∨
         (crc32c (packetHeader k ++ k.params) = k.check ∧ k.seq = (s.dev.till n).expectSeq ∧ k.flags.toNat ≤ 1 ∧ k.rsv10 = 0 ∧ k.rsv24 = 0 ∧
           n.val < 16 ∧ k.opcode = 0x0102 ∧ s.dev.host.negotiated = false ∧ st = .notNegotiated ∧ detail = none) ∨
         (crc32c (packetHeader k ++ k.params) = k.check ∧ k.seq = (s.dev.till n).expectSeq ∧ k.flags.toNat ≤ 1 ∧ k.rsv10 = 0 ∧ k.rsv24 = 0 ∧
           n.val < 16 ∧ k.opcode = 0x0101 ∧ s.dev.host.negotiated = true ∧ k.paramLen ≠ 0 ∧ st = .badParam ∧
           detail = some 0x00010004)) →
       ∃ d', exec (.packetTake n k) s = .next { s with dev := d' } ∧ OnlyAnswer s.dev d' ∧
         Taken n (1 + (k.paramLen.toNat + 63) / 64) k s.dev d' ∧ Formed n k st detail none s.dev d')) ∧
  (∀ (s : State) (t : CtxId) (earlier : List Packet) (k : Packet),
     (let n := taskTill t
      let x := s.dev.till n
      let need := ((earlier ++ [k]).map packetUnits).sum
      let acts := x.enable = true ∧ x.closing = false ∧ s.dev.shape.published = true ∧ k.opcode = 0x0103 ∧ need < 2 ^ 32 ∧
        need ≤ (x.tail - x.head).toNat ∧ packetFault (earlier.foldl (fun d p => takeUnits n p d) s.dev) n k = none
      (x.enable = false ∨ x.closing = true ∨ (need < 2 ^ 32 ∧ (x.tail - x.head).toNat < need) ∨ k.opcode ≠ 0x0103 →
        exec (.abortTask t earlier k) s = .next s) ∧
      (acts → (s.dev.ctx t).phase = .idle →
        ∃ d' rs r, exec (.abortTask t earlier k) s = .next { s with dev := d' } ∧ OnlyAnswer s.dev d' ∧ Taken n need k s.dev d' ∧
          cplRecords (d'.till n) = cplRecords x ++ rs ++ [r] ∧
          rs.map (fun r => (r.tag, r.seq, r.opcode, r.status, r.interim)) = earlier.map (fun p => (p.tag, p.seq, p.opcode, .retry, false)) ∧
          r.tag = k.tag ∧ r.seq = k.seq ∧ r.status = .ok ∧ r.interim = false ∧ r.result = 0) ∧
      (acts → (s.dev.ctx t).phase = .starting →
        ∃ d', exec (.abortTask t earlier k) s = .next { s with dev := d' } ∧ (d'.till n).aborts = x.aborts ++ [k] ∧
          (d'.till n).cur = x.cur ∧ Taken n need k s.dev d' ∧ d'.ctx t = { s.dev.ctx t with hostAbort := true } ∧
          ∀ u, u ≠ t → d'.ctx u = s.dev.ctx u) ∧
      (acts → ((s.dev.ctx t).phase = .ready ∨ (s.dev.ctx t).phase = .running ∧ (s.dev.ctx t).ended = false ∧ s.dev.seq.replay = none ∧
          s.dev.seq.preempt ≠ .draining t) →
        ∃ d', exec (.abortTask t earlier k) s = .next { s with dev := d' } ∧ (d'.till n).aborts = x.aborts ++ [k] ∧
          (d'.till n).cur = x.cur ∧ Taken n need k s.dev d' ∧ d'.mem = s.dev.mem ∧ (d'.ctx t).phase = .aborting ∧
          (d'.ctx t).hostAbort = true ∧ (d'.ctx t).bellWait = none ∧ (d'.ctx t).saved = false ∧ opsOf d' t = [] ∧
          (s.dev.seq.running = some t → d'.seq.mode = .aborting) ∧ ∀ u, u ≠ t → d'.ctx u = s.dev.ctx u)))

/-- HAGGLE (R370 to R372): a major version other than 1 is BAD_PARAM, a renegotiation while a program is loaded is BUSY;
otherwise the features that both sides implement are agreed, written to REPLY and answered. HOST_MAP (R354): a tier or a window
without its feature is NOT_NEGOTIATED, a field outside its rule BAD_PARAM, a change under host-tier homes or started tasks BUSY;
otherwise the tier and the window are set. -/
def Obligations.HostAttaches : Prop :=
  (∀ (s : State) (version : BitVec 16) (features reply : BitVec 64), executing s.dev mgmtTill 0x0001 = true →
     (version.toNat / 256 ≠ 1 →
       ∃ d', exec (.haggle version features reply) s = .next { s with dev := d' } ∧
         Finished mgmtTill .badParam (some 1) none s.dev d' ∧ OnlyAnswer s.dev d') ∧
     (version.toNat / 256 = 1 → s.dev.host.negotiated = true → (∃ t, (s.dev.ctx t).prog.isSome = true) →
       ∃ d', exec (.haggle version features reply) s = .next { s with dev := d' } ∧ Finished mgmtTill .busy none none s.dev d' ∧
         OnlyAnswer s.dev d') ∧
     (version.toNat / 256 = 1 → s.dev.host.negotiated = false ∨ (∀ t, (s.dev.ctx t).prog = none) →
       ∃ d' l, exec (.haggle version features reply) s = .next { s with dev := d' } ∧
         Finished mgmtTill .ok none (some ((features &&& 0x3FFF).toNat)) s.dev d' ∧
         OnlyAnswer { s.dev with host := d'.host, lease := { s.dev.lease with mirrorWritten := s.dev.lease.mirrorWritten + 1 } } d' ∧
         d'.host = { s.dev.host with
           negotiated := true, agreed := features &&& 0x3FFF, writes := s.dev.host.writes ++ [(reply.toNat, l)] } ∧
         l.length = 32 ∧ leAt l 0 2 = 0x0100 ∧ leAt l 8 8 = (features &&& 0x3FFF).toNat ∧ leAt l 16 8 = 0x3FFF)) ∧
  (∀ (s : State) (tierOffset tierSize winName winSize : BitVec 64), executing s.dev mgmtTill 0x0003 = true →
     (let bad := (tierSize ≠ 0 ∧ agreedBit s.dev 2 = false) ∨ (winSize ≠ 0 ∧ agreedBit s.dev 3 = false)
      let broken := mapBroken tierOffset.toNat tierSize.toNat winName.toNat winSize.toNat
      let busy := mapBusy s.dev tierOffset.toNat tierSize.toNat winName.toNat winSize.toNat
      (bad → ∃ d', exec (.hostMap tierOffset tierSize winName winSize) s = .next { s with dev := d' } ∧
        Finished mgmtTill .notNegotiated none none s.dev d' ∧ OnlyAnswer s.dev d') ∧
      (¬bad → broken = true → ∃ d', exec (.hostMap tierOffset tierSize winName winSize) s = .next { s with dev := d' } ∧
        Finished mgmtTill .badParam none none s.dev d' ∧ OnlyAnswer s.dev d') ∧
      (¬bad → broken = false → busy = true → ∃ d', exec (.hostMap tierOffset tierSize winName winSize) s = .next { s with dev := d' } ∧
        Finished mgmtTill .busy none none s.dev d' ∧ OnlyAnswer s.dev d') ∧
      (¬bad → broken = false → busy = false → ∃ d', exec (.hostMap tierOffset tierSize winName winSize) s = .next { s with dev := d' } ∧
        Finished mgmtTill .ok none none s.dev d' ∧ d'.mem = s.dev.mem ∧ d'.homes = s.dev.homes ∧ d'.ctxs = s.dev.ctxs ∧
        d'.host.tierOffset.toNat = tierOffset.toNat ∧ d'.host.tierSize = tierSize.toNat ∧ d'.host.winSize = winSize.toNat ∧
        (winSize ≠ 0 → d'.host.winName.toNat = winName.toNat) ∧ d'.host.agreed = s.dev.host.agreed ∧ d'.host.rate = s.dev.host.rate)))

/-- STATUS_PEEK (R374): a page that is defined goes to REPLY or becomes the DOE reply, headed by its number and the generation
of the shape table; any other page is BAD_PARAM on the till. The host link and the mailbox (R347, R348, R350, R351, R488): the
link goes down or to 2.5 GT/s, or trains and the held records are written in order; a snoop is answered with RspIHitI and
changes nothing; discovery names the mailbox's objects; an attestation report begins with its magic and carries the nonce; no
certificate is given while the identity is bad; certificates, signatures and the CDAT bytes are open (log entry 24). -/
def Obligations.HostLinkAndMailbox : Prop :=
  (∀ (s : State) (page : BitVec 16) (reply : BitVec 64),
     (page.toNat ≤ 8 → executing s.dev mgmtTill 0x0002 = true →
       ∃ d' l, exec (.statusPeek page reply false) s = .next { s with dev := d' } ∧ Finished mgmtTill .ok none none s.dev d' ∧
         OnlyAnswer { s.dev with awning := d'.awning, host := { s.dev.host with writes := s.dev.host.writes ++ [(reply.toNat, l)] } } d' ∧
         leAt l 0 2 = page.toNat ∧ leAt l 8 8 = s.dev.shape.generation.toNat) ∧
     (8 < page.toNat → executing s.dev mgmtTill 0x0002 = true →
       ∃ d', exec (.statusPeek page reply false) s = .next { s with dev := d' } ∧ Finished mgmtTill .badParam none none s.dev d' ∧
         OnlyAnswer s.dev d') ∧
     (page.toNat ≤ 8 →
       ∃ d' l, exec (.statusPeek page reply true) s = .next { s with dev := d' } ∧
         { d' with awning := s.dev.awning, freeIdx := s.dev.freeIdx, host := s.dev.host } = s.dev ∧
         d'.host = { s.dev.host with doeReply := l } ∧ leAt l 0 2 = page.toNat ∧ leAt l 8 8 = s.dev.shape.generation.toNat)) ∧
  (∀ (s : State),
     (∀ slow, ∃ d', exec (.cxlLinkDown slow) s = .next { s with dev := d' } ∧
       d' = { s.dev with host := { s.dev.host with rate := if slow = true then 1 else 0 } }) ∧
     (∀ (rate : BitVec 3) (width : BitVec 5), 1 ≤ rate.toNat → rate.toNat ≤ 5 → Tab.wf ({} : Till) s.dev.tills = true →
       ∃ d', exec (.cxlLinkUp rate width) s = .next { s with dev := d' } ∧
         { d' with tills := s.dev.tills, host := s.dev.host } = s.dev ∧
         d'.host = { s.dev.host with
           rate := rate.toNat, width := width.toNat
           retrains := s.dev.host.retrains + if s.dev.shape.published = true then 1 else 0 } ∧
         ∀ n, cplRecords (d'.till n) = cplRecords (s.dev.till n) ∧ (d'.till n).cur = (s.dev.till n).cur ∧
           ((s.dev.till n).held.length ≤ 2 ^ (s.dev.till n).cplLog2.toNat - ((s.dev.till n).cplTail - (s.dev.till n).cplHead).toNat →
             (d'.till n).held = [])) ∧
     (∃ d', exec .cxlSnoop s = .next { s with dev := d' } ∧ { d' with host := s.dev.host } = s.dev ∧
       d'.host = { s.dev.host with snoops := s.dev.host.snoops + 1 }) ∧
     (∀ index : BitVec 8, ∃ d' l, exec (.doeDiscovery index) s = .next { s with dev := d' } ∧
       { d' with freeIdx := s.dev.freeIdx, host := s.dev.host } = s.dev ∧ d'.host = { s.dev.host with doeReply := l } ∧ l.length = 4 ∧
       (index = 0 → l = [0x01, 0x00, 0x00, 0x01]) ∧ (index = 1 → l = [0x98, 0x1E, 0x02, 0x02]) ∧
       (index = 2 → leAt l 2 1 = 1 ∧ leAt l 3 1 = 3) ∧ (index = 3 → leAt l 2 1 = 2 ∧ leAt l 3 1 = 0)) ∧
     (∃ d' l, exec .cdatAccess s = .next { s with dev := d' } ∧ { d' with freeIdx := s.dev.freeIdx, host := s.dev.host } = s.dev ∧
       d'.host = { s.dev.host with doeReply := l } ∧ l.length < 65536) ∧
     (∀ nonce, ∃ d' l, exec (.doeAttestation 1 0 nonce) s = .next { s with dev := d' } ∧
       { d' with freeIdx := s.dev.freeIdx, host := s.dev.host } = s.dev ∧ d'.host = { s.dev.host with doeReply := l } ∧
       leAt l 0 4 = 0x54545341 ∧ leAt l 4 2 = 1 ∧ leAt l 6 1 = 0x21 ∧ leAt l 8 32 = nonce.toNat ∧
       leAt l 40 32 = s.dev.sec.identity.toNat) ∧
     (∀ nonce, ∃ d' l, exec (.doeAttestation 0 0 nonce) s = .next { s with dev := d' } ∧
       { d' with freeIdx := s.dev.freeIdx, host := s.dev.host } = s.dev ∧ d'.host = { s.dev.host with doeReply := l } ∧
       (s.dev.sec.idBad = false → l.length = 8 + leAt l 0 4 + leAt l (4 + leAt l 0 4) 4) ∧ (s.dev.sec.idBad = true → l = [])))

/-- CODEC_POLL, STREAM_OPEN and STREAM_CLOSE (R385, R387 to R390, R402): a poll takes in the host line and writes the records
that find room; a request is acted on once, its outcome in the status line: a bad descriptor is BAD_PARAM, an open slot or one
that is not admitted BUSY; a close waits for the frame in progress. CODEC_JOB, CODEC_ROW_DONE and PICTURE_TIME_LIMIT (R386,
R388, R390 to R392, R398 to R401): a job is taken as JOB_HEAD moves, a bad one stops the stream, one of a closed stream
completes with RETRY; a row consumes its bytes, waits for those that are not there, or stops the stream where they cannot be
read; a decoded frame is converted, written and counted, and the job's last frame ends it; coded bytes go to the ring; a second
check mismatch within the window takes the unit out of service; a picture past its limit stops a bounded stream that does not
conceal. -/
def Obligations.CodecStreams : Prop :=
  (∀ (s : State) (u : DieId) (i : StreamId), (let x := s.dev.stream u.val i.val
     (∀ req reqSeq jobTail bsTail recHead,
       (areaServed s.dev = false ∨ cacheUp s.dev = false ∨ (s.dev.codec u.val).failed = true →
         exec (.codecPoll u i req reqSeq jobTail bsTail recHead) s = .next s) ∧
       (areaServed s.dev = true → cacheUp s.dev = true → (s.dev.codec u.val).failed = false →
         (let y := { x with req := req.toNat, reqSeq := reqSeq.toNat, jobTail := jobTail, bsTail := bsTail, recHead := recHead }
          (x.recs = [] → ∃ d', exec (.codecPoll u i req reqSeq jobTail bsTail recHead) s = .next { s with dev := d' } ∧
            OnlyStream u.val i.val s.dev d' ∧ LineShown u.val i.val d' ∧ d'.stream u.val i.val = y) ∧
          (∀ r, x.recs = [r] → (x.recTail - recHead).toNat < 256 →
            ∃ d', exec (.codecPoll u i req reqSeq jobTail bsTail recHead) s = .next { s with dev := d' } ∧
              OnlyStream u.val i.val s.dev d' ∧ LineShown u.val i.val d' ∧
              d'.stream u.val i.val = { y with recTail := x.recTail + 1, recs := [] } ∧
              rdBytes d' (areaOf u.val + 0x42000 + 0x2000 * i.val + 32 * (x.recTail.toNat % 256)) 32 =
                r.image (decide (x.recTail.toNat / 256 % 2 = 0)))))) ∧
     (∀ y : StreamDesc,
       (requested s.dev u.val i.val 1 = false → exec (.streamOpen u i y) s = .next s) ∧
       (requested s.dev u.val i.val 1 = true → (s.dev.codec u.val).failed = false →
         (descOk y = false ∨ placesOk s.dev y = false → ∃ d', exec (.streamOpen u i y) s = .next { s with dev := d' } ∧ OnlyStream u.val i.val s.dev d' ∧
           LineShown u.val i.val d' ∧ d'.stream u.val i.val = { x with doneSeq := x.reqSeq, reqStatus := 0x11 }) ∧
         (descOk y = true → placesOk s.dev y = true → x.state = 1 ∨ admitted s.dev u.val y = false →
           ∃ d', exec (.streamOpen u i y) s = .next { s with dev := d' } ∧ OnlyStream u.val i.val s.dev d' ∧
             LineShown u.val i.val d' ∧ d'.stream u.val i.val = { x with doneSeq := x.reqSeq, reqStatus := 0x01 }) ∧
         (descOk y = true → placesOk s.dev y = true → x.state ≠ 1 → admitted s.dev u.val y = true →
           ∃ d', exec (.streamOpen u i y) s = .next { s with dev := d' } ∧ OnlyStream u.val i.val s.dev d' ∧ LineShown u.val i.val d' ∧
             (let z := d'.stream u.val i.val
              z.state = 1 ∧ z.desc = some y ∧ z.doneSeq = x.reqSeq ∧ z.reqStatus = 0 ∧ z.stop = 0 ∧ z.jobHead = 0 ∧ z.bsHead = 0 ∧
                z.recTail = 0 ∧ z.job = none ∧ z.frames = 0 ∧ z.shown = 0 ∧ z.noRef = true)))) ∧
     (requested s.dev u.val i.val 2 = false → exec (.streamClose u i) s = .next s) ∧
     (requested s.dev u.val i.val 2 = true →
       (x.job ≠ none → ∃ d', exec (.streamClose u i) s = .next { s with dev := d' } ∧ OnlyStream u.val i.val s.dev d' ∧
         d'.stream u.val i.val = { x with closing := true }) ∧
       (x.job = none → ∃ d', exec (.streamClose u i) s = .next { s with dev := d' } ∧ OnlyStream u.val i.val s.dev d' ∧
         LineShown u.val i.val d' ∧
         d'.stream u.val i.val = { x with state := 0, stop := 1, closing := false, doneSeq := x.reqSeq, reqStatus := 0 })))) ∧
  (∀ (s : State) (u : DieId) (i : StreamId), (let x := s.dev.stream u.val i.val
     let c := s.dev.codec u.val
     (∀ j : Job,
       (areaServed s.dev = false ∨ cacheUp s.dev = false ∨ c.failed = true ∨ x.jobHead = x.jobTail ∨ x.job ≠ none ∨ x.recs ≠ [] →
         exec (.codecJob u i j) s = .next s) ∧
       (areaServed s.dev = true → cacheUp s.dev = true → c.failed = false → x.jobHead ≠ x.jobTail → x.job = none → x.recs = [] →
         (∀ y, x.state = 1 → x.desc = some y →
           (jobBad y j = true → ∃ d', exec (.codecJob u i j) s = .next { s with dev := d' } ∧ OnlyStream u.val i.val s.dev d' ∧
             Stopped u.val i.val 7 d' ∧ LineShown u.val i.val d' ∧ (d'.stream u.val i.val).jobHead = x.jobHead + 1) ∧
           (jobBad y j = false → c.held.length < 4096 → ∃ d', exec (.codecJob u i j) s = .next { s with dev := d' } ∧
             OnlyStream u.val i.val s.dev d' ∧ LineShown u.val i.val d' ∧
             d'.stream u.val i.val = { x with jobHead := x.jobHead + 1, job := some j })) ∧
         (∀ y, x.state = 0 → x.desc = some y → (x.recTail - x.recHead).toNat < 256 →
           ∃ d', exec (.codecJob u i j) s = .next { s with dev := d' } ∧ OnlyStream u.val i.val s.dev d' ∧ LineShown u.val i.val d' ∧
             d'.stream u.val i.val = { x with jobHead := x.jobHead + 1, recTail := x.recTail + 1 } ∧
             rdNat d' (areaOf u.val + 0x42000 + 0x2000 * i.val + 32 * (x.recTail.toNat % 256)) 4 = j.seq.toNat ∧
             rdByte d' (areaOf u.val + 0x42000 + 0x2000 * i.val + 32 * (x.recTail.toNat % 256) + 4) = 0x03))) ∧
     (∀ y (j : Job), x.desc = some y → x.job = some j → x.state = 1 → c.failed = false →
       (c.pixel = none ∨ c.pixel = some i.val →
         (∀ n, y.encode = false → n ≤ (x.bsTail - x.bsHead).toNat → readsStop s.dev y (rowReads y x j n .partialRow) = none →
           ∃ d', exec (.codecRowDone u i true n .partialRow) s = .next { s with dev := d' } ∧
           { d' with codecs := s.dev.codecs } = s.dev ∧
           d'.stream u.val i.val = { x with bsHead := x.bsHead + BitVec.ofNat 32 n, bytes := x.bytes + n } ∧
           (d'.codec u.val).turns = c.turns + 1 ∧ Tab.get 0 (d'.codec u.val).ranPixel i.val = c.turns + 1) ∧
         (∀ n, y.encode = false → (x.bsTail - x.bsHead).toNat < n → exec (.codecRowDone u i true n .partialRow) s = .next s) ∧
         (∀ n reason st code, y.encode = false → n ≤ (x.bsTail - x.bsHead).toNat → (x.recTail - x.recHead).toNat < 256 →
           readsStop s.dev y (rowReads y x j n .partialRow) = some (reason, st, code) →
           ∃ d', exec (.codecRowDone u i true n .partialRow) s = .next { s with dev := d' } ∧ Stopped u.val i.val reason d') ∧
         (∀ (f : Picture) (fm : Fmt) v n, y.encode = false → n ≤ (x.bsTail - x.bsHead).toNat →
           readsStop s.dev y (rowReads y x j n (.frame f false)) = none → y.space = 2 → y.analysis = false → y.crop.getD 2 0 = 0 → x.frames = 0 →
           x.closing = false → j.frames = 1 → f.width = 1 → f.height = 1 → f.planes = [[v]] → beyond y f = false →
           Fmt.ofCode y.fmt.toNat = some fm →
           (∀ k, k < fm.bits / 8 → ∃ q, placeOf (j.data.toNat + k) = .localStore q ∧
             inLocalWindow (s.dev.ctx y.ctx).theProg (j.data.toNat + k) = true) →
           (let full := if y.range = 0 then f.fullRange else y.range == 2
            let luma := normalise (lumaNorm f.depth full) v
            let value := fp32 (Machine.Num.add (Machine.Num.mul luma (ofBits (y.gain.getD 0 0).toNat)) (ofBits (y.bias.getD 0 0).toNat))
            ∃ d', exec (.codecRowDone u i true n (.frame f false)) s = .next { s with dev := d' } ∧
              rdNat d' j.data.toNat (fm.bits / 8) = fm.encode true value % 2 ^ (8 * (fm.bits / 8)) ∧
              (d'.stream u.val i.val).state = 1 ∧ (d'.stream u.val i.val).job = none ∧
              (d'.stream u.val i.val).shown = x.shown + 1 ∧ (d'.stream u.val i.val).lastOut = some f ∧
              (d'.stream u.val i.val).noRef = false ∧ (d'.codec u.val).frames = min (c.frames + 1) (2 ^ 24 - 1) ∧
              d'.homes = s.dev.homes)) ∧
         (∀ b, y.encode = true → readsStop s.dev y (rowReads y x j 0 (.coded [b] true)) = none → y.subframe = false → x.buf = [] → x.closing = false → x.frames + 1 < j.frames.toNat → j.arrive = 0 →
           (x.bsHead - x.bsTail).toNat + 1 ≤ y.bsSize.toNat →
           (let a := y.bsRing.toNat + x.bsHead.toNat % y.bsSize.toNat
            (∃ q, placeOf a = .localStore q) → inLocalWindow (s.dev.ctx y.ctx).theProg a = true →
            ∃ d', exec (.codecRowDone u i true 0 (.coded [b] true)) s = .next { s with dev := d' } ∧ rdByte d' a = b ∧
              (d'.stream u.val i.val).bsHead = x.bsHead + 1 ∧ (d'.stream u.val i.val).frames = x.frames + 1 ∧
              (d'.stream u.val i.val).job = some j ∧ LineShown u.val i.val d')) ∧
         ((∀ w, c.mismatchAt = some w → w + failWindow s.dev < s.dev.wall) →
           ∃ d', exec (.codecRowDone u i true 0 .mismatch) s = .next { s with dev := d' } ∧ { d' with codecs := s.dev.codecs, err := s.dev.err, freeIdx := s.dev.freeIdx } = s.dev ∧ Recorded 0 3 1 s.dev d' ∧
             (d'.codec u.val).retries = min (c.retries + 1) 255 ∧ (d'.codec u.val).mismatchAt = some s.dev.wall ∧
             (d'.codec u.val).failed = false ∧ ∀ k, d'.stream u.val k = s.dev.stream u.val k) ∧
         (∀ w, c.mismatchAt = some w → s.dev.wall ≤ w + failWindow s.dev →
           ∃ d', exec (.codecRowDone u i true 0 .mismatch) s = .next { s with dev := d' } ∧ Recorded 0 3 15 s.dev d' ∧
             (d'.codec u.val).failed = true ∧
             (s.dev.evt.retention = none → (d'.src (328 + u.val)).pend = true) ∧
             ∀ k, k < 16 → (s.dev.stream u.val k).state = 1 → Stopped u.val k 10 d')) ∧
       (y.bounded = false → exec (.pictureTimeLimit u i) s = .next s) ∧
       (y.bounded = true → y.conceals = false → ∃ d', exec (.pictureTimeLimit u i) s = .next { s with dev := d' } ∧
         OnlyStream u.val i.val s.dev d' ∧ Stopped u.val i.val 3 d' ∧ (d'.codec u.val).abandoned = min (c.abandoned + 1) 255))))

/-- The lease (R405, R407 to R410): a beat of both criers of the holder renews it; on expiry its criers stop being targets and a
standing request opens the window; at the window's end A holds it if A has requested, otherwise B; a yield passes it to the
other complex if that requests, and is ignored if not; a yield from a complex without the lease is dropped and counted. What the
old holder had begun ends with RETRY. -/
def Obligations.LeaseIsHeld : Prop :=
  ∀ (s : State),
    (∀ c : CrierId, (s.dev.crier c).state = 2 →
      ∃ d', exec (.heartbeat c) s = .next { s with dev := d' } ∧ { d' with criers := s.dev.criers, lease := s.dev.lease } = s.dev ∧
        (∀ x, d'.crier x = if x = c then { s.dev.crier c with lastBeat := some s.dev.wall } else s.dev.crier x) ∧
        { d'.lease with lastRenewal := s.dev.lease.lastRenewal } = s.dev.lease ∧
        (s.dev.lease.valid = false → d'.lease = s.dev.lease) ∧
        ∀ (o : CrierId) w, s.dev.lease.valid = true → c.val ∈ (complexCriers s.dev.lease.holderB).map (·.val) →
          o.val ∈ (complexCriers s.dev.lease.holderB).map (·.val) → o ≠ c → (s.dev.crier o).lastBeat = some w →
          d'.lease.lastRenewal = if s.dev.wall ≤ w + 3300000 then some s.dev.wall else s.dev.lease.lastRenewal) ∧
    (s.dev.lease.valid = true →
      ∃ d', exec .leaseExpiry s = .next { s with dev := d' } ∧ { d' with lease := s.dev.lease, evt := s.dev.evt } = s.dev ∧
        d'.lease = { s.dev.lease with valid := false, window := s.dev.lease.reqA || s.dev.lease.reqB } ∧
        GivenBack ((complexCriers s.dev.lease.holderB).map (·.val)) s.dev d') ∧
    (∀ b, complexRunning s.dev b = true →
      ∃ d', exec (.leaseRequest b) s = .next { s with dev := d' } ∧ { d' with lease := s.dev.lease } = s.dev ∧
        d'.lease = { s.dev.lease with
          reqA := s.dev.lease.reqA || !b, reqB := s.dev.lease.reqB || b, window := s.dev.lease.window || !s.dev.lease.valid }) ∧
    (s.dev.lease.window = true → (s.dev.lease.reqA || s.dev.lease.reqB) = true →
      ∃ d', exec .contentionWindowEnd s = .next { s with dev := d' } ∧ Granted (!s.dev.lease.reqA) s.dev d' ∧ Retried s.dev d' ∧
        d'.mem = s.dev.mem ∧ d'.seq = s.dev.seq ∧ d'.cores = s.dev.cores) ∧
    (∀ c, leads s.dev c = true →
      ((if s.dev.lease.holderB then s.dev.lease.reqA else s.dev.lease.reqB) = false →
        exec (.leaseYield (.crier c)) s = .next s) ∧
      ((if s.dev.lease.holderB then s.dev.lease.reqA else s.dev.lease.reqB) = true →
        ∃ d', exec (.leaseYield (.crier c)) s = .next { s with dev := d' } ∧ Granted (!s.dev.lease.holderB) s.dev d' ∧
          Retried s.dev d' ∧ d'.mem = s.dev.mem ∧ d'.seq = s.dev.seq ∧ d'.cores = s.dev.cores)) ∧
    (∀ c : CrierId, c.val < 4 → leads s.dev c = false →
      exec (.leaseYield (.crier c)) s = .next { s with dev := { s.dev with
        logged := s.dev.logged + 1, lease := { s.dev.lease with demotions := min (s.dev.lease.demotions + 1) 65535 } } }) ∧
    (s.dev.lease.mirrorApplied < s.dev.lease.mirrorWritten →
      (∃ c ∈ complexCriers (!s.dev.lease.holderB), (s.dev.crier c).state = 2) →
      exec .mirrorApply s = .next { s with dev := { s.dev with
        lease := { s.dev.lease with mirrorApplied := s.dev.lease.mirrorApplied + 1 } } })

/-- CRIER_WATCHDOG_EXPIRY, CRIER_CRASH and CRIER_RESTORED (R411, R412, R417, R425, R435): a crier that crashes is reset and
counted, is no target any more, requests no lease and is named by an error record and source 67, and with a die crier its ports'
identity exchanges end; a crash of the standby in Standby boot ends the update with RETRY; a crier restored runs and enables its
deliveries, a REPAIR_STACK on a die crier's die ends with RETRY and waits for its journal, and in the Dies phase the next die
crier restarts. HUB_BOOT, DIE_CRIER_BOOT and RECOVERY_PACKAGE_LOAD (R413, R480 to R485, R487): a complex whose ROM digest is
right extends slot 0 and boots the bank of boot select if its package passes, the other bank if that one passes, and stays in
the ROM in recovery if neither does; a fused security version below the ledger's copy is raised to it; a die crier boots the
active bank's die image; only a package that verifies is loaded in recovery. -/
def Obligations.CriersAndBoot : Prop :=
  (∀ (s : State) (c : CrierId),
     ((s.dev.crier c).state ≠ 0 → (s.dev.crier c).state ≠ 4 →
       ∃ d', exec (.crierWatchdogExpiry c) s = .next { s with dev := d' } ∧ exec (.crierCrash c) s = .next { s with dev := d' } ∧
         CriersAre [c] 4 none s.dev d' ∧ d'.evt.enabled = s.dev.evt.enabled &&& ~~~(BitVec.ofNat 8 (2 ^ c.val)) ∧
         d'.lease.restarts = min (s.dev.lease.restarts + 1) (2 ^ 32 - 1) ∧
         (c.val < 4 → (if 2 ≤ c.val then d'.lease.reqB else d'.lease.reqA) = false) ∧
         Recorded 8 (if c.val < 4 then 4 else 3) (if leads s.dev c then 11 else 12) s.dev d' ∧
         (s.dev.evt.retention = none → (d'.src 67).pend = true) ∧
         (s.dev.evt.enabled.getLsbD c.val = true → s.dev.fw.phase ≠ 3 →
           Tab.get [] d'.evt.queues c.val = [] ∧ ∀ n, n ≠ 67 → (c.val < 4 ∨ n < 304 ∨ 328 ≤ n) → d'.src n =
             if (s.dev.src n).active = true ∧ (s.dev.src n).next = c.val then { s.dev.src n with active := false } else s.dev.src n) ∧
         (c.val < 4 → s.dev.fw.phase = 3 → decide (2 ≤ c.val) ≠ s.dev.fw.fromB → (s.dev.till mgmtTill).cur ≠ none →
           Finished mgmtTill .retry none none s.dev d' ∧ d'.fw = { s.dev.fw with phase := 0 }) ∧
         (∀ p : PortId, c.val = 4 + p.val / 6 → (s.dev.port p.val).state = 2 → s.dev.fabric.state ≠ 3 → (d'.port p.val).state = 1) ∧
         d'.mem = s.dev.mem ∧ d'.ctxs = s.dev.ctxs ∧ d'.seq = s.dev.seq) ∧
     ((s.dev.crier c).state ≠ 0 → (s.dev.crier c).state ≠ 2 →
       ∃ d', exec (.crierRestored c) s = .next { s with dev := d' } ∧ d'.mem = s.dev.mem ∧ d'.ctxs = s.dev.ctxs ∧
         d'.evt.enabled.getLsbD c.val = true ∧ (d'.crier c).state = 2 ∧ (d'.crier c).lastBeat = some s.dev.wall ∧
         (s.dev.host.test = none ∧ s.dev.repair.step = 0 → s.dev.fw.phase ≠ 10 ∨ c.val < 4 → CriersAre [c] 2 none s.dev d' ∧ d'.fw = s.dev.fw ∧
           d'.evt = { s.dev.evt with enabled := s.dev.evt.enabled ||| BitVec.ofNat 8 (2 ^ c.val) }) ∧
         (∀ x : DieId, c.val = 4 + x.val → s.dev.host.test = none → s.dev.repair.step ≠ 0 → s.dev.repair.cut = false →
           s.dev.repair.stack / 3 = x.val → (s.dev.till mgmtTill).cur ≠ none → s.dev.fw.phase = 0 →
           Finished mgmtTill .retry none none s.dev d' ∧ d'.repair = { s.dev.repair with cut := true }) ∧
         (s.dev.host.test = none ∧ s.dev.repair.step = 0 → s.dev.fw.phase = 10 → ∀ n : CrierId, 4 ≤ c.val → n.val = c.val + 1 → (d'.crier n).state = 1 ∧
           d'.evt.enabled.getLsbD n.val = false ∧ d'.fw = s.dev.fw) ∧
         (s.dev.host.test = none ∧ s.dev.repair.step = 0 → s.dev.fw.phase = 10 → c.val = 7 → (s.dev.till mgmtTill).cur ≠ none →
           Finished mgmtTill .ok none (some (activeVersion s.dev).toNat) s.dev d' ∧ d'.fw = { s.dev.fw with phase := 0 }))) ∧
  (∀ (s : State),
     (∀ b rom bank0 bank1 p q, rom = s.dev.sec.romDigest →
       s.dev.bank (if s.dev.fw.phase = 3 ∧ b ≠ s.dev.fw.fromB then !s.dev.fw.activeBank else s.dev.fw.activeBank) = some p →
       s.dev.bank (if s.dev.fw.phase = 3 ∧ b ≠ s.dev.fw.fromB then s.dev.fw.activeBank else !s.dev.fw.activeBank) = some q →
       ∃ d', exec (.hubBoot b rom bank0 bank1) s = .next { s with dev := d' } ∧ Extended b 0 (leBytes 32 rom.toNat) s.dev d' ∧
         d'.fw.banks = s.dev.fw.banks ∧ d'.mem = s.dev.mem ∧ d'.ctxs = s.dev.ctxs ∧ d'.lease = s.dev.lease ∧
         (bankBoots s.dev p.image = true →
           CriersAre (complexCriers b) 3 (some p.image.version) s.dev d' ∧ d'.sec.recovery = false ∧ d'.fw = s.dev.fw ∧
           d'.sec.svn = max s.dev.sec.svn s.dev.ledger.arSvn ∧
           Extended b 2 (leBytes 32 p.image.hubDigest.toNat) s.dev d' ∧ d'.evt = s.dev.evt) ∧
         (bankBoots s.dev p.image = false → bankBoots s.dev q.image = true →
           CriersAre (complexCriers b) 3 (some q.image.version) s.dev d' ∧ d'.sec.recovery = false ∧ d'.sec.fallback = true ∧
           d'.fw = { s.dev.fw with activeBank :=
             if s.dev.fw.phase = 3 ∧ b ≠ s.dev.fw.fromB then s.dev.fw.activeBank else !s.dev.fw.activeBank } ∧
           (s.dev.evt.retention = none → (d'.src 65).pend = true)) ∧
         (bankBoots s.dev p.image = false → bankBoots s.dev q.image = false →
           d'.criers = s.dev.criers ∧ d'.sec.recovery = true ∧ d'.fw = s.dev.fw ∧ d'.evt = s.dev.evt)) ∧
     (∀ b rom bank0 bank1, rom ≠ s.dev.sec.romDigest → exec (.hubBoot b rom bank0 bank1) s = .next s) ∧
     (∀ (x : DieId) img digest p c, s.dev.bank s.dev.fw.activeBank = some p → c.val = 4 + x.val →
       (packageCheck s.dev p.image = none ∧ digest = p.image.dieDigest ∧ max s.dev.sec.svn s.dev.ledger.arSvn ≤ p.image.svn →
         ∃ d', exec (.dieCrierBoot x img digest) s = .next { s with dev := d' } ∧
           { d' with criers := s.dev.criers, sec := s.dev.sec } = s.dev ∧ CriersAre [c] 3 (some p.image.version) s.dev d' ∧
           ∀ b, Extended b 3 (leBytes 32 digest.toNat) s.dev d') ∧
       (packageCheck s.dev p.image ≠ none ∨ digest ≠ p.image.dieDigest ∨ p.image.svn < max s.dev.sec.svn s.dev.ledger.arSvn →
         exec (.dieCrierBoot x img digest) s = .next s)) ∧
     (∀ img, s.dev.sec.recovery = true →
       (packageCheck s.dev img = none ∧ max s.dev.sec.svn s.dev.ledger.arSvn ≤ img.svn →
         ∃ d' p, exec (.recoveryPackageLoad img) s = .next { s with dev := d' } ∧ d'.bank false = some p ∧ p.image = img ∧
           d'.bank true = s.dev.bank true ∧ { d' with fw := s.dev.fw } = s.dev) ∧
       (packageCheck s.dev img ≠ none ∨ img.svn < max s.dev.sec.svn s.dev.ledger.arSvn →
         exec (.recoveryPackageLoad img) s = .next s)))

/-- FW_STAGE (R413, R481): the first failing check decides the status, a package that passes all is in the inactive bank with
its validity mark and its version is the result; the active bank is never touched. FW_ACTIVATE and its phases, EMERGENCY_CLEAR,
FW_DEFER_EXPIRY and SVN_RAISE (R414 to R417, R484): Check refuses, defers in an emergency, or boots the standby; Standby boot,
Quiesce ends what has begun on the task tills with RETRY; Quiesce, Adopt, Commit and Rejoin go on to the next phase or end as
R415 and R417 say; a deferred activation proceeds once no emergency is left, or ends with BUSY; the fused security version rises
only after the ledger's copy has been committed. -/
def Obligations.FirmwareIsUpdated : Prop :=
  (∀ (s : State) (i : BankImage) (bytes : BitVec 64) (digest actual : BitVec 256) (writeOk : Bool) (kib : Nat) (holdup : BitVec 10),
     executing s.dev mgmtTill 0x0030 = true →
     ∃ d', exec (.fwStage i bytes digest actual writeOk kib holdup) s = .next { s with dev := d' } ∧
       d'.bank s.dev.fw.activeBank = s.dev.bank s.dev.fw.activeBank ∧ d'.fw.activeBank = s.dev.fw.activeBank ∧
       d'.fw.phase = s.dev.fw.phase ∧ d'.mem = s.dev.mem ∧ d'.ctxs = s.dev.ctxs ∧ d'.criers = s.dev.criers ∧ d'.sec = s.dev.sec ∧
       (let good := 1 ≤ bytes.toNat ∧ bytes.toNat ≤ 25165824 ∧ (digest = 0 ∨ digest = actual)
        let fresh := max s.dev.sec.svn s.dev.ledger.arSvn ≤ i.svn
        (¬good → Finished mgmtTill .badParam none none s.dev d' ∧ d'.fw = s.dev.fw) ∧
        (good → ∀ st, packageCheck s.dev i = some st → Finished mgmtTill st none none s.dev d' ∧ d'.fw = s.dev.fw) ∧
        (good → packageCheck s.dev i = none →
          (¬fresh → Finished mgmtTill .imageRollback none none s.dev d' ∧ d'.fw = s.dev.fw) ∧
          (fresh → writeOk = false → Finished mgmtTill .internal none none s.dev d' ∧ d'.fw.staged = false ∧
            d'.bank (!s.dev.fw.activeBank) = none) ∧
          (fresh → writeOk = true → 10 * holdup.toNat < 96 + 6 * kib → Finished mgmtTill .holdupLow none none s.dev d' ∧
            d'.fw.staged = false ∧ ∃ p, d'.bank (!s.dev.fw.activeBank) = some p ∧ p.image = i ∧ p.marked = false) ∧
          (fresh → writeOk = true → 96 + 6 * kib ≤ 10 * holdup.toNat →
            Finished mgmtTill .ok none (some i.version.toNat) s.dev d' ∧ d'.fw.staged = true ∧ d'.fw.stagedVersion = i.version ∧
            d'.ledger.commits = s.dev.ledger.commits + 1 ∧
            ∃ p, d'.bank (!s.dev.fw.activeBank) = some p ∧ p.image = i ∧ p.marked = true)))) ∧
  (∀ (s : State),
     (∀ version, executing s.dev mgmtTill 0x0031 = true → s.dev.fw.phase = 0 →
       ∃ d', exec (.fwActivate version) s = .next { s with dev := d' } ∧ d'.mem = s.dev.mem ∧ d'.ctxs = s.dev.ctxs ∧
         d'.fw.banks = s.dev.fw.banks ∧ d'.fw.activeBank = s.dev.fw.activeBank ∧
         (s.dev.fw.staged = false ∨ (version ≠ 0 ∧ version ≠ s.dev.fw.stagedVersion) →
           Finished mgmtTill .badParam none none s.dev d' ∧ d'.fw = s.dev.fw) ∧
         (s.dev.fw.staged = true → version = 0 ∨ version = s.dev.fw.stagedVersion →
           (emergency s.dev = true → Deferred mgmtTill s.dev d' ∧ d'.fw.phase = 1 ∧ d'.criers = s.dev.criers) ∧
           (emergency s.dev = false → d'.tills = s.dev.tills ∧ d'.fw.phase = 3 ∧ d'.fw.fromB = s.dev.lease.holderB ∧
             CriersAre (complexCriers (!s.dev.lease.holderB)) 1 none s.dev d'))) ∧
     (s.dev.fw.phase = 3 → (s.dev.till mgmtTill).cur ≠ none →
       (∃ d', exec (.fwStandbyBooted true) s = .next { s with dev := d' } ∧ d'.fw = { s.dev.fw with phase := 4 } ∧
         CriersAre (complexCriers (!s.dev.fw.fromB)) 2 (some s.dev.fw.stagedVersion) s.dev d' ∧
         d'.lease.mirrorApplied = s.dev.lease.mirrorWritten ∧ d'.mem = s.dev.mem ∧ d'.tills = s.dev.tills) ∧
       (∃ d', exec (.fwStandbyBooted false) s = .next { s with dev := d' } ∧ d'.fw = { s.dev.fw with phase := 0 } ∧
         Finished mgmtTill .retry none none s.dev d' ∧ d'.criers = s.dev.criers ∧ d'.mem = s.dev.mem)) ∧
     (s.dev.fw.phase = 4 → (s.dev.till mgmtTill).cur ≠ none →
       ∃ d', exec .fwQuiesced s = .next { s with dev := d' } ∧ d'.mem = s.dev.mem ∧
         (∀ t, (s.dev.ctx t).phase ≠ .starting → d'.till (taskTill t) = s.dev.till (taskTill t) ∧
           d'.ctx t = s.dev.ctx t) ∧
         (∀ t, (s.dev.ctx t).phase = .starting → (d'.ctx t).phase = .idle ∧ ((s.dev.till (taskTill t)).cur ≠ none →
           (s.dev.till (taskTill t)).aborts = [] → Finished (taskTill t) .retry none none s.dev d')) ∧
         (emergency s.dev = true → Deferred mgmtTill s.dev d' ∧ d'.fw = { s.dev.fw with phase := 1 } ∧ d'.lease = s.dev.lease) ∧
         (emergency s.dev = false → s.dev.lease.valid = true →
           (if s.dev.lease.holderB then s.dev.lease.reqA else s.dev.lease.reqB) = true →
           d'.fw = { s.dev.fw with phase := 7 } ∧ d'.till mgmtTill = s.dev.till mgmtTill ∧ Granted (!s.dev.lease.holderB) s.dev d')) ∧
     (s.dev.fw.phase = 7 → (s.dev.till mgmtTill).cur ≠ none →
       (∃ d', exec (.fwAdopt true) s = .next { s with dev := d' } ∧ d'.fw = { s.dev.fw with phase := 8 } ∧
         d'.tills = s.dev.tills ∧ d'.mem = s.dev.mem) ∧
       (∃ d', exec (.fwAdopt false) s = .next { s with dev := d' } ∧ d'.fw = { s.dev.fw with phase := 0 } ∧
         Finished mgmtTill .internal (some 1) none s.dev d' ∧ Granted s.dev.fw.fromB s.dev d' ∧
         CriersAre (complexCriers (!s.dev.fw.fromB)) 1 none s.dev d' ∧ d'.mem = s.dev.mem)) ∧
     (∀ kib (holdup : BitVec 10), s.dev.fw.phase = 8 →
       (96 + 6 * kib ≤ 10 * holdup.toNat → ∃ d', exec (.fwBankCommit kib holdup) s = .next { s with dev := d' } ∧ d'.fw.phase = 9 ∧
         d'.fw.activeBank = !s.dev.fw.activeBank ∧ d'.fw.staged = false ∧ d'.fw.banks = s.dev.fw.banks ∧
         d'.ledger.arBank = d'.fw.activeBank ∧ d'.ledger.commits = s.dev.ledger.commits + 1 ∧
         CriersAre (complexCriers s.dev.fw.fromB) 1 none s.dev d' ∧ d'.mem = s.dev.mem) ∧
       (10 * holdup.toNat < 96 + 6 * kib → ∃ d', exec (.fwBankCommit kib holdup) s = .next { s with dev := d' } ∧ d'.fw = s.dev.fw ∧
         d'.ledger.pending = s.dev.ledger.pending ++ [(.antiRollback, kib)] ∧ d'.ledger.commits = s.dev.ledger.commits)) ∧
     (s.dev.fw.phase = 9 →
       ∃ d', exec .fwRejoinDone s = .next { s with dev := d' } ∧ d'.fw = { s.dev.fw with phase := 10 } ∧ (d'.crier 4).state = 1 ∧
         (∀ c ∈ complexCriers s.dev.fw.fromB, (d'.crier c).state = 2 ∧ (d'.crier c).version = activeVersion s.dev) ∧
         d'.mem = s.dev.mem ∧ d'.tills = s.dev.tills) ∧
     (s.dev.fw.phase = 1 → (s.dev.till mgmtTill).cur ≠ none →
       (emergency { s.dev with pwr := { s.dev.pwr with lastWarning := none, lastLimit := none } } = false →
         ∃ d', exec .emergencyClear s = .next { s with dev := d' } ∧ d'.fw = { s.dev.fw with phase := 3, fromB := s.dev.lease.holderB } ∧
           (d'.till mgmtTill).deferred = false ∧ CriersAre (complexCriers (!s.dev.lease.holderB)) 1 none s.dev d') ∧
       (∃ d', exec .fwDeferExpiry s = .next { s with dev := d' } ∧ d'.fw = { s.dev.fw with phase := 0 } ∧
         Finished mgmtTill .busy (some 5) none s.dev d' ∧ d'.criers = s.dev.criers)) ∧
     (∀ p kib (holdup : BitVec 10), s.dev.bank s.dev.fw.activeBank = some p → p.image.raise = true → s.dev.sec.svn < p.image.svn →
       (96 + 6 * kib ≤ 10 * holdup.toNat → ∃ d', exec (.svnRaise kib holdup) s = .next { s with dev := d' } ∧
         d'.sec.svn = p.image.svn ∧ d'.ledger.arSvn = p.image.svn ∧ d'.ledger.commits = s.dev.ledger.commits + 1 ∧
         (∀ k, k < 4 → d'.sec.revoked.getLsbD k = (s.dev.sec.revoked.getLsbD k || (p.image.revoke && decide (k < p.slot)))) ∧
         d'.fw = s.dev.fw ∧ d'.mem = s.dev.mem) ∧
       (10 * holdup.toNat < 96 + 6 * kib → ∃ d', exec (.svnRaise kib holdup) s = .next { s with dev := d' } ∧ d'.sec = s.dev.sec ∧
         d'.ledger.arSvn = s.dev.ledger.arSvn ∧ d'.ledger.pending = s.dev.ledger.pending ++ [(.antiRollback, kib)])))

/-- Commits (R421 to R424): one whose hold-up check passes writes its region and is counted, one that fails waits, and the
oldest that waits is tried again; a half three-quarters full is compacted into the other; LEDGER_COMMIT answers the commits made
and the KiB written, or HOLDUP_LOW. LEDGER_RESTORE at start-up (R424, R473), no port up: each region with a valid commit
restores its fields, a field whose region has none takes its factory value, and then FACTORY is set. -/
def Obligations.LedgerCommitsAndRestores : Prop :=
  (∀ (s : State),
     (∀ r kib (holdup : BitVec 10),
       ∃ d', exec (.firmwareCommit r kib holdup) s = .next { s with dev := d' } ∧ d'.mem = s.dev.mem ∧ d'.ctxs = s.dev.ctxs ∧
         d'.cfg = s.dev.cfg ∧ d'.evt = s.dev.evt ∧ d'.ledger.energy = holdup.toNat ∧
         (96 + 6 * kib ≤ 10 * holdup.toNat →
           d'.ledger.commits = s.dev.ledger.commits + 1 ∧ d'.ledger.pending = s.dev.ledger.pending ∧
           (∀ x, Tab.get ({} : LedgerRegion) d'.ledger.regions (regionKey x) =
             let old := Tab.get ({} : LedgerRegion) s.dev.ledger.regions (regionKey x)
             if x = r then { old with valid := true, usedKib := old.usedKib + kib } else old) ∧
           d'.ledger.config = (if r = .config then s.dev.cfg else s.dev.ledger.config) ∧
           d'.ledger.counters = (if r = .counters then { lifetime := s.dev.err.lifetime, exposedMs := s.dev.err.exposedMs }
             else s.dev.ledger.counters) ∧
           d'.ledger.maps.clusters = (if r = .maps then s.dev.clusters else s.dev.ledger.maps.clusters) ∧
           d'.ledger.arBank = (if r = .antiRollback then s.dev.fw.activeBank else s.dev.ledger.arBank) ∧
           d'.repair.journal = s.dev.repair.journal ++ (if r = .journal then s.dev.repair.unwritten else []) ∧
           d'.ledger.errorLog = s.dev.ledger.errorLog ++
             (if r = .errorLog then s.dev.err.ring.drop (s.dev.err.ring.length - s.dev.err.waiting) else []) ∧
           d'.err.waiting = (if r = .errorLog then 0 else s.dev.err.waiting)) ∧
         (10 * holdup.toNat < 96 + 6 * kib → d'.ledger.pending = s.dev.ledger.pending ++ [(r, kib)] ∧
           d'.ledger.regions = s.dev.ledger.regions ∧ d'.ledger.commits = s.dev.ledger.commits ∧ d'.ledger.low = true)) ∧
     (∀ r kib rest (holdup : BitVec 10), s.dev.ledger.pending = (r, kib) :: rest → r ≠ .antiRollback ∨ s.dev.fw.phase ≠ 8 →
       ∃ d', exec (.pendingCommitRetry holdup) s = .next { s with dev := d' } ∧ d'.mem = s.dev.mem ∧
         (96 + 6 * kib ≤ 10 * holdup.toNat → d'.ledger.pending = rest ∧ d'.ledger.commits = s.dev.ledger.commits + 1 ∧
           (Tab.get ({} : LedgerRegion) d'.ledger.regions (regionKey r)).valid = true) ∧
         (10 * holdup.toNat < 96 + 6 * kib → d'.ledger.pending = s.dev.ledger.pending ∧
           d'.ledger.regions = s.dev.ledger.regions ∧ d'.ledger.commits = s.dev.ledger.commits)) ∧
     (∀ r, (let old := Tab.get ({} : LedgerRegion) s.dev.ledger.regions (regionKey r)
       halfKib r ≠ 0 → 3 * halfKib r ≤ 4 * old.usedKib →
       ∃ d' new, exec (.ledgerCompaction r) s = .next { s with dev := d' } ∧ d'.mem = s.dev.mem ∧
         d'.ledger.commits = s.dev.ledger.commits + 1 ∧ new.valid = true ∧ new.half = !old.half ∧ new.usedKib ≤ old.usedKib ∧
         (∀ x, Tab.get ({} : LedgerRegion) d'.ledger.regions (regionKey x) =
           if x = r then new else Tab.get ({} : LedgerRegion) s.dev.ledger.regions (regionKey x)) ∧
         d'.ledger.config = s.dev.ledger.config ∧ d'.ledger.counters = s.dev.ledger.counters)) ∧
     (∀ kib : List Nat, ∀ holdup, executing s.dev mgmtTill 0x0032 = true →
       (∀ n h, kib = [n] → holdup = [h] → n ≤ 224 →
         ∃ d', exec (.ledgerCommit 1 kib holdup) s = .next { s with dev := d' } ∧ d'.mem = s.dev.mem ∧ d'.cfg = s.dev.cfg ∧
           (96 + 6 * n ≤ 10 * h.toNat → Finished mgmtTill .ok none (some (1 + 256 * n)) s.dev d' ∧ d'.ledger.config = s.dev.cfg ∧
             d'.ledger.commits = s.dev.ledger.commits + 1) ∧
           (10 * h.toNat < 96 + 6 * n → Finished mgmtTill .holdupLow none (some 0) s.dev d' ∧
             d'.ledger.config = s.dev.ledger.config ∧ d'.ledger.commits = s.dev.ledger.commits)) ∧
       (∀ n h, kib = [n] → holdup = [h] → n ≤ 224 → 96 + 6 * n ≤ 10 * h.toNat →
         (∃ d', exec (.ledgerCommit 2 kib holdup) s = .next { s with dev := d' } ∧
           Finished mgmtTill .ok none (some (1 + 256 * n)) s.dev d' ∧
           ∀ t p, (s.dev.ctx t).prog = some p → ∃ e ∈ d'.ledger.policy, e.1 = p.digest) ∧
         (∃ d', exec (.ledgerCommit 4 kib holdup) s = .next { s with dev := d' } ∧
           Finished mgmtTill .ok none (some (1 + 256 * n)) s.dev d' ∧ d'.ledger.fabricTable = wholeTable s.dev.fabric.written)) ∧
       (∀ a b g h, kib = [a, b] → holdup = [g, h] → a ≤ 224 → b ≤ 224 → 224 < a + b → 96 + 6 * a ≤ 10 * g.toNat →
         ∃ d', exec (.ledgerCommit 5 kib holdup) s = .next { s with dev := d' } ∧ d'.ledger.config = s.dev.cfg ∧
           (96 + 6 * b ≤ 10 * h.toNat → Finished mgmtTill .ok none (some (2 + 256 * (a + b))) s.dev d' ∧
             d'.ledger.commits = s.dev.ledger.commits + 2 ∧ d'.ledger.fabricTable = wholeTable s.dev.fabric.written) ∧
           (10 * h.toNat < 96 + 6 * b → Finished mgmtTill .holdupLow none (some (1 + 256 * a)) s.dev d' ∧
             d'.ledger.commits = s.dev.ledger.commits + 1 ∧ d'.ledger.fabricTable = s.dev.ledger.fabricTable)) ∧
       (∃ d', exec (.ledgerCommit 0 kib holdup) s = .next { s with dev := d' } ∧ Finished mgmtTill .ok none (some 0) s.dev d' ∧
         d'.ledger = s.dev.ledger) ∧
       ∀ scope : BitVec 8, 8 ≤ scope.toNat → ∃ d', exec (.ledgerCommit scope kib holdup) s = .next { s with dev := d' } ∧
         Finished mgmtTill .badParam none none s.dev d' ∧ d'.ledger = s.dev.ledger)) ∧
  (∀ (s : State) (valid : List Region), s.dev.pwr.starting = true → s.dev.evt.restored ≠ 2 → s.dev.ledger.pending = [] →
     (∀ p, p < 24 → portUp s.dev p = false) → Tab.wf ({} : Cluster) s.dev.ledger.maps.clusters = true →
     (let has := fun r => r ∈ valid ∧ (Tab.get ({} : LedgerRegion) s.dev.ledger.regions (regionKey r)).valid = true
      ∃ d', exec (.ledgerRestore valid) s = .next { s with dev := d' } ∧ d'.mem = s.dev.mem ∧ d'.ctxs = s.dev.ctxs ∧
        (has .config → d'.cfg = s.dev.ledger.config ∧ d'.ledger.configValid = true ∧ d'.fabric.written = s.dev.ledger.fabricTable) ∧
        (¬has .config → d'.cfg = factoryCfg s.dev ∧ d'.ledger.configValid = false ∧ d'.ledger.factory = true) ∧
        (has .maps → d'.losses = s.dev.ledger.maps.losses ∧ d'.reloc = s.dev.ledger.maps.reloc ∧
          d'.err.bankMarked = s.dev.ledger.maps.bankMarked ∧ ∀ c, (d'.cluster c).retired = (Tab.get {} s.dev.ledger.maps.clusters c).retired) ∧
        (has .counters → d'.err.lifetime = s.dev.ledger.counters.lifetime ∧ d'.err.exposedMs = s.dev.ledger.counters.exposedMs) ∧
        (has .config ∧ has .maps ∧ has .counters → d'.ledger.factory = false)))

/-- ERROR_RECORD_MOVE, ERROR_LOG_APPEND, COUNTER_COMMIT and COUNTER_TOTALS (R374, R424, R454): the captured records go to the
hub ring, which keeps the latest 4,096; with 1,024 waiting they are appended to the error log; the counters are committed, and
the waiting records with them; the counts of the clear-on-read registers are added to the totals and cleared. -/
def Obligations.ErrorsAndCountsAreKept : Prop :=
  ∀ (s : State),
    (serviceCrierUp s.dev = true →
      (∃ d', exec .errorRecordMove s = .next { s with dev := d' } ∧ { d' with err := s.dev.err, evt := s.dev.evt } = s.dev ∧
        d'.err.queue = [] ∧ d'.err.waiting = min 4096 (s.dev.err.waiting + s.dev.err.queue.length) ∧
        d'.err.ring = (s.dev.err.ring ++ s.dev.err.queue).drop ((s.dev.err.ring ++ s.dev.err.queue).length - 4096) ∧
        (s.dev.evt.retention = none → s.dev.err.queue ≠ [] → (d'.src 71).pend = true) ∧ ∀ n, n ≠ 71 → d'.src n = s.dev.src n) ∧
      ((∀ p ∈ s.dev.cores, p.1 < 144) → (∀ p ∈ s.dev.ports, p.1 < 24) →
        (∀ t, ∀ p ∈ (s.dev.ctx t).slots, p.1 < 128) → s.dev.awning.throttleMs < 2 ^ 32 → s.dev.pwr.dieResets < 2 ^ 32 →
        ∃ d', exec .counterTotals s = .next { s with dev := d' } ∧ d'.mem = s.dev.mem ∧
          (∀ c, d'.core c = (s.dev.core c).clearCounts) ∧
          (∀ p, d'.port p = { s.dev.port p with corrected := 0, uncorrected := 0, replays := 0 }) ∧
          d'.awning = { s.dev.awning with throttleMs := 0, steps := 0, limitEvents := 0 } ∧
          d'.total (packTotal 0) = s.dev.total (packTotal 0) + s.dev.awning.throttleMs ∧
          d'.total (packTotal 7) = s.dev.total (packTotal 7) + s.dev.pwr.dieResets)) ∧
    (∀ kib (holdup : BitVec 10), 1024 ≤ s.dev.err.waiting → 96 + 6 * kib ≤ 10 * holdup.toNat →
      ∃ d', exec (.errorLogAppend kib holdup) s = .next { s with dev := d' } ∧ d'.mem = s.dev.mem ∧ d'.err.waiting = 0 ∧
        d'.ledger.errorLog = s.dev.ledger.errorLog ++ s.dev.err.ring.drop (s.dev.err.ring.length - s.dev.err.waiting)) ∧
    (∀ kib (holdup : BitVec 10), s.dev.err.waiting < 1024 → exec (.errorLogAppend kib holdup) s = .next s) ∧
    (∀ kib (holdup : BitVec 10), 96 + 6 * kib ≤ 10 * holdup.toNat →
      ∃ d', exec (.counterCommit kib holdup) s = .next { s with dev := d' } ∧ d'.mem = s.dev.mem ∧ d'.err.waiting = 0 ∧
        d'.ledger.counters = { lifetime := s.dev.err.lifetime, exposedMs := s.dev.err.exposedMs } ∧
        d'.ledger.commits = s.dev.ledger.commits + (if s.dev.err.waiting = 0 then 1 else 2) ∧
        d'.ledger.errorLog = s.dev.ledger.errorLog ++ s.dev.err.ring.drop (s.dev.err.ring.length - s.dev.err.waiting))

/-- The awning (R418, R419, R426, R459, R460): a sensor at the throttle temperature, a window above the power limit or a rail at
its current limit steps dies down or pauses their arrays; they step back up once it has passed; the divider changes with the
arrays paused; a sensor at 115 stops the package; the limits are written clamped. Supply sag (R461): a warning pauses the arrays
that the rail serves and is counted, the fourth of a die within 1 ms steps its divider down; on recovery the arrays that nothing
else holds go on; 10 ms without a warning step it back up. -/
def Obligations.AwningAndSagProtect : Prop :=
  (∀ (s : State),
     (∀ (x : DieId) (temp : BitVec 8),
       (∃ d', exec (.thermalThrottleStep x temp) s = .next { s with dev := d' } ∧ { d' with awning := s.dev.awning } = s.dev ∧
         Tab.get 0 d'.awning.temp x.val = temp.toNat ∧ (s.dev.cfg.throttleC ≤ temp → SteppedDown x.val 1 s.dev d') ∧
         (temp < s.dev.cfg.throttleC → DieAsWas x.val s.dev d') ∧ ∀ y, y ≠ x.val → DieAsWas y s.dev d') ∧
       (∃ d', exec (.throttleStepUp x temp) s = .next { s with dev := d' } ∧ { d' with awning := s.dev.awning } = s.dev ∧
         Tab.get 0 d'.awning.temp x.val = temp.toNat ∧
         (temp.toNat + 3 < s.dev.cfg.throttleC.toNat → s.dev.causeOf x.val &&& 1 ≠ 0 → targetOf s.dev x.val = divOf s.dev x.val →
           SteppedUp x.val s.dev d') ∧
         (s.dev.cfg.throttleC.toNat ≤ temp.toNat + 3 → DieAsWas x.val s.dev d') ∧ ∀ y, y ≠ x.val → DieAsWas y s.dev d') ∧
       (115 ≤ temp.toNat → s.dev.awning.tripped = false → noStreams s.dev →
         ∃ d', exec (.thermalTrip x temp) s = .next { s with dev := d' } ∧ d'.awning.tripped = true ∧ d'.pwr.thermtripN = false ∧
           (∀ y, y < 4 → Tab.get false d'.pwr.dieDown y = true ∧ (Tab.get ({} : Crier) d'.criers (4 + y)).state = 0) ∧
           d'.mem = s.dev.mem ∧ (s.dev.evt.retention = none → (d'.src 97).pend = true)) ∧
       (s.dev.causeOf x.val &&& 2 ≠ 0 → targetOf s.dev x.val = divOf s.dev x.val →
         100 * s.dev.awning.watts < 95 * s.dev.cfg.powerW.toNat →
         ∃ d', exec (.powerStepUp x) s = .next { s with dev := d' } ∧ { d' with awning := s.dev.awning } = s.dev ∧
           SteppedUp x.val s.dev d' ∧ ∀ y, y ≠ x.val → DieAsWas y s.dev d') ∧
       (targetOf s.dev x.val ≠ divOf s.dev x.val → pausedDie s.dev x.val = true →
         ∃ d', exec (.dividerSwitch x) s = .next { s with dev := d' } ∧ divOf d' x.val = targetOf s.dev x.val ∧
           targetOf d' x.val = divOf d' x.val ∧ pausedDie d' x.val = (sagHolds s.dev x.val || (s.dev.causeOf x.val).getLsbD 2) ∧
           d'.awning.steps = s.dev.awning.steps + (if divOf s.dev x.val < targetOf s.dev x.val then 1 else 0) ∧
           (s.dev.evt.retention = none → (d'.src 96).pend = true) ∧ d'.mem = s.dev.mem ∧ d'.ctxs = s.dev.ctxs ∧
           ∀ y, y ≠ x.val → DieAsWas y s.dev d')) ∧
     (∀ watts, ∃ d', exec (.powerWindow watts) s = .next { s with dev := d' } ∧ d'.awning.watts = watts ∧ d'.mem = s.dev.mem ∧
       d'.ctxs = s.dev.ctxs ∧
       (watts ≤ s.dev.cfg.powerW.toNat → { d' with awning := s.dev.awning } = s.dev ∧ ∀ y, DieAsWas y s.dev d') ∧
       (s.dev.cfg.powerW.toNat < watts → (∀ y, y < 4 → SteppedDown y 2 s.dev d') ∧
         d'.awning.limitEvents = s.dev.awning.limitEvents + 1 ∧ d'.pwr.lastLimit = some s.dev.wall ∧
         (s.dev.evt.retention = none → (d'.src 99).pend = true))) ∧
     (∀ (rail : Fin 7) (x : DieId), ∃ d', exec (.railCurrentLimit rail x) s = .next { s with dev := d' } ∧
       d'.awning.limitEvents = s.dev.awning.limitEvents + 1 ∧ d'.pwr.lastLimit = some s.dev.wall ∧
       (s.dev.evt.retention = none → (d'.src 99).pend = true) ∧ d'.mem = s.dev.mem ∧ d'.ctxs = s.dev.ctxs ∧
       ∀ y : DieId, if rail = 0 ∧ y ≠ x then DieAsWas y.val s.dev d' else
         pausedDie d' y.val = true ∧ d'.causeOf y.val = s.dev.causeOf y.val ||| 4 ∧ divOf d' y.val = divOf s.dev y.val ∧
           targetOf d' y.val = targetOf s.dev y.val) ∧
     (∀ src (v : BitVec 32), mayWrite s.dev src = true →
       ∃ d', exec (.awningLimitWrite src v) s = .next { s with dev := d' } ∧
         { d' with awning := s.dev.awning, cfg := s.dev.cfg } = s.dev ∧
         d'.cfg.throttleC.toNat = max 85 (min 105 (v.toNat % 256)) ∧ d'.cfg.powerW.toNat = max 1000 (min 3000 (v.toNat / 256 % 4096)) ∧
         d'.cfg.divMin.toNat = clampDiv (divCap s.dev) (v.toNat / 2 ^ 20 % 16) ∧
         { d'.cfg with throttleC := s.dev.cfg.throttleC, powerW := s.dev.cfg.powerW, divMin := s.dev.cfg.divMin } = s.dev.cfg ∧
         ∀ y, y < 4 → divOf d' y = divOf s.dev y ∧
           if targetOf s.dev y < d'.cfg.divMin.toNat then targetOf d' y = d'.cfg.divMin.toNat ∧ pausedDie d' y = true
           else DieAsWas y s.dev d')) ∧
  (∀ (s : State) (rail : Fin 7) (x : DieId),
     (s.dev.pwr.asleep ≠ 2 →
       ∃ d', exec (.sagWarning rail x) s = .next { s with dev := d' } ∧ d'.pwr.warnings = s.dev.pwr.warnings + 1 ∧
         d'.pwr.sagRail = rail.val ∧ d'.pwr.warnDie = x.val ∧ d'.pwr.lastWarning = some s.dev.wall ∧ (rail.val, x.val) ∈ d'.pwr.sags ∧
         (∀ y : DieId, rail ≠ 0 ∨ y = x → pausedDie d' y.val = true ∧
           ((((Tab.get [] s.dev.pwr.recentWarnings y.val).filter (fun w => decide (s.dev.wall < w + 1650000))).length = 3 →
             d'.causeOf y.val = s.dev.causeOf y.val ||| 8 ∧ (targetOf s.dev y.val = divOf s.dev y.val → divOf s.dev y.val ≠ 8 →
               targetOf d' y.val = if divOf s.dev y.val < 5 then 5 else if divOf s.dev y.val < 6 then 6 else 8)) ∧
           (((Tab.get [] s.dev.pwr.recentWarnings y.val).filter (fun w => decide (s.dev.wall < w + 1650000))).length < 3 →
             d'.causeOf y.val = s.dev.causeOf y.val ∧ targetOf d' y.val = targetOf s.dev y.val))) ∧
         (∀ y : DieId, rail = 0 → y ≠ x → DieAsWas y.val s.dev d') ∧
         (s.dev.evt.retention = none → (d'.src 98).pend = true) ∧ d'.mem = s.dev.mem ∧ d'.ctxs = s.dev.ctxs) ∧
     ((rail.val, x.val) ∈ s.dev.pwr.sags →
       ∃ d', exec (.sagRecovery rail x) s = .next { s with dev := d' } ∧ d'.pwr.sags = s.dev.pwr.sags.filter (· ≠ (rail.val, x.val)) ∧
         { d' with awning := s.dev.awning, pwr := s.dev.pwr } = s.dev ∧
         ∀ y : DieId, pausedDie d' y.val = (pausedDie s.dev y.val &&
           !(decide (rail ≠ 0 ∨ y = x) && !sagHolds d' y.val && decide (targetOf s.dev y.val = divOf s.dev y.val) &&
             !(s.dev.causeOf y.val).getLsbD 2))) ∧
     (s.dev.causeOf x.val &&& 8 ≠ 0 → targetOf s.dev x.val = divOf s.dev x.val →
       ∃ d', exec (.sagStepUp x) s = .next { s with dev := d' } ∧ { d' with awning := s.dev.awning } = s.dev ∧
         SteppedUp x.val s.dev d' ∧ ∀ y, y ≠ x.val → DieAsWas y s.dev d'))

/-- EVENT_RAISE (R431, R436): a raise of a source has the three effects of R431, whatever its mask, and nothing of any other
source differs; while the controller is saved it lands in the retention copy; a reserved source is never raised, and no unit
raises a doorbell. -/
def Obligations.EventsAreRaised : Prop :=
  ∀ (s : State) (n : SourceId) (code : BitVec 32),
    (reservedSource n.val = true ∨ (352 ≤ n.val ∧ n.val ≤ 383) → exec (.eventRaise n code) s = .next s) ∧
    (reservedSource n.val = false → ¬(352 ≤ n.val ∧ n.val ≤ 383) →
      ∃ d', exec (.eventRaise n code) s = .next { s with dev := d' } ∧ OnlyEvents s.dev d' ∧
        { d'.evt with srcs := s.dev.evt.srcs, retention := s.dev.evt.retention } = s.dev.evt ∧
        d'.pwr.alertPulses = s.dev.pwr.alertPulses + (if 96 ≤ n.val ∧ n.val ≤ 99 then 1 else 0) ∧
        (∀ r, s.dev.evt.retention = some r → d'.evt.srcs = s.dev.evt.srcs ∧
          d'.evt.retention = some { r with srcs := Tab.mod {} r.srcs n.val (raiseSrc code) }) ∧
        (s.dev.evt.retention = none → d'.evt.retention = none ∧ (∀ m, m ≠ n.val → d'.src m = s.dev.src m) ∧
          ((s.dev.src n.val).pend = false →
            d'.src n.val = { s.dev.src n.val with pend := true, code := code, count := 0 }) ∧
          ((s.dev.src n.val).pend = true → (s.dev.src n.val).active = false →
            d'.src n.val = { s.dev.src n.val with count := min ((s.dev.src n.val).count + 1) 255 }) ∧
          ((s.dev.src n.val).pend = true → (s.dev.src n.val).active = true → (s.dev.src n.val).count < 255 →
            d'.src n.val = { s.dev.src n.val with reraise := true, count := (s.dev.src n.val).count + 1 })))

/-- EVENT_DELIVERY, EVT_CLAIM and MSIX_UNMASK (R430, R432, R433): the lowest source that is due goes to its first enabled target
after NEXT; a crier gets the source and its code in its queue and the source is ACTIVE, a vector gets its message, or its
pending bit where it became masked, and PEND and RERAISE clear; a claim takes the oldest entry of the crier's own queue; an
unmask sends the message held behind it. The event registers (R430, R434, R435, R437): PEND_SET raises with code 0, PEND_CLR
clears PEND and ACTIVE or delivers a source raised meanwhile again, the masks are set and cleared without effect on PEND;
CRIER_SET enables; a crier whose enable bit clears gives back what is ACTIVE at it, and its queue is empty. -/
def Obligations.EventsAreDelivered : Prop :=
  (∀ (s : State),
     (∀ n g j masked, s.dev.evt.frozen = false → Tab.wf ({} : EvtSrc) s.dev.evt.srcs = true → due s.dev n = true →
       (∀ m, m < n → due s.dev m = false) → j < 264 → g = ((s.dev.src n).next + 1 + j) % 264 →
       (inTargetSet (s.dev.route n) g && targetEnabled s.dev g) = true →
       (∀ i, i < j → (inTargetSet (s.dev.route n) (((s.dev.src n).next + 1 + i) % 264) &&
         targetEnabled s.dev (((s.dev.src n).next + 1 + i) % 264)) = false) →
       ∃ d', exec (.eventDelivery masked) s = .next { s with dev := d' } ∧
         { d' with evt := s.dev.evt, host := s.dev.host } = s.dev ∧ (∀ m, m ≠ n → d'.src m = s.dev.src m) ∧
         (g < 8 → d'.src n = { s.dev.src n with active := true, next := g } ∧ d'.host = s.dev.host ∧
           d'.evt.messages = s.dev.evt.messages ∧
           ∀ c, Tab.get [] d'.evt.queues c = Tab.get [] s.dev.evt.queues c ++ if c = g then [(n, (s.dev.src n).code)] else []) ∧
         (8 ≤ g → d'.src n = { s.dev.src n with pend := false, reraise := false, next := g } ∧
           d'.evt.queues = s.dev.evt.queues ∧
           (masked = false → d'.host = s.dev.host ∧
             d'.evt.messages = s.dev.evt.messages ++ [(g - 8, Tab.get (0, 0) s.dev.host.msixTable (g - 8))]) ∧
           (masked = true → d'.evt.messages = s.dev.evt.messages ∧ Tab.get false d'.host.msixPend (g - 8) = true))) ∧
     (∀ (c : CrierId), Tab.get [] s.dev.evt.queues c.val = [] →
       exec (.evtClaim (.crier c)) s = .next { s with dev := { s.dev with readData := 0 } }) ∧
     (∀ (c : CrierId) n code rest, Tab.get [] s.dev.evt.queues c.val = (n, code) :: rest → n < 1024 →
       ∃ d', exec (.evtClaim (.crier c)) s = .next { s with dev := d' } ∧
         { d' with readData := s.dev.readData, evt := s.dev.evt } = s.dev ∧
         { d'.evt with queues := s.dev.evt.queues } = s.dev.evt ∧
         d'.readData % 1024 = n ∧ d'.readData / 1024 % 2 = 1 ∧ d'.readData / 2 ^ 32 = code.toNat ∧
         ∀ x, Tab.get [] d'.evt.queues x = if x = c.val then rest else Tab.get [] s.dev.evt.queues x) ∧
     (∀ v : BitVec 8, ∃ d', exec (.msixUnmask v) s = .next { s with dev := d' } ∧
       { d' with evt := s.dev.evt, host := s.dev.host } = s.dev ∧ { d'.evt with messages := s.dev.evt.messages } = s.dev.evt ∧
       Tab.get true d'.host.msixMask v.toNat = false ∧ Tab.get false d'.host.msixPend v.toNat = false ∧
       d'.evt.messages = s.dev.evt.messages ++
         if Tab.get false s.dev.host.msixPend v.toNat = true then [(v.toNat, Tab.get (0, 0) s.dev.host.msixTable v.toNat)] else [])) ∧
  (∀ (s : State) (src : Source),
     (∀ (g : Fin 32) (bits : BitVec 32),
       (s.dev.evt.retention = none → ∃ d', exec (.evtPendSet src g bits) s = .next { s with dev := d' } ∧ OnlyEvents s.dev d' ∧
         { d'.evt with srcs := s.dev.evt.srcs } = s.dev.evt ∧
         ∀ n, d'.src n = if evtWrites s.dev src g bits n = true then raiseSrc 0 (s.dev.src n) else s.dev.src n) ∧
       (∃ d', exec (.evtPendClr src g bits) s = .next { s with dev := d' } ∧ OnlyEvents s.dev d' ∧
         { d'.evt with srcs := s.dev.evt.srcs } = s.dev.evt ∧
         ∀ n, d'.src n =
           if evtWrites s.dev src g bits n = true then
             { s.dev.src n with
               active := false, reraise := false, pend := (s.dev.src n).reraise }
           else s.dev.src n) ∧
       (∃ d', exec (.evtMaskSet src g bits) s = .next { s with dev := d' } ∧ d'.evt = s.dev.evt ∧ d'.mem = s.dev.mem ∧
         ∀ n, d'.route n = { s.dev.route n with mask := (s.dev.route n).mask || evtWrites s.dev src g bits n }) ∧
       (∃ d', exec (.evtMaskClr src g bits) s = .next { s with dev := d' } ∧ d'.evt = s.dev.evt ∧ d'.mem = s.dev.mem ∧
         ∀ n, d'.route n = { s.dev.route n with mask := (s.dev.route n).mask && !evtWrites s.dev src g bits n })) ∧
     (∀ bits : BitVec 8, mayWrite s.dev src = true →
       (∃ d', exec (.evtCrierSet src bits) s = .next { s with dev := d' } ∧
         d' = { s.dev with evt := { s.dev.evt with enabled := s.dev.evt.enabled ||| bits } }) ∧
       (∃ d', exec (.evtCrierClr src bits) s = .next { s with dev := d' } ∧ { d' with evt := s.dev.evt } = s.dev ∧
         d'.evt.enabled = s.dev.evt.enabled &&& ~~~bits ∧
         (∀ n, d'.src n =
           if (s.dev.src n).active = true ∧ (s.dev.src n).next < 8 ∧ (bits &&& s.dev.evt.enabled).getLsbD (s.dev.src n).next = true then
             { s.dev.src n with active := false }
           else s.dev.src n) ∧
         ∀ c, c < 8 → Tab.get [] d'.evt.queues c =
           if (bits &&& s.dev.evt.enabled).getLsbD c = true then [] else Tab.get [] s.dev.evt.queues c)))

/-- ISSUE_HOLD_TIMEOUT, SEQUENCER_PAIR_MISMATCH and ENGINE_PROGRESS_TIMEOUT (R48, R57, R441, R442): on a core that serves one
slot of the running task, outside a replay and without a fault in the window, each begins a replay of the slot from the
checkpoint bell, the first as an escape; a paused array does not time out; with no task the fault is recorded and its time kept.
VOTE_DISSENT and SRAM_SCRUB (R440, R441, R450, R453): a copy that is outvoted is reloaded, a second dissent within the window
switches it off, and a difference between two remaining copies aborts every task; a scrub counts what it marks, and an SRAM word
that cannot be corrected aborts the task whose window holds it, and whose END has not issued, with CHECKSUM_MISMATCH and its
address. MX_INJECT, VX_INJECT, TX_INJECT and BANK_INJECT (R85, R147, R346): from the leading complex, an error is injected into
a core that is bound to no slot, or into a bank on which no reduction is open; otherwise the write is ignored and logged, as is
the host's. While the die's crier does not run, the order waits for it (R12, R412). -/
def Obligations.FaultsAreVotedAndScrubbed : Prop :=
  (∀ (s : State) (c : CoreId),
     ((∀ e, (c.val, e) ∉ s.dev.seq.late) ∨ pausedDie s.dev (c.val / 36) = true → exec (.issueHoldTimeout c) s = .next s) ∧
     (((s.dev.core c.val).mxQ = [] ∧ (s.dev.core c.val).vxQ = [] ∧ (s.dev.core c.val).txQ = []) ∨ pausedDie s.dev (c.val / 36) = true →
       exec (.engineProgressTimeout c) s = .next s) ∧
     (∀ t k, s.dev.seq.running = some t → (s.dev.ctx t).phase = .running → s.dev.seq.replay = none → slotsOfCore s.dev c.val = [k] →
       servingCores s.dev k = [c.val] →
       (∀ w, Tab.get none s.dev.err.coreFaultAt c.val = some w → w + failWindow s.dev < s.dev.wall) →
       (let kept := fun (d' : Dev) => d'.ctx t = { s.dev.ctx t with recovered := true } ∧ d'.mem = s.dev.mem ∧
          d'.clusters = s.dev.clusters ∧ Tab.get none d'.err.coreFaultAt c.val = some s.dev.wall ∧ ∀ u, u ≠ t → d'.ctx u = s.dev.ctx u
        let replay : Replay := { ctx := t, slots := [(k, 0)], kind := .coreLogic, core := c.val }
        ((∃ e, (c.val, e) ∈ s.dev.seq.late) → pausedDie s.dev (c.val / 36) = false →
          ∃ d', exec (.issueHoldTimeout c) s = .next { s with dev := d' } ∧ kept d' ∧ d'.seq = { s.dev.seq with
            late := s.dev.seq.late.filter (fun p => p.1 ≠ c.val), mode := .hold, replay := some { replay with escape := true } }) ∧
        (∃ d', exec (.sequencerPairMismatch c) s = .next { s with dev := d' } ∧ kept d' ∧
          d'.seq = { s.dev.seq with mode := .hold, replay := some replay }) ∧
        ((s.dev.core c.val).mxQ ≠ [] ∨ (s.dev.core c.val).vxQ ≠ [] ∨ (s.dev.core c.val).txQ ≠ [] →
          pausedDie s.dev (c.val / 36) = false →
          ∃ d', exec (.engineProgressTimeout c) s = .next { s with dev := d' } ∧ kept d' ∧
            d'.seq = { s.dev.seq with mode := .hold, replay := some replay }))) ∧
     (s.dev.seq.running = none →
       ∃ d', exec (.sequencerPairMismatch c) s = .next { s with dev := d' } ∧ Recorded 7 1 2 s.dev d' ∧ d'.seq = s.dev.seq ∧
         Tab.get none d'.err.coreFaultAt c.val = some s.dev.wall ∧ d'.ctxs = s.dev.ctxs ∧ d'.mem = s.dev.mem)) ∧
  (∀ (s : State),
     (∀ (u : VotedUnit) (copy : Fin 3), (let k := 3 * votedKey u + copy.val
       let level := match u with | .streamSequencer _ => 3 | .clusterController _ => 2
       (Tab.get false s.dev.err.copiesOff k = true → ∃ d', exec (.voteDissent u copy) s = .next { s with dev := d' } ∧
         { d' with freeIdx := s.dev.freeIdx } = s.dev) ∧
       ((∀ i : Fin 3, Tab.get false s.dev.err.copiesOff (3 * votedKey u + i.val) = false) →
         ((∀ w, Tab.get none s.dev.err.copyFaultAt k = some w → w + failWindow s.dev < s.dev.wall) →
           ∃ d', exec (.voteDissent u copy) s = .next { s with dev := d' } ∧ Recorded 7 level 5 s.dev d' ∧
             d'.err.copiesOff = s.dev.err.copiesOff ∧ Tab.get false d'.err.copyReload k = true ∧
             Tab.get none d'.err.copyFaultAt k = some s.dev.wall ∧
             { d' with err := s.dev.err, freeIdx := s.dev.freeIdx } = s.dev) ∧
         (∀ w, Tab.get none s.dev.err.copyFaultAt k = some w → s.dev.wall ≤ w + failWindow s.dev →
           ∃ d', exec (.voteDissent u copy) s = .next { s with dev := d' } ∧ Recorded 7 level 15 s.dev d' ∧
             (∀ i, Tab.get false d'.err.copiesOff i = if i = k then true else Tab.get false s.dev.err.copiesOff i) ∧
             { d' with err := s.dev.err, freeIdx := s.dev.freeIdx } = s.dev)) ∧
       (∀ i : Fin 3, i ≠ copy → Tab.get false s.dev.err.copiesOff k = false →
         Tab.get false s.dev.err.copiesOff (3 * votedKey u + i.val) = true →
         ∃ d' x, exec (.voteDissent u copy) s = .next { s with dev := d' } ∧ Recorded 7 level 13 s.dev d' ∧ d'.mem = s.dev.mem ∧
           ∀ t, (s.dev.ctx t).started = true → (s.dev.ctx t).abort = none → endIssued s.dev t = false → s.dev.seq.dispatch ≠ some t →
             (d'.ctx t).phase = .aborting ∧ (d'.ctx t).abort = some (.internal, x)))) ∧
     (∀ (c : ClusterId) rows cols, ∃ d', exec (.sramScrub c rows cols []) s = .next { s with dev := d' } ∧
       { d' with err := s.dev.err, freeIdx := s.dev.freeIdx } = s.dev ∧ d'.err.rowsMarked = s.dev.err.rowsMarked + rows ∧
       d'.err.colsMarked = s.dev.err.colsMarked + cols ∧ (rows + cols ≠ 0 → Recorded 1 2 0 s.dev d') ∧
       (rows + cols = 0 → d'.err.queue = s.dev.err.queue)) ∧
     (∀ (c : ClusterId) a,
       (∀ t, windowOwner s.dev a = some t → (s.dev.ctx t).abort = none → endIssued s.dev t = false → s.dev.seq.dispatch ≠ some t →
         ∃ d', exec (.sramScrub c 0 0 [a]) s = .next { s with dev := d' } ∧ Recorded 1 2 13 s.dev d' ∧ a / 8 * 8 ∈ d'.badSram ∧
           d'.err.bankMarked.getLsbD c.val = true ∧ Aborted t .checksumMismatch (3 * 2 ^ 30 + a / 8 % 2 ^ 30) s.dev d') ∧
       (windowOwner s.dev a = none →
         ∃ d', exec (.sramScrub c 0 0 [a]) s = .next { s with dev := d' } ∧ Recorded 1 2 15 s.dev d' ∧ a / 8 * 8 ∈ d'.badSram ∧
           d'.ctxs = s.dev.ctxs ∧ d'.mem = s.dev.mem))) ∧
  (∀ (s : State),
     (∀ (c : CoreId) (i : Instr) (f : Core → Core) (h : Instr) (x : CrierId),
       ((i = .mxInject (.crier x) c ∧ h = .mxInject .host c ∧ f = fun y => { y with mxInject := true }) ∨
         (i = .vxInject (.crier x) c ∧ h = .vxInject .host c ∧ f = fun y => { y with vxInject := true }) ∨
         (i = .txInject (.crier x) c ∧ h = .txInject .host c ∧ f = fun y => { y with txInject := true })) →
       exec h s = .next { s with dev := { s.dev with logged := s.dev.logged + 1 } } ∧
       (leads s.dev x = true → dieCrierRuns s.dev (c.val / 36) = false →
         exec i s = .next { s with dev := { s.dev with waiting := s.dev.waiting ++ [(c.val / 36, i)] } }) ∧
       (leads s.dev x = true → dieCrierRuns s.dev (c.val / 36) = true → slotsOfCore s.dev c.val ≠ [] →
         exec i s = .next { s with dev := { s.dev with logged := s.dev.logged + 1 } }) ∧
       (leads s.dev x = true → dieCrierRuns s.dev (c.val / 36) = true → slotsOfCore s.dev c.val = [] →
         ∃ d', exec i s = .next { s with dev := d' } ∧ OnlyCore c.val s.dev d' ∧ d'.core c.val = f (s.dev.core c.val)) ∧
       (4 ≤ x.val → exec i s = .next { s with dev := { s.dev with logged := s.dev.logged + 1 } })) ∧
     (∀ (p : PortId) (x : CrierId), leads s.dev x = true → dieCrierRuns s.dev (p.val / 6) = true →
       ((s.dev.adderBank p.val).chunks ≠ [] →
         exec (.bankInject (.crier x) p) s = .next { s with dev := { s.dev with logged := s.dev.logged + 1 } }) ∧
       ((s.dev.adderBank p.val).chunks = [] →
         ∃ d', exec (.bankInject (.crier x) p) s = .next { s with dev := d' } ∧ { d' with banks := s.dev.banks } = s.dev ∧
           (∀ q, q ≠ p.val → d'.adderBank q = s.dev.adderBank q) ∧
           d'.adderBank p.val = { s.dev.adderBank p.val with inject := true })))

/-- REGISTER_WRITE (R13, R28, R66, R105, R291, R372, R381, R402, R437, R451): a write from a source that may write stores the
fields with their limits, one from the host without EXPERT is ignored and logged, as is one to an unpopulated address; a read-
only register keeps its value; a till's registers are the host's and the leading complex's, and while it is enabled a write of
them is ignored and logged. The management window (R20, R22, R28, R30, R65, R84, R86): an offset names the block and the
register that R30 and the register's own table place there. A cluster controller shows CLUSTER_SLOT_MAP, CLUSTER_STATUS and
CLUSTER_RETIRE; a write of an offset is the write of its register; the hub block shows the shape table; where nothing is
populated a read answers zero and is logged, and a write is ignored and logged. -/
def Obligations.RegistersAreWritten : Prop :=
  (∀ (s : State) (src : Source) (v : BitVec 64),
     (exec (.registerWrite src .readOnly v) s = .next s ∧
       exec (.registerWrite src .unpopulated v) s = .next { s with dev := { s.dev with logged := s.dev.logged + 1 } }) ∧
     (expert s.dev = false → ∀ r, r ∈ [Reg.streamWdog, .streamQuantum, .homeCtrl, .crierWdog, .errCtrl, .bwdCtrl, .convCtrl, .attnCtrl, .actCtrl] →
       exec (.registerWrite .host r v) s = .next { s with dev := { s.dev with logged := s.dev.logged + 1 } }) ∧
     (mayWrite s.dev src = true →
       (let runs := fun (r : Reg) (ok : Cfg → Prop) => ∃ d', exec (.registerWrite src r v) s = .next { s with dev := d' } ∧
          { d' with cfg := s.dev.cfg } = s.dev ∧ ok d'.cfg
        runs .streamWdog (fun c => c.streamWdog.toNat = max 10 (v.toNat % 2 ^ 20) ∧ { c with streamWdog := s.dev.cfg.streamWdog } = s.dev.cfg) ∧
        runs .streamQuantum (fun c => c.streamQuantum.toNat = v.toNat % 2 ^ 16 ∧
          { c with streamQuantum := s.dev.cfg.streamQuantum } = s.dev.cfg) ∧
        runs .homeCtrl (fun c => c.moveShare.toNat = max 1 (min 100 (v.toNat % 128)) ∧
          c.hostTimeout.toNat = max 1 (v.toNat / 2 ^ 16 % 2 ^ 16)) ∧
        runs .crierWdog (fun c => c.crierWdog.toNat = max 2 (min 100 (v.toNat % 256))) ∧
        runs .errCtrl (fun c => c.wearReplays.toNat = max 1 (v.toNat % 256) ∧ c.predictEn = v.getLsbD 8 ∧
          c.scrubS.toNat = max 1 (v.toNat / 2 ^ 16 % 256)) ∧
        runs .bwdCtrl (fun c => c.forceFull = v.getLsbD 0) ∧ runs .convCtrl (fun c => c.convNoSkip = v.getLsbD 0) ∧
        runs .attnCtrl (fun c => c.attnNoSkip = v.getLsbD 0) ∧
        runs .actCtrl (fun c => c.healthEvt = v.getLsbD 0 ∧ c.hashEn = v.getLsbD 1))) ∧
     (∀ (n : TillId), (∀ x : CrierId, 4 ≤ x.val →
         exec (.registerWrite (.crier x) (.cplRing n) v) s = .next { s with dev := { s.dev with logged := s.dev.logged + 1 } }) ∧
       (src = .host ∨ (∃ x, src = .crier x ∧ leads s.dev x = true) →
        ((s.dev.till n).enable = true →
         exec (.registerWrite src (.cplRing n) v) s = .next { s with dev := { s.dev with logged := s.dev.logged + 1 } }) ∧
        ((s.dev.till n).enable = false →
         ∃ d', exec (.registerWrite src (.cplRing n) v) s = .next { s with dev := d' } ∧ { d' with tills := s.dev.tills } = s.dev ∧
           (∀ m, m ≠ n → d'.till m = s.dev.till m) ∧
           d'.till n = { s.dev.till n with
             cplBase := v.extractLsb' 5 43, cplLog2 := v.extractLsb' 48 5 }))) ∧
     (∀ (n : TillId), (src = .host ∨ (∃ x, src = .crier x ∧ leads s.dev x = true)) → (s.dev.till n).enable = true → (s.dev.till n).cur ≠ none → v.getLsbD 63 = false →
       ∃ d', exec (.registerWrite src (.tillRing n) v) s = .next { s with dev := d' } ∧ { d' with tills := s.dev.tills } = s.dev ∧
         (∀ m, m ≠ n → d'.till m = s.dev.till m) ∧ d'.till n = { s.dev.till n with closing := true })) ∧
  (∀ (s : State) (src : Source) (v : BitVec 64),
     (let put_ := fun (a : Nat) => exec (.registerWrite src (.address (BitVec.ofNat 32 a)) v) s
      let shows := fun (a w : Nat) => managementRead src a s.dev = { s.dev with readData := w }
      (∀ o : BitVec 32, blockOf o.toNat = .hole →
        managementRead src o.toNat s.dev = { s.dev with readData := 0, logged := s.dev.logged + 1 } ∧
          exec (.registerWrite src (.address o) v) s = .next { s with dev := { s.dev with logged := s.dev.logged + 1 } }) ∧
      (∀ c : ClusterId, (let a := 0x10000000 * (1 + c.val / 4) + 0x400000 + 0x10000 * (c.val % 4)
        shows a (clusterSlotMap s.dev c.val) ∧ shows (a + 4) (clusterStatus s.dev c.val) ∧ shows (a + 8) 0 ∧
          put_ a = .next s ∧ put_ (a + 4) = .next s ∧ put_ (a + 8) = exec (.clusterRetire src c (v.setWidth 9)) s)) ∧
      (∀ p : CoreId, (let a := 0x10000000 * (1 + p.val / 36) + 0x800000 + 0x1000 * (p.val % 36)
        shows a (mxStatus s.dev p.val) ∧ put_ a = .next s ∧ put_ (a + 0x28) = exec (.registerWrite src (.mxCtrl p) v) s ∧
          shows (a + 0x28) (b2n (s.dev.core p.val).forceRamp))) ∧
      (∀ x ∈ [(0x2000, Reg.streamWdog), (0x2004, .streamQuantum), (0x2008, .mxFailWindow), (0x2010, .fmtStewardCtrl), (0x2020, .bwdCtrl),
          (0x2050, .convCtrl), (0x2060, .attnCtrl), (0x2080, .homeCtrl), (0x2200, .hostCtrl), (0x2318, .crierWdog), (0x2408, .errCtrl)],
        put_ x.1 = exec (.registerWrite src x.2 v) s) ∧
      (∀ i, i < 32 → shows (0x1000 + 8 * i) (leAt (shapeBytes s.dev) (8 * i) 8) ∧ put_ (0x1000 + 8 * i) = .next s)))

/-- VX_INJECT and TX_INJECT (R147): the write is carried out when it comes from the leading hub complex while the core is bound
to no slot, and then only that core's injection is armed; otherwise it is ignored and logged, and beside the log at most the
count of writes of a hub complex without the lease rises. While the die's crier does not run, the order waits in the hub for it
(R12, R412). -/
def Obligations.InjectWritesAreGuarded : Prop :=
  ∀ (s : State) (src : Source) (c : CoreId) (i : Instr) (f : Core → Core),
    ((i = .vxInject src c ∧ f = fun y => { y with vxInject := true }) ∨ (i = .txInject src c ∧ f = fun y => { y with txInject := true })) →
    (let led := ∃ x : CrierId, src = .crier x ∧ leads s.dev x = true
     let meant := led ∧ slotsOfCore s.dev c.val = []
     let there := dieCrierRuns s.dev (c.val / 36) = true
     (meant → there → ∃ d', exec i s = .next { s with dev := d' } ∧ OnlyCore c.val s.dev d' ∧ d'.core c.val = f (s.dev.core c.val)) ∧
     (¬ meant → there ∨ ¬ led → ∃ d', exec i s = .next { s with dev := d' } ∧ d'.logged = s.dev.logged + 1 ∧
       { d' with logged := s.dev.logged, lease := s.dev.lease } = s.dev ∧
       { d'.lease with demotions := s.dev.lease.demotions } = s.dev.lease) ∧
     (led → ¬ there → exec i s = .next { s with dev := { s.dev with waiting := s.dev.waiting ++ [(c.val / 36, i)] } }))

/-- A write of MX_FAIL_WINDOW (R86): WINDOW takes bits 19 to 0, a zero is stored as 1, and nothing else differs; after reset it
holds the factory value 600. -/
def Obligations.FailWindowIsWritten : Prop :=
  State.reset.dev.cfg.mxFailWindow = 600 ∧
    ∀ (s : State) (src : Source) (v : BitVec 64), mayWrite s.dev src = true →
      ∃ w : BitVec 20, exec (.registerWrite src .mxFailWindow v) s =
          .next { s with dev := { s.dev with cfg := { s.dev.cfg with mxFailWindow := w } } } ∧
        (v.extractLsb' 0 20 ≠ 0 → w = v.extractLsb' 0 20) ∧ (v.extractLsb' 0 20 = 0 → w = 1)

/-- The clear-on-read registers of a core (R84, R145, R146, R175, R202, R218, R245, R290): the read answers the counts and
clears them, and changes nothing else. The clear-on-read registers of the stream, the barrows, the tiers, the pools and the
fabric (R66, R176, R201, R246, R269, R315, R346): the read answers the counts and clears them, and changes nothing else. The
clear-on-read registers of the package (R380, R403, R426, R437, R456, R475, R476, R493): the read answers the state and the
counts, clears what its table says, and changes nothing else. -/
def Obligations.CountsAreRead : Prop :=
  (∀ (s : State) (c : CoreId),
     (let x := s.dev.core c.val
      (∃ d', exec (.mxSwapHoldRead c) s = .next { s with dev := d' } ∧
        ReadsAs [(0, 64, x.swapHold)] (s.dev.modCore c.val (fun x => { x with swapHold := 0 })) d') ∧
      (∃ d', exec (.mxPauseRead c) s = .next { s with dev := d' } ∧
        ReadsAs [(0, 64, x.pause)] (s.dev.modCore c.val (fun x => { x with pause := 0 })) d') ∧
      (∃ d', exec (.mxBusyRead c) s = .next { s with dev := d' } ∧
        ReadsAs [(0, 64, x.mxBusy)] (s.dev.modCore c.val (fun x => { x with mxBusy := 0 })) d') ∧
      (∃ d', exec (.vxBusyRead c) s = .next { s with dev := d' } ∧
        ReadsAs [(0, 64, x.vxBusy)] (s.dev.modCore c.val (fun x => { x with vxBusy := 0 })) d') ∧
      (∃ d', exec (.txBusyRead c) s = .next { s with dev := d' } ∧
        ReadsAs [(0, 64, x.txBusy)] (s.dev.modCore c.val (fun x => { x with txBusy := 0 })) d') ∧
      (∃ d', exec (.bwdSkipRead c) s = .next { s with dev := d' } ∧
        ReadsAs [(0, 64, x.bwdSkip)] (s.dev.modCore c.val (fun x => { x with bwdSkip := 0 })) d') ∧
      (∃ d', exec (.convSkipRead c) s = .next { s with dev := d' } ∧
        ReadsAs [(0, 64, x.convSkip)] (s.dev.modCore c.val (fun x => { x with convSkip := 0 })) d') ∧
      (∃ d', exec (.attnSkipRead c) s = .next { s with dev := d' } ∧
        ReadsAs [(0, 64, x.attnSkip)] (s.dev.modCore c.val (fun x => { x with attnSkip := 0 })) d') ∧
      (∃ d', exec (.frcStatsRead c) s = .next { s with dev := d' } ∧
        ReadsAs [(0, 32, x.frcEncoded), (32, 32, x.frcDecoded)]
          (s.dev.modCore c.val (fun x => { x with frcEncoded := 0, frcDecoded := 0 })) d') ∧
      (∃ d', exec (.porterBytesRead c) s = .next { s with dev := d' } ∧
        ReadsAs [(0, 32, x.readBytes / 2 ^ 20), (32, 32, x.writtenBytes / 2 ^ 20)]
          (s.dev.modCore c.val (fun x => { x with readBytes := 0, writtenBytes := 0 })) d') ∧
      (∃ d', exec (.porterDiscardRead c) s = .next { s with dev := d' } ∧
        ReadsAs [(0, 32, x.discarded), (32, 16, x.cancels)]
          (s.dev.modCore c.val (fun x => { x with discarded := 0, cancels := 0 })) d') ∧
      (∃ d', exec (.porterHomemissRead c) s = .next { s with dev := d' } ∧
        ReadsAs [(0, 32, x.misses), (32, 32, x.heldCycles)]
          (s.dev.modCore c.val (fun x => { x with misses := 0, heldCycles := 0 })) d'))) ∧
  (∀ (s : State),
     (∀ x : DieId,
       (∃ d', exec (.streamStallRead x) s = .next { s with dev := d' } ∧
         ReadsAs [(0, 64, Tab.get 0 s.dev.seq.stall x.val)]
           { s.dev with seq := { s.dev.seq with stall := Tab.set 0 s.dev.seq.stall x.val 0 } } d') ∧
       (∃ d', exec (.streamHoldRead x) s = .next { s with dev := d' } ∧
         ReadsAs [(0, 64, Tab.get 0 s.dev.seq.hold x.val)]
           { s.dev with seq := { s.dev.seq with hold := Tab.set 0 s.dev.seq.hold x.val 0 } } d')) ∧
     (∀ (t : CtxId) (k : SlotId), ∃ d', exec (.barrowTrafficRead t k) s = .next { s with dev := d' } ∧
       ReadsAs [(0, 32, (s.dev.bar t k.val).spilled), (32, 32, (s.dev.bar t k.val).refilled)]
         (s.dev.modBar t k.val (fun b => { b with spilled := 0, refilled := 0 })) d') ∧
     (∃ d', exec .hostOffloadRead s = .next { s with dev := d' } ∧
       ReadsAs [(0, 32, s.dev.offSent / 2 ^ 20), (32, 32, s.dev.offFetched / 2 ^ 20)] { s.dev with offSent := 0, offFetched := 0 } d') ∧
     (∀ p : PoolId, ∃ d', exec (.poolCountRead p) s = .next { s with dev := d' } ∧
       ReadsAs [(0, 16, (s.dev.pool p.val).drops), (16, 16, (s.dev.pool p.val).copies), (32, 16, (s.dev.pool p.val).exhausted)]
         (s.dev.modPool p.val (fun z => { z with drops := 0, copies := 0, exhausted := 0 })) d') ∧
     (∀ k : StackId, ∃ d', exec (.stkErrorsRead k) s = .next { s with dev := d' } ∧
       ReadsAs [(0, 16, (s.dev.stk k.val).onDie), (16, 16, (s.dev.stk k.val).corrected), (32, 16, (s.dev.stk k.val).mismatch),
           (48, 16, (s.dev.stk k.val).rebuilt)]
         (s.dev.modStk k.val (fun z => { z with onDie := 0, corrected := 0, mismatch := 0, rebuilt := 0 })) d') ∧
     (∀ p : PortId,
       (let x := s.dev.port p.val
        (∃ d', exec (.linkErrorsRead p) s = .next { s with dev := d' } ∧
          ReadsAs [(0, 24, min x.corrected (2 ^ 24 - 1)), (24, 16, min x.uncorrected (2 ^ 16 - 1)), (40, 16, x.replays), (56, 8, x.swaps)]
            (s.dev.modPort p.val (fun x => { x with corrected := 0, uncorrected := 0, replays := 0 })) d') ∧
        (∃ d', exec (.linkTrafficRead p) s = .next { s with dev := d' } ∧
          ReadsAs [(0, 32, x.sentBytes / 2 ^ 20), (32, 32, x.forwardedBytes / 2 ^ 20)]
            (s.dev.modPort p.val (fun x => { x with sentBytes := 0, forwardedBytes := 0 })) d') ∧
        (∃ d', exec (.linkRefusedRead p) s = .next { s with dev := d' } ∧
          ReadsAs [(0, 16, x.stale), (16, 16, x.window), (32, 16, x.ahead), (48, 16, x.full)]
            (s.dev.modPort p.val (fun x => { x with stale := 0, window := 0, ahead := 0, full := 0 })) d') ∧
        (∃ d', exec (.redBankCountRead p) s = .next { s with dev := d' } ∧
          ReadsAs [(0, 32, (s.dev.adderBank p.val).addedBytes / 2 ^ 20), (32, 16, (s.dev.adderBank p.val).duplicates),
              (48, 16, (s.dev.adderBank p.val).late)]
            (s.dev.modBank p.val (fun b => { b with addedBytes := 0, duplicates := 0, late := 0 })) d'))) ∧
     (∃ d', exec .redStatusRead s = .next { s with dev := d' } ∧
       ReadsAs [(0, 16, openCount s.dev), (32, 16, s.dev.redSubst), (48, 16, s.dev.redMismatch)]
         { s.dev with redSubst := 0, redMismatch := 0 } d')) ∧
  (∀ (s : State),
     (∃ d', exec .hostLinkRead s = .next { s with dev := d' } ∧
       ReadsAs [(0, 3, s.dev.host.rate), (3, 5, s.dev.host.width), (10, 1, b2n (memUp s.dev)), (32, 32, s.dev.host.retrains)]
         (s.dev.modHost (fun h => { h with retrains := 0 })) d') ∧
     (∀ x : DieId, ∃ d', exec (.codecCountRead x) s = .next { s with dev := d' } ∧
       ReadsAs [(0, 24, (s.dev.codec x.val).frames), (24, 16, (s.dev.codec x.val).concealed), (40, 16, (s.dev.codec x.val).stale),
           (56, 8, (s.dev.codec x.val).abandoned)]
         (s.dev.modCodec x.val (fun c => { c with frames := 0, concealed := 0, stale := 0, abandoned := 0 })) d') ∧
     (∃ d', exec .awningCountRead s = .next { s with dev := d' } ∧
       ReadsAs [(0, 32, s.dev.awning.throttleMs), (32, 16, s.dev.awning.steps), (48, 16, s.dev.awning.limitEvents)]
         (s.dev.modAwning (fun a => { a with throttleMs := 0, steps := 0, limitEvents := 0 })) d') ∧
     (∃ d', exec .evtStatusRead s = .next { s with dev := d' } ∧
       ReadsAs [(8, 3, s.dev.evt.restored), (32, 32, s.dev.evt.givenBack)]
         { s.dev with evt := { s.dev.evt with givenBack := 0 } } d' ∧
       ∀ c, c < 8 → d'.readData.testBit c = targetEnabled s.dev c) ∧
     (∃ d', exec .errStatusRead s = .next { s with dev := d' } ∧
       ReadsAs [(0, 9, s.dev.err.queue.length), (9, 1, b2n s.dev.err.overflow), (32, 32, s.dev.err.nextIndex)]
         { s.dev with err := { s.dev.err with overflow := false } } d') ∧
     (∃ d', exec .clkStatusRead s = .next { s with dev := d' } ∧
       ReadsAs [(0, 10, s.dev.pwr.locked.toNat), (32, 16, s.dev.pwr.losses)] (s.dev.modPwr (fun p => { p with losses := 0 })) d') ∧
     (∃ d', exec .sagStatusRead s = .next { s with dev := d' } ∧
       ReadsAs [(0, 4, s.dev.pwr.sagRail), (4, 2, s.dev.pwr.warnDie), (6, 1, b2n (!s.dev.pwr.sags.isEmpty)),
           (32, 16, s.dev.pwr.warnings), (48, 16, s.dev.pwr.sagSteps)]
         (s.dev.modPwr (fun p => { p with warnings := 0, sagSteps := 0 })) d') ∧
     (∃ d', exec .pwrStatusRead s = .next { s with dev := d' } ∧
       ReadsAs [(0, 2, s.dev.pwr.asleep), (2, 4, s.dev.pwr.shutter.toNat), (6, 1, b2n s.dev.pwr.darkValid),
           (7, 1, b2n (s.dev.pwr.want != 0)), (32, 32, s.dev.pwr.wakes)]
         (s.dev.modPwr (fun p => { p with wakes := 0 })) d') ∧
     (∃ d', exec .resetCauseRead s = .next { s with dev := d' } ∧
       ReadsAs [(0, 4, s.dev.pwr.kind), (4, 4, s.dev.pwr.rail), (8, 2, s.dev.pwr.sagDie), (10, 1, b2n s.dev.pwr.commitFinished),
           (11, 1, b2n s.dev.pwr.commitCut), (32, 32, s.dev.pwr.dieResets)]
         (s.dev.modPwr (fun p => { p with dieResets := 0 })) d') ∧
     (∃ d', exec .secStatusRead s = .next { s with dev := d' } ∧
       ReadsAs [(0, 1, b2n s.dev.sec.recovery), (1, 1, b2n s.dev.sec.idBad), (2, 1, b2n s.dev.sec.raising),
           (3, 1, b2n s.dev.sec.fallback), (32, 32, s.dev.sec.authFails)]
         { s.dev with sec := { s.dev.sec with authFails := 0 } } d'))

/-- Shutter, Close and Dark (R436, R463 to R466, R498): an idle die enters Shutter and wakes; entry to Close or Dark waits until
every die is idle and no packet runs, then saves the events, takes the ports down and puts the stacks in self-refresh; a wake
restores the events; after a Dark wake with a good save the contexts and the stack contents are as saved and SRAM is gone. -/
def Obligations.PowerStates : Prop :=
  ∀ (s : State),
    (∀ x : DieId, s.dev.cfg.shutterEn = true → s.dev.pwr.asleep = 0 → dieIdle s.dev x.val = true →
      ∃ d', exec (.shutterEntry x) s = .next { s with dev := d' } ∧ { d' with pwr := s.dev.pwr } = s.dev ∧
        { d'.pwr with shutter := s.dev.pwr.shutter } = s.dev.pwr ∧
        ∀ y : DieId, d'.pwr.shutter.getLsbD y.val = (s.dev.pwr.shutter.getLsbD y.val || decide (y = x))) ∧
    (∀ x : DieId, s.dev.pwr.shutter.getLsbD x.val = true →
      ∃ d', exec (.shutterWake x) s = .next { s with dev := d' } ∧ { d' with pwr := s.dev.pwr } = s.dev ∧
        d'.pwr.wakes = s.dev.pwr.wakes + 1 ∧
        ∀ y : DieId, d'.pwr.shutter.getLsbD y.val = (s.dev.pwr.shutter.getLsbD y.val && decide (y ≠ x))) ∧
    (s.dev.pwr.asleep ≠ 2 →
      exec (.pwrEnterClose none) s = .next { s with dev := { s.dev with pwr := { s.dev.pwr with want := 1 } } } ∧
      exec (.pwrEnterDark none) s = .next { s with dev := { s.dev with pwr := { s.dev.pwr with want := 2 } } } ∧
      ∀ src, mayWrite s.dev src = true →
        exec (.pwrEnterClose (some src)) s = .next { s with dev := { s.dev with pwr := { s.dev.pwr with want := 1 } } } ∧
        exec (.pwrEnterDark (some src)) s = .next { s with dev := { s.dev with pwr := { s.dev.pwr with want := 2 } } }) ∧
    (∀ n c, (n = 1 ∧ c = .closeEntry) ∨ (n = 2 ∧ c = .darkEntry) → s.dev.pwr.want = n →
      (canSleep s.dev = false → exec c s = .next s) ∧
      (canSleep s.dev = true →
        ∃ d' r, exec c s = .next { s with dev := d' } ∧ d'.pwr.asleep = n ∧ d'.pwr.want = 0 ∧ d'.pwr.shutter = 0 ∧
          d'.evt.frozen = true ∧ d'.evt.queues = [] ∧ d'.evt.retention = some r ∧ r.enabled = s.dev.evt.enabled ∧
          r.routes = s.dev.cfg.evt ∧ (∀ k, k < 12 → (d'.stk k).refresh = true) ∧
          (∀ p, p < 24 → (d'.port p).state = 0 ∨ (d'.port p).state = 7) ∧ d'.mem = s.dev.mem ∧ d'.homes = s.dev.homes ∧
          (n = 1 → d'.pwr.darkValid = s.dev.pwr.darkValid ∧ d'.host = s.dev.host) ∧
          (n = 2 → d'.pwr.darkValid = true ∧ d'.pwr.sleepN = false ∧ d'.host.rate = 0))) ∧
    (∀ r, s.dev.pwr.asleep = 1 → s.dev.evt.retention = some r →
      ∃ d', exec .closeWake s = .next { s with dev := d' } ∧ d'.pwr.asleep = 0 ∧ d'.pwr.wakes = s.dev.pwr.wakes + 1 ∧
        d'.evt.frozen = false ∧ d'.evt.retention = none ∧ d'.evt.queues = [] ∧ d'.evt.enabled = r.enabled ∧ d'.evt.restored = 1 ∧
        (∀ k, k < 12 → (d'.stk k).refresh = false) ∧ d'.mem = s.dev.mem ∧ d'.ctxs = s.dev.ctxs) ∧
    (∀ r, s.dev.pwr.asleep = 2 → s.dev.pwr.darkValid = true → s.dev.evt.retention = some r →
      (∀ p, p < 4 → (s.dev.pool p).seqs = 0 ∧ (s.dev.pool p).sramPitches = 0) →
      (∃ d', exec (.darkWake true) s = .next { s with dev := d' } ∧ d'.pwr.asleep = 0 ∧ d'.pwr.kind = 6 ∧
        d'.pwr.wakes = s.dev.pwr.wakes + 1 ∧ d'.pwr.starting = true ∧ d'.ctxs = s.dev.ctxs ∧ d'.homes = s.dev.homes ∧
        d'.tills = s.dev.tills ∧ d'.cores = [] ∧ d'.evt.restored = 2 ∧ d'.evt.retention = none ∧ d'.evt.enabled = r.enabled ∧
        d'.badSram = [] ∧ ∀ a, rdByte d' a = if stackBase ≤ a then rdByte s.dev a else 0) ∧
      (∃ d', exec (.darkWake false) s = .next { s with dev := d' } ∧ HubReached 1 s.dev d' ∧ d'.pwr.starting = true))

/-- Resets (R458, R462, R467 to R472, R476, R497): what each kind reaches; a cold reset takes the always-on domain too, a
package soft reset leaves the CXL link; in Dark with a valid save RESET_N only precedes the wake; the release of RESET_N starts
the package, and the shape table is published once the stacks are trained and a complex leads. An unlisted byte reads as log
entry 4 chooses. CORE_RESET, CORE_CHECK_DONE, CLUSTER_RETIRE and PREDICTIVE_RETIRE with no task running, and
CXL_CONVENTIONAL_RESET (R14, R21, R449, R468, R470): the core leaves service and is checked, and returns or is retired for good;
the positions named are retired; a worn core is retired only where its cluster keeps a spare's cover; an order for a core waits
for its die's crier, and CLUSTER_RETIRE is not the host's; a conventional reset ends tasks, unloads programs and disables the
tills, and leaves criers, lease and fabric table alone. -/
def Obligations.ResetsReachAndCoresLeave : Prop :=
  (∀ (s : State),
     (∀ commit, ∃ d', exec (.coldReset commit) s = .next { s with dev := d' } ∧ HubReached 0 s.dev d' ∧ d'.err = {} ∧ d'.lease = {} ∧
       d'.sec.idBad = (!s.dev.sec.certOk) ∧ d'.pwr.resetLow = true ∧ d'.pwr.commitCut = commit ∧ d'.pwr.commitFinished = false) ∧
     (∀ commit, ¬(s.dev.pwr.asleep = 2 ∧ s.dev.pwr.darkValid = true) →
       ∃ d', exec (.warmReset commit) s = .next { s with dev := d' } ∧ HubReached 1 s.dev d' ∧ d'.err.queue = s.dev.err.queue ∧
         d'.lease.holderB = s.dev.lease.holderB ∧ d'.pwr.resetLow = true ∧ d'.pwr.commitFinished = commit) ∧
     (∀ commit, s.dev.pwr.asleep = 2 → s.dev.pwr.darkValid = true →
       exec (.warmReset commit) s = .next { s with dev := { s.dev with pwr := { s.dev.pwr with resetLow := true } } } ∧
       exec .resetNRelease s = .next s) ∧
     (∀ src commit, mayWrite s.dev src = true →
       ∃ d', exec (.packageSoftReset src commit) s = .next { s with dev := d' } ∧ HubReached 4 s.dev d' ∧
         d'.err.queue = s.dev.err.queue ∧ d'.host.rate = s.dev.host.rate ∧ d'.host.width = s.dev.host.width ∧
         d'.pwr.starting = true ∧ d'.pwr.commitFinished = commit) ∧
     (s.dev.pwr.resetLow = true → s.dev.pwr.asleep ≠ 2 →
       exec .resetNRelease s = .next { s with dev := { s.dev with pwr := { s.dev.pwr with
         resetLow := false, starting := true, locked := 0x3FF } } }) ∧
     (s.dev.pwr.starting = true → s.dev.lease.valid = true → (∀ k, k < 12 → (s.dev.stk k).trained = true) →
       ∃ d', exec .startupPublish s = .next { s with dev := d' } ∧ d'.pwr.starting = false ∧ d'.shape.published = true ∧
         d'.badSram = [] ∧ d'.mem = s.dev.mem ∧ d'.ctxs = s.dev.ctxs ∧ d'.tills = s.dev.tills ∧
         d'.shape.stackCap.length = 12 ∧ ∀ k, k < 12 → d'.shape.stackCap[k]? =
           some (0x0C00000000 - chanBytes * (s.dev.losses.filter (fun l => l.stack == k)).length)) ∧
     (noStreams s.dev → Tab.wf ({} : Ctx) s.dev.ctxs = true → ∀ x : DieId,
       (∃ d', exec (.dieReset none x) s = .next { s with dev := d' } ∧ DieReached x.val s.dev d') ∧
       (∀ src, mayWrite s.dev src = true →
         ∃ d', exec (.dieReset (some src) x) s = .next { s with dev := d' } ∧ DieReached x.val s.dev d') ∧
       (∀ k commit, k = .dieRoot x ∨ k = .dieSerdes x →
         ∃ d', exec (.clockLoss k commit) s = .next { s with dev := d' } ∧ DieReached x.val s.dev d' ∧
           d'.pwr.losses = s.dev.pwr.losses + 1) ∧
       (∀ commit, s.dev.pwr.asleep ≠ 2 → ∃ d', exec (.sagReset 0 x commit) s = .next { s with dev := d' } ∧
         DieReached x.val s.dev d' ∧ d'.pwr.rail = 0 ∧ d'.pwr.sagDie = x.val)) ∧
     (∀ commit, (∀ k, k = .hubRoot ∨ k = .cxlPll ∨ k = .refclk → ∃ d', exec (.clockLoss k commit) s = .next { s with dev := d' } ∧
         HubReached 3 s.dev d' ∧ d'.pwr.commitFinished = commit ∧ d'.pwr.resetLow = decide (k = .refclk)) ∧
       ∀ (rail : Fin 7) (x : DieId), rail ≠ 0 → (s.dev.pwr.asleep = 2 → rail = 4 ∨ rail = 6) →
         ∃ d', exec (.sagReset rail x commit) s = .next { s with dev := d' } ∧ HubReached (if rail = 6 then 0 else 2) s.dev d' ∧
           d'.pwr.rail = rail.val ∧ d'.pwr.sagDie = x.val)) ∧
  (∀ (s : State),
     (∀ src (c : CoreId), mayWrite s.dev src = true → s.dev.seq.running = none → (c.val, false) ∉ s.dev.seq.adopt →
       (s.dev.cluster (c.val / 9)).retired.getLsbD (c.val % 9) = false → dieCrierRuns s.dev (c.val / 36) = true →
       ∃ d', exec (.coreReset src c) s = .next { s with dev := d' } ∧ Tab.get false d'.pwr.coreCheck c.val = true ∧
         d'.core c.val = {} ∧ (d'.cluster (c.val / 9)).coreOk.getLsbD (c.val % 9) = false ∧ OnlyAccBytes s.dev d') ∧
     (∀ src (c : CoreId), mayWrite s.dev src = true → dieCrierRuns s.dev (c.val / 36) = false →
       exec (.coreReset src c) s =
         .next { s with dev := { s.dev with waiting := s.dev.waiting ++ [(c.val / 36, .coreReset src c)] } }) ∧
     (∀ c : CoreId, Tab.get false s.dev.pwr.coreCheck c.val = true →
       (∃ d', exec (.coreCheckDone c true) s = .next { s with dev := d' } ∧ Tab.get false d'.pwr.coreCheck c.val = false ∧
         OnlyAccBytes s.dev d' ∧ ((s.dev.cluster (c.val / 9)).retired.getLsbD (c.val % 9) = false →
           (d'.cluster (c.val / 9)).coreOk.getLsbD (c.val % 9) = true) ∧
         ((s.dev.cluster (c.val / 9)).retired.getLsbD (c.val % 9) = true → d'.clusters = s.dev.clusters)) ∧
       (∃ d', exec (.coreCheckDone c false) s = .next { s with dev := d' } ∧ Tab.get false d'.pwr.coreCheck c.val = false ∧
         (d'.cluster (c.val / 9)).retired.getLsbD (c.val % 9) = true ∧ OnlyAccBytes s.dev d')) ∧
     (∀ (c : ClusterId) (bits : BitVec 9),
       exec (.clusterRetire .host c bits) s = .next { s with dev := { s.dev with logged := s.dev.logged + 1 } }) ∧
     (∀ (x : CrierId) (c : ClusterId) (bits : BitVec 9), leads s.dev x = true ∨ x.val = 4 + c.val / 4 → s.dev.seq.running = none →
       s.dev.seq.adopt = [] → dieCrierRuns s.dev (c.val / 4) = true →
       ∃ d', exec (.clusterRetire (.crier x) c bits) s = .next { s with dev := d' } ∧ OnlyAccBytes s.dev d' ∧
         ∀ i, i < 9 → (d'.cluster c.val).retired.getLsbD i = ((s.dev.cluster c.val).retired.getLsbD i || bits.getLsbD i)) ∧
     (∀ c : CoreId, (∀ t, (s.dev.ctx t).phase = .idle) → s.dev.seq.running = none → s.dev.lease.valid = true → s.dev.cfg.predictEn = true →
       s.dev.cfg.wearReplays.toNat ≤ retriesIn24h s.dev c.val →
       (s.dev.cluster (c.val / 9)).coreOk.getLsbD (c.val % 9) = true →
       ((s.dev.cluster (c.val / 9)).spareList = [] → exec (.predictiveRetire c) s = .next s) ∧
       ((s.dev.cluster (c.val / 9)).spareList ≠ [] →
         ∃ d', exec (.predictiveRetire c) s = .next { s with dev := d' } ∧ Recorded 0 1 16 s.dev d' ∧
           (d'.cluster (c.val / 9)).retired.getLsbD (c.val % 9) = true ∧ OnlyAccBytes s.dev d')) ∧
     (noStreams s.dev →
       ∃ d', exec .cxlConventionalReset s = .next { s with dev := d' } ∧ d'.pwr.kind = 5 ∧ d'.pwr.darkValid = false ∧ d'.tills = [] ∧
         d'.host.agreed = 0 ∧ d'.criers = s.dev.criers ∧ d'.fabric.table = s.dev.fabric.table ∧
         d'.ledger.regions = s.dev.ledger.regions ∧ ∀ t, (d'.ctx t).prog = none ∧ (d'.ctx t).phase = .idle))
end

