-- ==== Sys2Proof/Laws/State.lean ====
section
/-! SUPPORT. What each named update of the device leaves alone: one lemma per field, and what it changes. -/

namespace Sys2Proof.Machine

variable (d : Dev)

/-- Writing bytes changes memory alone. -/
theorem wrBytes_frame (a : Nat) (l : List Byte) (d : Dev) : wrBytes a l d = { d with mem := (wrBytes a l d).mem } := by
  induction l generalizing a d with
  | nil => rfl
  | cons v r ih => rw [wrBytes, ih]; rfl

@[simp] theorem modCtx_grade (t : CtxId) (f : Ctx → Ctx) : (d.modCtx t f).grade = d.grade := rfl
@[simp] theorem modCtx_wall (t : CtxId) (f : Ctx → Ctx) : (d.modCtx t f).wall = d.wall := rfl
@[simp] theorem modCtx_freeIdx (t : CtxId) (f : Ctx → Ctx) : (d.modCtx t f).freeIdx = d.freeIdx := rfl
@[simp] theorem modCtx_readData (t : CtxId) (f : Ctx → Ctx) : (d.modCtx t f).readData = d.readData := rfl
@[simp] theorem modCtx_logged (t : CtxId) (f : Ctx → Ctx) : (d.modCtx t f).logged = d.logged := rfl
@[simp] theorem modCtx_cfg (t : CtxId) (f : Ctx → Ctx) : (d.modCtx t f).cfg = d.cfg := rfl
@[simp] theorem modCtx_evt (t : CtxId) (f : Ctx → Ctx) : (d.modCtx t f).evt = d.evt := rfl
@[simp] theorem modCtx_err (t : CtxId) (f : Ctx → Ctx) : (d.modCtx t f).err = d.err := rfl
@[simp] theorem modCtx_clusters (t : CtxId) (f : Ctx → Ctx) : (d.modCtx t f).clusters = d.clusters := rfl
@[simp] theorem modCtx_shape (t : CtxId) (f : Ctx → Ctx) : (d.modCtx t f).shape = d.shape := rfl
@[simp] theorem modCtx_criers (t : CtxId) (f : Ctx → Ctx) : (d.modCtx t f).criers = d.criers := rfl
@[simp] theorem modCtx_lease (t : CtxId) (f : Ctx → Ctx) : (d.modCtx t f).lease = d.lease := rfl
@[simp] theorem modCtx_fw (t : CtxId) (f : Ctx → Ctx) : (d.modCtx t f).fw = d.fw := rfl
@[simp] theorem modCtx_awning (t : CtxId) (f : Ctx → Ctx) : (d.modCtx t f).awning = d.awning := rfl
@[simp] theorem modCtx_ledger (t : CtxId) (f : Ctx → Ctx) : (d.modCtx t f).ledger = d.ledger := rfl
@[simp] theorem modCtx_pwr (t : CtxId) (f : Ctx → Ctx) : (d.modCtx t f).pwr = d.pwr := rfl
@[simp] theorem modCtx_sec (t : CtxId) (f : Ctx → Ctx) : (d.modCtx t f).sec = d.sec := rfl
@[simp] theorem modCtx_tills (t : CtxId) (f : Ctx → Ctx) : (d.modCtx t f).tills = d.tills := rfl
@[simp] theorem modCtx_host (t : CtxId) (f : Ctx → Ctx) : (d.modCtx t f).host = d.host := rfl
@[simp] theorem modCtx_seq (t : CtxId) (f : Ctx → Ctx) : (d.modCtx t f).seq = d.seq := rfl
@[simp] theorem modCtx_cores (t : CtxId) (f : Ctx → Ctx) : (d.modCtx t f).cores = d.cores := rfl
@[simp] theorem modCtx_mem (t : CtxId) (f : Ctx → Ctx) : (d.modCtx t f).mem = d.mem := rfl
@[simp] theorem modCtx_badSram (t : CtxId) (f : Ctx → Ctx) : (d.modCtx t f).badSram = d.badSram := rfl
@[simp] theorem modCtx_veil (t : CtxId) (f : Ctx → Ctx) : (d.modCtx t f).veil = d.veil := rfl
@[simp] theorem modCtx_waiting (t : CtxId) (f : Ctx → Ctx) : (d.modCtx t f).waiting = d.waiting := rfl
@[simp] theorem modCtx_accHeld (t : CtxId) (f : Ctx → Ctx) : (d.modCtx t f).accHeld = d.accHeld := rfl
@[simp] theorem modCtx_loopFaults (t : CtxId) (f : Ctx → Ctx) : (d.modCtx t f).loopFaults = d.loopFaults := rfl
@[simp] theorem modCtx_stewardStep (t : CtxId) (f : Ctx → Ctx) : (d.modCtx t f).stewardStep = d.stewardStep := rfl
@[simp] theorem modCtx_stewardTask (t : CtxId) (f : Ctx → Ctx) : (d.modCtx t f).stewardTask = d.stewardTask := rfl
@[simp] theorem modCtx_handoff (t : CtxId) (f : Ctx → Ctx) : (d.modCtx t f).handoff = d.handoff := rfl
@[simp] theorem modCtx_frames (t : CtxId) (f : Ctx → Ctx) : (d.modCtx t f).frames = d.frames := rfl
@[simp] theorem modCtx_pools (t : CtxId) (f : Ctx → Ctx) : (d.modCtx t f).pools = d.pools := rfl
@[simp] theorem modCtx_ptOps (t : CtxId) (f : Ctx → Ctx) : (d.modCtx t f).ptOps = d.ptOps := rfl
@[simp] theorem modCtx_ptNext (t : CtxId) (f : Ctx → Ctx) : (d.modCtx t f).ptNext = d.ptNext := rfl
@[simp] theorem modCtx_ptHeld (t : CtxId) (f : Ctx → Ctx) : (d.modCtx t f).ptHeld = d.ptHeld := rfl
@[simp] theorem modCtx_drains (t : CtxId) (f : Ctx → Ctx) : (d.modCtx t f).drains = d.drains := rfl
@[simp] theorem modCtx_lastPorter (t : CtxId) (f : Ctx → Ctx) : (d.modCtx t f).lastPorter = d.lastPorter := rfl
@[simp] theorem modCtx_offSent (t : CtxId) (f : Ctx → Ctx) : (d.modCtx t f).offSent = d.offSent := rfl
@[simp] theorem modCtx_offFetched (t : CtxId) (f : Ctx → Ctx) : (d.modCtx t f).offFetched = d.offFetched := rfl
@[simp] theorem modCtx_homes (t : CtxId) (f : Ctx → Ctx) : (d.modCtx t f).homes = d.homes := rfl
@[simp] theorem modCtx_moves (t : CtxId) (f : Ctx → Ctx) : (d.modCtx t f).moves = d.moves := rfl
@[simp] theorem modCtx_stks (t : CtxId) (f : Ctx → Ctx) : (d.modCtx t f).stks = d.stks := rfl
@[simp] theorem modCtx_losses (t : CtxId) (f : Ctx → Ctx) : (d.modCtx t f).losses = d.losses := rfl
@[simp] theorem modCtx_badBlocks (t : CtxId) (f : Ctx → Ctx) : (d.modCtx t f).badBlocks = d.badBlocks := rfl
@[simp] theorem modCtx_reloc (t : CtxId) (f : Ctx → Ctx) : (d.modCtx t f).reloc = d.reloc := rfl
@[simp] theorem modCtx_intent (t : CtxId) (f : Ctx → Ctx) : (d.modCtx t f).intent = d.intent := rfl
@[simp] theorem modCtx_repair (t : CtxId) (f : Ctx → Ctx) : (d.modCtx t f).repair = d.repair := rfl
@[simp] theorem modCtx_ports (t : CtxId) (f : Ctx → Ctx) : (d.modCtx t f).ports = d.ports := rfl
@[simp] theorem modCtx_fabric (t : CtxId) (f : Ctx → Ctx) : (d.modCtx t f).fabric = d.fabric := rfl
@[simp] theorem modCtx_red (t : CtxId) (f : Ctx → Ctx) : (d.modCtx t f).red = d.red := rfl
@[simp] theorem modCtx_banks (t : CtxId) (f : Ctx → Ctx) : (d.modCtx t f).banks = d.banks := rfl
@[simp] theorem modCtx_redSubst (t : CtxId) (f : Ctx → Ctx) : (d.modCtx t f).redSubst = d.redSubst := rfl
@[simp] theorem modCtx_redMismatch (t : CtxId) (f : Ctx → Ctx) : (d.modCtx t f).redMismatch = d.redMismatch := rfl
@[simp] theorem modCtx_health (t : CtxId) (f : Ctx → Ctx) : (d.modCtx t f).health = d.health := rfl
@[simp] theorem modCtx_replayStat (t : CtxId) (f : Ctx → Ctx) : (d.modCtx t f).replayStat = d.replayStat := rfl
@[simp] theorem modCtx_codecs (t : CtxId) (f : Ctx → Ctx) : (d.modCtx t f).codecs = d.codecs := rfl
@[simp] theorem modCluster_grade (c : Nat) (f : Cluster → Cluster) : (d.modCluster c f).grade = d.grade := rfl
@[simp] theorem modCluster_wall (c : Nat) (f : Cluster → Cluster) : (d.modCluster c f).wall = d.wall := rfl
@[simp] theorem modCluster_freeIdx (c : Nat) (f : Cluster → Cluster) : (d.modCluster c f).freeIdx = d.freeIdx := rfl
@[simp] theorem modCluster_readData (c : Nat) (f : Cluster → Cluster) : (d.modCluster c f).readData = d.readData := rfl
@[simp] theorem modCluster_logged (c : Nat) (f : Cluster → Cluster) : (d.modCluster c f).logged = d.logged := rfl
@[simp] theorem modCluster_cfg (c : Nat) (f : Cluster → Cluster) : (d.modCluster c f).cfg = d.cfg := rfl
@[simp] theorem modCluster_evt (c : Nat) (f : Cluster → Cluster) : (d.modCluster c f).evt = d.evt := rfl
@[simp] theorem modCluster_err (c : Nat) (f : Cluster → Cluster) : (d.modCluster c f).err = d.err := rfl
@[simp] theorem modCluster_shape (c : Nat) (f : Cluster → Cluster) : (d.modCluster c f).shape = d.shape := rfl
@[simp] theorem modCluster_criers (c : Nat) (f : Cluster → Cluster) : (d.modCluster c f).criers = d.criers := rfl
@[simp] theorem modCluster_lease (c : Nat) (f : Cluster → Cluster) : (d.modCluster c f).lease = d.lease := rfl
@[simp] theorem modCluster_fw (c : Nat) (f : Cluster → Cluster) : (d.modCluster c f).fw = d.fw := rfl
@[simp] theorem modCluster_awning (c : Nat) (f : Cluster → Cluster) : (d.modCluster c f).awning = d.awning := rfl
@[simp] theorem modCluster_ledger (c : Nat) (f : Cluster → Cluster) : (d.modCluster c f).ledger = d.ledger := rfl
@[simp] theorem modCluster_pwr (c : Nat) (f : Cluster → Cluster) : (d.modCluster c f).pwr = d.pwr := rfl
@[simp] theorem modCluster_sec (c : Nat) (f : Cluster → Cluster) : (d.modCluster c f).sec = d.sec := rfl
@[simp] theorem modCluster_tills (c : Nat) (f : Cluster → Cluster) : (d.modCluster c f).tills = d.tills := rfl
@[simp] theorem modCluster_host (c : Nat) (f : Cluster → Cluster) : (d.modCluster c f).host = d.host := rfl
@[simp] theorem modCluster_seq (c : Nat) (f : Cluster → Cluster) : (d.modCluster c f).seq = d.seq := rfl
@[simp] theorem modCluster_ctxs (c : Nat) (f : Cluster → Cluster) : (d.modCluster c f).ctxs = d.ctxs := rfl
@[simp] theorem modCluster_cores (c : Nat) (f : Cluster → Cluster) : (d.modCluster c f).cores = d.cores := rfl
@[simp] theorem modCluster_mem (c : Nat) (f : Cluster → Cluster) : (d.modCluster c f).mem = d.mem := rfl
@[simp] theorem modCluster_badSram (c : Nat) (f : Cluster → Cluster) : (d.modCluster c f).badSram = d.badSram := rfl
@[simp] theorem modCluster_veil (c : Nat) (f : Cluster → Cluster) : (d.modCluster c f).veil = d.veil := rfl
@[simp] theorem modCluster_waiting (c : Nat) (f : Cluster → Cluster) : (d.modCluster c f).waiting = d.waiting := rfl
@[simp] theorem modCluster_accHeld (c : Nat) (f : Cluster → Cluster) : (d.modCluster c f).accHeld = d.accHeld := rfl
@[simp] theorem modCluster_loopFaults (c : Nat) (f : Cluster → Cluster) : (d.modCluster c f).loopFaults = d.loopFaults := rfl
@[simp] theorem modCluster_stewardStep (c : Nat) (f : Cluster → Cluster) : (d.modCluster c f).stewardStep = d.stewardStep := rfl
@[simp] theorem modCluster_stewardTask (c : Nat) (f : Cluster → Cluster) : (d.modCluster c f).stewardTask = d.stewardTask := rfl
@[simp] theorem modCluster_handoff (c : Nat) (f : Cluster → Cluster) : (d.modCluster c f).handoff = d.handoff := rfl
@[simp] theorem modCluster_frames (c : Nat) (f : Cluster → Cluster) : (d.modCluster c f).frames = d.frames := rfl
@[simp] theorem modCluster_pools (c : Nat) (f : Cluster → Cluster) : (d.modCluster c f).pools = d.pools := rfl
@[simp] theorem modCluster_ptOps (c : Nat) (f : Cluster → Cluster) : (d.modCluster c f).ptOps = d.ptOps := rfl
@[simp] theorem modCluster_ptNext (c : Nat) (f : Cluster → Cluster) : (d.modCluster c f).ptNext = d.ptNext := rfl
@[simp] theorem modCluster_ptHeld (c : Nat) (f : Cluster → Cluster) : (d.modCluster c f).ptHeld = d.ptHeld := rfl
@[simp] theorem modCluster_drains (c : Nat) (f : Cluster → Cluster) : (d.modCluster c f).drains = d.drains := rfl
@[simp] theorem modCluster_lastPorter (c : Nat) (f : Cluster → Cluster) : (d.modCluster c f).lastPorter = d.lastPorter := rfl
@[simp] theorem modCluster_offSent (c : Nat) (f : Cluster → Cluster) : (d.modCluster c f).offSent = d.offSent := rfl
@[simp] theorem modCluster_offFetched (c : Nat) (f : Cluster → Cluster) : (d.modCluster c f).offFetched = d.offFetched := rfl
@[simp] theorem modCluster_homes (c : Nat) (f : Cluster → Cluster) : (d.modCluster c f).homes = d.homes := rfl
@[simp] theorem modCluster_moves (c : Nat) (f : Cluster → Cluster) : (d.modCluster c f).moves = d.moves := rfl
@[simp] theorem modCluster_stks (c : Nat) (f : Cluster → Cluster) : (d.modCluster c f).stks = d.stks := rfl
@[simp] theorem modCluster_losses (c : Nat) (f : Cluster → Cluster) : (d.modCluster c f).losses = d.losses := rfl
@[simp] theorem modCluster_badBlocks (c : Nat) (f : Cluster → Cluster) : (d.modCluster c f).badBlocks = d.badBlocks := rfl
@[simp] theorem modCluster_reloc (c : Nat) (f : Cluster → Cluster) : (d.modCluster c f).reloc = d.reloc := rfl
@[simp] theorem modCluster_intent (c : Nat) (f : Cluster → Cluster) : (d.modCluster c f).intent = d.intent := rfl
@[simp] theorem modCluster_repair (c : Nat) (f : Cluster → Cluster) : (d.modCluster c f).repair = d.repair := rfl
@[simp] theorem modCluster_ports (c : Nat) (f : Cluster → Cluster) : (d.modCluster c f).ports = d.ports := rfl
@[simp] theorem modCluster_fabric (c : Nat) (f : Cluster → Cluster) : (d.modCluster c f).fabric = d.fabric := rfl
@[simp] theorem modCluster_red (c : Nat) (f : Cluster → Cluster) : (d.modCluster c f).red = d.red := rfl
@[simp] theorem modCluster_banks (c : Nat) (f : Cluster → Cluster) : (d.modCluster c f).banks = d.banks := rfl
@[simp] theorem modCluster_redSubst (c : Nat) (f : Cluster → Cluster) : (d.modCluster c f).redSubst = d.redSubst := rfl
@[simp] theorem modCluster_redMismatch (c : Nat) (f : Cluster → Cluster) : (d.modCluster c f).redMismatch = d.redMismatch := rfl
@[simp] theorem modCluster_health (c : Nat) (f : Cluster → Cluster) : (d.modCluster c f).health = d.health := rfl
@[simp] theorem modCluster_replayStat (c : Nat) (f : Cluster → Cluster) : (d.modCluster c f).replayStat = d.replayStat := rfl
@[simp] theorem modCluster_codecs (c : Nat) (f : Cluster → Cluster) : (d.modCluster c f).codecs = d.codecs := rfl
@[simp] theorem modTill_grade (n : TillId) (f : Till → Till) : (d.modTill n f).grade = d.grade := rfl
@[simp] theorem modTill_wall (n : TillId) (f : Till → Till) : (d.modTill n f).wall = d.wall := rfl
@[simp] theorem modTill_freeIdx (n : TillId) (f : Till → Till) : (d.modTill n f).freeIdx = d.freeIdx := rfl
@[simp] theorem modTill_readData (n : TillId) (f : Till → Till) : (d.modTill n f).readData = d.readData := rfl
@[simp] theorem modTill_logged (n : TillId) (f : Till → Till) : (d.modTill n f).logged = d.logged := rfl
@[simp] theorem modTill_cfg (n : TillId) (f : Till → Till) : (d.modTill n f).cfg = d.cfg := rfl
@[simp] theorem modTill_evt (n : TillId) (f : Till → Till) : (d.modTill n f).evt = d.evt := rfl
@[simp] theorem modTill_err (n : TillId) (f : Till → Till) : (d.modTill n f).err = d.err := rfl
@[simp] theorem modTill_clusters (n : TillId) (f : Till → Till) : (d.modTill n f).clusters = d.clusters := rfl
@[simp] theorem modTill_shape (n : TillId) (f : Till → Till) : (d.modTill n f).shape = d.shape := rfl
@[simp] theorem modTill_criers (n : TillId) (f : Till → Till) : (d.modTill n f).criers = d.criers := rfl
@[simp] theorem modTill_lease (n : TillId) (f : Till → Till) : (d.modTill n f).lease = d.lease := rfl
@[simp] theorem modTill_fw (n : TillId) (f : Till → Till) : (d.modTill n f).fw = d.fw := rfl
@[simp] theorem modTill_awning (n : TillId) (f : Till → Till) : (d.modTill n f).awning = d.awning := rfl
@[simp] theorem modTill_ledger (n : TillId) (f : Till → Till) : (d.modTill n f).ledger = d.ledger := rfl
@[simp] theorem modTill_pwr (n : TillId) (f : Till → Till) : (d.modTill n f).pwr = d.pwr := rfl
@[simp] theorem modTill_sec (n : TillId) (f : Till → Till) : (d.modTill n f).sec = d.sec := rfl
@[simp] theorem modTill_host (n : TillId) (f : Till → Till) : (d.modTill n f).host = d.host := rfl
@[simp] theorem modTill_seq (n : TillId) (f : Till → Till) : (d.modTill n f).seq = d.seq := rfl
@[simp] theorem modTill_ctxs (n : TillId) (f : Till → Till) : (d.modTill n f).ctxs = d.ctxs := rfl
@[simp] theorem modTill_cores (n : TillId) (f : Till → Till) : (d.modTill n f).cores = d.cores := rfl
@[simp] theorem modTill_mem (n : TillId) (f : Till → Till) : (d.modTill n f).mem = d.mem := rfl
@[simp] theorem modTill_badSram (n : TillId) (f : Till → Till) : (d.modTill n f).badSram = d.badSram := rfl
@[simp] theorem modTill_veil (n : TillId) (f : Till → Till) : (d.modTill n f).veil = d.veil := rfl
@[simp] theorem modTill_waiting (n : TillId) (f : Till → Till) : (d.modTill n f).waiting = d.waiting := rfl
@[simp] theorem modTill_accHeld (n : TillId) (f : Till → Till) : (d.modTill n f).accHeld = d.accHeld := rfl
@[simp] theorem modTill_loopFaults (n : TillId) (f : Till → Till) : (d.modTill n f).loopFaults = d.loopFaults := rfl
@[simp] theorem modTill_stewardStep (n : TillId) (f : Till → Till) : (d.modTill n f).stewardStep = d.stewardStep := rfl
@[simp] theorem modTill_stewardTask (n : TillId) (f : Till → Till) : (d.modTill n f).stewardTask = d.stewardTask := rfl
@[simp] theorem modTill_handoff (n : TillId) (f : Till → Till) : (d.modTill n f).handoff = d.handoff := rfl
@[simp] theorem modTill_frames (n : TillId) (f : Till → Till) : (d.modTill n f).frames = d.frames := rfl
@[simp] theorem modTill_pools (n : TillId) (f : Till → Till) : (d.modTill n f).pools = d.pools := rfl
@[simp] theorem modTill_ptOps (n : TillId) (f : Till → Till) : (d.modTill n f).ptOps = d.ptOps := rfl
@[simp] theorem modTill_ptNext (n : TillId) (f : Till → Till) : (d.modTill n f).ptNext = d.ptNext := rfl
@[simp] theorem modTill_ptHeld (n : TillId) (f : Till → Till) : (d.modTill n f).ptHeld = d.ptHeld := rfl
@[simp] theorem modTill_drains (n : TillId) (f : Till → Till) : (d.modTill n f).drains = d.drains := rfl
@[simp] theorem modTill_lastPorter (n : TillId) (f : Till → Till) : (d.modTill n f).lastPorter = d.lastPorter := rfl
@[simp] theorem modTill_offSent (n : TillId) (f : Till → Till) : (d.modTill n f).offSent = d.offSent := rfl
@[simp] theorem modTill_offFetched (n : TillId) (f : Till → Till) : (d.modTill n f).offFetched = d.offFetched := rfl
@[simp] theorem modTill_homes (n : TillId) (f : Till → Till) : (d.modTill n f).homes = d.homes := rfl
@[simp] theorem modTill_moves (n : TillId) (f : Till → Till) : (d.modTill n f).moves = d.moves := rfl
@[simp] theorem modTill_stks (n : TillId) (f : Till → Till) : (d.modTill n f).stks = d.stks := rfl
@[simp] theorem modTill_losses (n : TillId) (f : Till → Till) : (d.modTill n f).losses = d.losses := rfl
@[simp] theorem modTill_badBlocks (n : TillId) (f : Till → Till) : (d.modTill n f).badBlocks = d.badBlocks := rfl
@[simp] theorem modTill_reloc (n : TillId) (f : Till → Till) : (d.modTill n f).reloc = d.reloc := rfl
@[simp] theorem modTill_intent (n : TillId) (f : Till → Till) : (d.modTill n f).intent = d.intent := rfl
@[simp] theorem modTill_repair (n : TillId) (f : Till → Till) : (d.modTill n f).repair = d.repair := rfl
@[simp] theorem modTill_ports (n : TillId) (f : Till → Till) : (d.modTill n f).ports = d.ports := rfl
@[simp] theorem modTill_fabric (n : TillId) (f : Till → Till) : (d.modTill n f).fabric = d.fabric := rfl
@[simp] theorem modTill_red (n : TillId) (f : Till → Till) : (d.modTill n f).red = d.red := rfl
@[simp] theorem modTill_banks (n : TillId) (f : Till → Till) : (d.modTill n f).banks = d.banks := rfl
@[simp] theorem modTill_redSubst (n : TillId) (f : Till → Till) : (d.modTill n f).redSubst = d.redSubst := rfl
@[simp] theorem modTill_redMismatch (n : TillId) (f : Till → Till) : (d.modTill n f).redMismatch = d.redMismatch := rfl
@[simp] theorem modTill_health (n : TillId) (f : Till → Till) : (d.modTill n f).health = d.health := rfl
@[simp] theorem modTill_replayStat (n : TillId) (f : Till → Till) : (d.modTill n f).replayStat = d.replayStat := rfl
@[simp] theorem modTill_codecs (n : TillId) (f : Till → Till) : (d.modTill n f).codecs = d.codecs := rfl
@[simp] theorem modCrier_grade (c : CrierId) (f : Crier → Crier) : (d.modCrier c f).grade = d.grade := rfl
@[simp] theorem modCrier_wall (c : CrierId) (f : Crier → Crier) : (d.modCrier c f).wall = d.wall := rfl
@[simp] theorem modCrier_freeIdx (c : CrierId) (f : Crier → Crier) : (d.modCrier c f).freeIdx = d.freeIdx := rfl
@[simp] theorem modCrier_readData (c : CrierId) (f : Crier → Crier) : (d.modCrier c f).readData = d.readData := rfl
@[simp] theorem modCrier_logged (c : CrierId) (f : Crier → Crier) : (d.modCrier c f).logged = d.logged := rfl
@[simp] theorem modCrier_cfg (c : CrierId) (f : Crier → Crier) : (d.modCrier c f).cfg = d.cfg := rfl
@[simp] theorem modCrier_evt (c : CrierId) (f : Crier → Crier) : (d.modCrier c f).evt = d.evt := rfl
@[simp] theorem modCrier_err (c : CrierId) (f : Crier → Crier) : (d.modCrier c f).err = d.err := rfl
@[simp] theorem modCrier_clusters (c : CrierId) (f : Crier → Crier) : (d.modCrier c f).clusters = d.clusters := rfl
@[simp] theorem modCrier_shape (c : CrierId) (f : Crier → Crier) : (d.modCrier c f).shape = d.shape := rfl
@[simp] theorem modCrier_lease (c : CrierId) (f : Crier → Crier) : (d.modCrier c f).lease = d.lease := rfl
@[simp] theorem modCrier_fw (c : CrierId) (f : Crier → Crier) : (d.modCrier c f).fw = d.fw := rfl
@[simp] theorem modCrier_awning (c : CrierId) (f : Crier → Crier) : (d.modCrier c f).awning = d.awning := rfl
@[simp] theorem modCrier_ledger (c : CrierId) (f : Crier → Crier) : (d.modCrier c f).ledger = d.ledger := rfl
@[simp] theorem modCrier_pwr (c : CrierId) (f : Crier → Crier) : (d.modCrier c f).pwr = d.pwr := rfl
@[simp] theorem modCrier_sec (c : CrierId) (f : Crier → Crier) : (d.modCrier c f).sec = d.sec := rfl
@[simp] theorem modCrier_tills (c : CrierId) (f : Crier → Crier) : (d.modCrier c f).tills = d.tills := rfl
@[simp] theorem modCrier_host (c : CrierId) (f : Crier → Crier) : (d.modCrier c f).host = d.host := rfl
@[simp] theorem modCrier_seq (c : CrierId) (f : Crier → Crier) : (d.modCrier c f).seq = d.seq := rfl
@[simp] theorem modCrier_ctxs (c : CrierId) (f : Crier → Crier) : (d.modCrier c f).ctxs = d.ctxs := rfl
@[simp] theorem modCrier_cores (c : CrierId) (f : Crier → Crier) : (d.modCrier c f).cores = d.cores := rfl
@[simp] theorem modCrier_mem (c : CrierId) (f : Crier → Crier) : (d.modCrier c f).mem = d.mem := rfl
@[simp] theorem modCrier_badSram (c : CrierId) (f : Crier → Crier) : (d.modCrier c f).badSram = d.badSram := rfl
@[simp] theorem modCrier_veil (c : CrierId) (f : Crier → Crier) : (d.modCrier c f).veil = d.veil := rfl
@[simp] theorem modCrier_waiting (c : CrierId) (f : Crier → Crier) : (d.modCrier c f).waiting = d.waiting := rfl
@[simp] theorem modCrier_accHeld (c : CrierId) (f : Crier → Crier) : (d.modCrier c f).accHeld = d.accHeld := rfl
@[simp] theorem modCrier_loopFaults (c : CrierId) (f : Crier → Crier) : (d.modCrier c f).loopFaults = d.loopFaults := rfl
@[simp] theorem modCrier_stewardStep (c : CrierId) (f : Crier → Crier) : (d.modCrier c f).stewardStep = d.stewardStep := rfl
@[simp] theorem modCrier_stewardTask (c : CrierId) (f : Crier → Crier) : (d.modCrier c f).stewardTask = d.stewardTask := rfl
@[simp] theorem modCrier_handoff (c : CrierId) (f : Crier → Crier) : (d.modCrier c f).handoff = d.handoff := rfl
@[simp] theorem modCrier_frames (c : CrierId) (f : Crier → Crier) : (d.modCrier c f).frames = d.frames := rfl
@[simp] theorem modCrier_pools (c : CrierId) (f : Crier → Crier) : (d.modCrier c f).pools = d.pools := rfl
@[simp] theorem modCrier_ptOps (c : CrierId) (f : Crier → Crier) : (d.modCrier c f).ptOps = d.ptOps := rfl
@[simp] theorem modCrier_ptNext (c : CrierId) (f : Crier → Crier) : (d.modCrier c f).ptNext = d.ptNext := rfl
@[simp] theorem modCrier_ptHeld (c : CrierId) (f : Crier → Crier) : (d.modCrier c f).ptHeld = d.ptHeld := rfl
@[simp] theorem modCrier_drains (c : CrierId) (f : Crier → Crier) : (d.modCrier c f).drains = d.drains := rfl
@[simp] theorem modCrier_lastPorter (c : CrierId) (f : Crier → Crier) : (d.modCrier c f).lastPorter = d.lastPorter := rfl
@[simp] theorem modCrier_offSent (c : CrierId) (f : Crier → Crier) : (d.modCrier c f).offSent = d.offSent := rfl
@[simp] theorem modCrier_offFetched (c : CrierId) (f : Crier → Crier) : (d.modCrier c f).offFetched = d.offFetched := rfl
@[simp] theorem modCrier_homes (c : CrierId) (f : Crier → Crier) : (d.modCrier c f).homes = d.homes := rfl
@[simp] theorem modCrier_moves (c : CrierId) (f : Crier → Crier) : (d.modCrier c f).moves = d.moves := rfl
@[simp] theorem modCrier_stks (c : CrierId) (f : Crier → Crier) : (d.modCrier c f).stks = d.stks := rfl
@[simp] theorem modCrier_losses (c : CrierId) (f : Crier → Crier) : (d.modCrier c f).losses = d.losses := rfl
@[simp] theorem modCrier_badBlocks (c : CrierId) (f : Crier → Crier) : (d.modCrier c f).badBlocks = d.badBlocks := rfl
@[simp] theorem modCrier_reloc (c : CrierId) (f : Crier → Crier) : (d.modCrier c f).reloc = d.reloc := rfl
@[simp] theorem modCrier_intent (c : CrierId) (f : Crier → Crier) : (d.modCrier c f).intent = d.intent := rfl
@[simp] theorem modCrier_repair (c : CrierId) (f : Crier → Crier) : (d.modCrier c f).repair = d.repair := rfl
@[simp] theorem modCrier_ports (c : CrierId) (f : Crier → Crier) : (d.modCrier c f).ports = d.ports := rfl
@[simp] theorem modCrier_fabric (c : CrierId) (f : Crier → Crier) : (d.modCrier c f).fabric = d.fabric := rfl
@[simp] theorem modCrier_red (c : CrierId) (f : Crier → Crier) : (d.modCrier c f).red = d.red := rfl
@[simp] theorem modCrier_banks (c : CrierId) (f : Crier → Crier) : (d.modCrier c f).banks = d.banks := rfl
@[simp] theorem modCrier_redSubst (c : CrierId) (f : Crier → Crier) : (d.modCrier c f).redSubst = d.redSubst := rfl
@[simp] theorem modCrier_redMismatch (c : CrierId) (f : Crier → Crier) : (d.modCrier c f).redMismatch = d.redMismatch := rfl
@[simp] theorem modCrier_health (c : CrierId) (f : Crier → Crier) : (d.modCrier c f).health = d.health := rfl
@[simp] theorem modCrier_replayStat (c : CrierId) (f : Crier → Crier) : (d.modCrier c f).replayStat = d.replayStat := rfl
@[simp] theorem modCrier_codecs (c : CrierId) (f : Crier → Crier) : (d.modCrier c f).codecs = d.codecs := rfl
@[simp] theorem modRoute_grade (n : Nat) (f : EvtRoute → EvtRoute) : (d.modRoute n f).grade = d.grade := rfl
@[simp] theorem modRoute_wall (n : Nat) (f : EvtRoute → EvtRoute) : (d.modRoute n f).wall = d.wall := rfl
@[simp] theorem modRoute_freeIdx (n : Nat) (f : EvtRoute → EvtRoute) : (d.modRoute n f).freeIdx = d.freeIdx := rfl
@[simp] theorem modRoute_readData (n : Nat) (f : EvtRoute → EvtRoute) : (d.modRoute n f).readData = d.readData := rfl
@[simp] theorem modRoute_logged (n : Nat) (f : EvtRoute → EvtRoute) : (d.modRoute n f).logged = d.logged := rfl
@[simp] theorem modRoute_evt (n : Nat) (f : EvtRoute → EvtRoute) : (d.modRoute n f).evt = d.evt := rfl
@[simp] theorem modRoute_err (n : Nat) (f : EvtRoute → EvtRoute) : (d.modRoute n f).err = d.err := rfl
@[simp] theorem modRoute_clusters (n : Nat) (f : EvtRoute → EvtRoute) : (d.modRoute n f).clusters = d.clusters := rfl
@[simp] theorem modRoute_shape (n : Nat) (f : EvtRoute → EvtRoute) : (d.modRoute n f).shape = d.shape := rfl
@[simp] theorem modRoute_criers (n : Nat) (f : EvtRoute → EvtRoute) : (d.modRoute n f).criers = d.criers := rfl
@[simp] theorem modRoute_lease (n : Nat) (f : EvtRoute → EvtRoute) : (d.modRoute n f).lease = d.lease := rfl
@[simp] theorem modRoute_fw (n : Nat) (f : EvtRoute → EvtRoute) : (d.modRoute n f).fw = d.fw := rfl
@[simp] theorem modRoute_awning (n : Nat) (f : EvtRoute → EvtRoute) : (d.modRoute n f).awning = d.awning := rfl
@[simp] theorem modRoute_ledger (n : Nat) (f : EvtRoute → EvtRoute) : (d.modRoute n f).ledger = d.ledger := rfl
@[simp] theorem modRoute_pwr (n : Nat) (f : EvtRoute → EvtRoute) : (d.modRoute n f).pwr = d.pwr := rfl
@[simp] theorem modRoute_sec (n : Nat) (f : EvtRoute → EvtRoute) : (d.modRoute n f).sec = d.sec := rfl
@[simp] theorem modRoute_tills (n : Nat) (f : EvtRoute → EvtRoute) : (d.modRoute n f).tills = d.tills := rfl
@[simp] theorem modRoute_host (n : Nat) (f : EvtRoute → EvtRoute) : (d.modRoute n f).host = d.host := rfl
@[simp] theorem modRoute_seq (n : Nat) (f : EvtRoute → EvtRoute) : (d.modRoute n f).seq = d.seq := rfl
@[simp] theorem modRoute_ctxs (n : Nat) (f : EvtRoute → EvtRoute) : (d.modRoute n f).ctxs = d.ctxs := rfl
@[simp] theorem modRoute_cores (n : Nat) (f : EvtRoute → EvtRoute) : (d.modRoute n f).cores = d.cores := rfl
@[simp] theorem modRoute_mem (n : Nat) (f : EvtRoute → EvtRoute) : (d.modRoute n f).mem = d.mem := rfl
@[simp] theorem modRoute_badSram (n : Nat) (f : EvtRoute → EvtRoute) : (d.modRoute n f).badSram = d.badSram := rfl
@[simp] theorem modRoute_veil (n : Nat) (f : EvtRoute → EvtRoute) : (d.modRoute n f).veil = d.veil := rfl
@[simp] theorem modRoute_waiting (n : Nat) (f : EvtRoute → EvtRoute) : (d.modRoute n f).waiting = d.waiting := rfl
@[simp] theorem modRoute_accHeld (n : Nat) (f : EvtRoute → EvtRoute) : (d.modRoute n f).accHeld = d.accHeld := rfl
@[simp] theorem modRoute_loopFaults (n : Nat) (f : EvtRoute → EvtRoute) : (d.modRoute n f).loopFaults = d.loopFaults := rfl
@[simp] theorem modRoute_stewardStep (n : Nat) (f : EvtRoute → EvtRoute) : (d.modRoute n f).stewardStep = d.stewardStep := rfl
@[simp] theorem modRoute_stewardTask (n : Nat) (f : EvtRoute → EvtRoute) : (d.modRoute n f).stewardTask = d.stewardTask := rfl
@[simp] theorem modRoute_handoff (n : Nat) (f : EvtRoute → EvtRoute) : (d.modRoute n f).handoff = d.handoff := rfl
@[simp] theorem modRoute_frames (n : Nat) (f : EvtRoute → EvtRoute) : (d.modRoute n f).frames = d.frames := rfl
@[simp] theorem modRoute_pools (n : Nat) (f : EvtRoute → EvtRoute) : (d.modRoute n f).pools = d.pools := rfl
@[simp] theorem modRoute_ptOps (n : Nat) (f : EvtRoute → EvtRoute) : (d.modRoute n f).ptOps = d.ptOps := rfl
@[simp] theorem modRoute_ptNext (n : Nat) (f : EvtRoute → EvtRoute) : (d.modRoute n f).ptNext = d.ptNext := rfl
@[simp] theorem modRoute_ptHeld (n : Nat) (f : EvtRoute → EvtRoute) : (d.modRoute n f).ptHeld = d.ptHeld := rfl
@[simp] theorem modRoute_drains (n : Nat) (f : EvtRoute → EvtRoute) : (d.modRoute n f).drains = d.drains := rfl
@[simp] theorem modRoute_lastPorter (n : Nat) (f : EvtRoute → EvtRoute) : (d.modRoute n f).lastPorter = d.lastPorter := rfl
@[simp] theorem modRoute_offSent (n : Nat) (f : EvtRoute → EvtRoute) : (d.modRoute n f).offSent = d.offSent := rfl
@[simp] theorem modRoute_offFetched (n : Nat) (f : EvtRoute → EvtRoute) : (d.modRoute n f).offFetched = d.offFetched := rfl
@[simp] theorem modRoute_homes (n : Nat) (f : EvtRoute → EvtRoute) : (d.modRoute n f).homes = d.homes := rfl
@[simp] theorem modRoute_moves (n : Nat) (f : EvtRoute → EvtRoute) : (d.modRoute n f).moves = d.moves := rfl
@[simp] theorem modRoute_stks (n : Nat) (f : EvtRoute → EvtRoute) : (d.modRoute n f).stks = d.stks := rfl
@[simp] theorem modRoute_losses (n : Nat) (f : EvtRoute → EvtRoute) : (d.modRoute n f).losses = d.losses := rfl
@[simp] theorem modRoute_badBlocks (n : Nat) (f : EvtRoute → EvtRoute) : (d.modRoute n f).badBlocks = d.badBlocks := rfl
@[simp] theorem modRoute_reloc (n : Nat) (f : EvtRoute → EvtRoute) : (d.modRoute n f).reloc = d.reloc := rfl
@[simp] theorem modRoute_intent (n : Nat) (f : EvtRoute → EvtRoute) : (d.modRoute n f).intent = d.intent := rfl
@[simp] theorem modRoute_repair (n : Nat) (f : EvtRoute → EvtRoute) : (d.modRoute n f).repair = d.repair := rfl
@[simp] theorem modRoute_ports (n : Nat) (f : EvtRoute → EvtRoute) : (d.modRoute n f).ports = d.ports := rfl
@[simp] theorem modRoute_fabric (n : Nat) (f : EvtRoute → EvtRoute) : (d.modRoute n f).fabric = d.fabric := rfl
@[simp] theorem modRoute_red (n : Nat) (f : EvtRoute → EvtRoute) : (d.modRoute n f).red = d.red := rfl
@[simp] theorem modRoute_banks (n : Nat) (f : EvtRoute → EvtRoute) : (d.modRoute n f).banks = d.banks := rfl
@[simp] theorem modRoute_redSubst (n : Nat) (f : EvtRoute → EvtRoute) : (d.modRoute n f).redSubst = d.redSubst := rfl
@[simp] theorem modRoute_redMismatch (n : Nat) (f : EvtRoute → EvtRoute) : (d.modRoute n f).redMismatch = d.redMismatch := rfl
@[simp] theorem modRoute_health (n : Nat) (f : EvtRoute → EvtRoute) : (d.modRoute n f).health = d.health := rfl
@[simp] theorem modRoute_replayStat (n : Nat) (f : EvtRoute → EvtRoute) : (d.modRoute n f).replayStat = d.replayStat := rfl
@[simp] theorem modRoute_codecs (n : Nat) (f : EvtRoute → EvtRoute) : (d.modRoute n f).codecs = d.codecs := rfl
@[simp] theorem modSrc_grade (n : Nat) (f : EvtSrc → EvtSrc) : (d.modSrc n f).grade = d.grade := rfl
@[simp] theorem modSrc_wall (n : Nat) (f : EvtSrc → EvtSrc) : (d.modSrc n f).wall = d.wall := rfl
@[simp] theorem modSrc_freeIdx (n : Nat) (f : EvtSrc → EvtSrc) : (d.modSrc n f).freeIdx = d.freeIdx := rfl
@[simp] theorem modSrc_readData (n : Nat) (f : EvtSrc → EvtSrc) : (d.modSrc n f).readData = d.readData := rfl
@[simp] theorem modSrc_logged (n : Nat) (f : EvtSrc → EvtSrc) : (d.modSrc n f).logged = d.logged := rfl
@[simp] theorem modSrc_cfg (n : Nat) (f : EvtSrc → EvtSrc) : (d.modSrc n f).cfg = d.cfg := rfl
@[simp] theorem modSrc_err (n : Nat) (f : EvtSrc → EvtSrc) : (d.modSrc n f).err = d.err := rfl
@[simp] theorem modSrc_clusters (n : Nat) (f : EvtSrc → EvtSrc) : (d.modSrc n f).clusters = d.clusters := rfl
@[simp] theorem modSrc_shape (n : Nat) (f : EvtSrc → EvtSrc) : (d.modSrc n f).shape = d.shape := rfl
@[simp] theorem modSrc_criers (n : Nat) (f : EvtSrc → EvtSrc) : (d.modSrc n f).criers = d.criers := rfl
@[simp] theorem modSrc_lease (n : Nat) (f : EvtSrc → EvtSrc) : (d.modSrc n f).lease = d.lease := rfl
@[simp] theorem modSrc_fw (n : Nat) (f : EvtSrc → EvtSrc) : (d.modSrc n f).fw = d.fw := rfl
@[simp] theorem modSrc_awning (n : Nat) (f : EvtSrc → EvtSrc) : (d.modSrc n f).awning = d.awning := rfl
@[simp] theorem modSrc_ledger (n : Nat) (f : EvtSrc → EvtSrc) : (d.modSrc n f).ledger = d.ledger := rfl
@[simp] theorem modSrc_pwr (n : Nat) (f : EvtSrc → EvtSrc) : (d.modSrc n f).pwr = d.pwr := rfl
@[simp] theorem modSrc_sec (n : Nat) (f : EvtSrc → EvtSrc) : (d.modSrc n f).sec = d.sec := rfl
@[simp] theorem modSrc_tills (n : Nat) (f : EvtSrc → EvtSrc) : (d.modSrc n f).tills = d.tills := rfl
@[simp] theorem modSrc_host (n : Nat) (f : EvtSrc → EvtSrc) : (d.modSrc n f).host = d.host := rfl
@[simp] theorem modSrc_seq (n : Nat) (f : EvtSrc → EvtSrc) : (d.modSrc n f).seq = d.seq := rfl
@[simp] theorem modSrc_ctxs (n : Nat) (f : EvtSrc → EvtSrc) : (d.modSrc n f).ctxs = d.ctxs := rfl
@[simp] theorem modSrc_cores (n : Nat) (f : EvtSrc → EvtSrc) : (d.modSrc n f).cores = d.cores := rfl
@[simp] theorem modSrc_mem (n : Nat) (f : EvtSrc → EvtSrc) : (d.modSrc n f).mem = d.mem := rfl
@[simp] theorem modSrc_badSram (n : Nat) (f : EvtSrc → EvtSrc) : (d.modSrc n f).badSram = d.badSram := rfl
@[simp] theorem modSrc_veil (n : Nat) (f : EvtSrc → EvtSrc) : (d.modSrc n f).veil = d.veil := rfl
@[simp] theorem modSrc_waiting (n : Nat) (f : EvtSrc → EvtSrc) : (d.modSrc n f).waiting = d.waiting := rfl
@[simp] theorem modSrc_accHeld (n : Nat) (f : EvtSrc → EvtSrc) : (d.modSrc n f).accHeld = d.accHeld := rfl
@[simp] theorem modSrc_loopFaults (n : Nat) (f : EvtSrc → EvtSrc) : (d.modSrc n f).loopFaults = d.loopFaults := rfl
@[simp] theorem modSrc_stewardStep (n : Nat) (f : EvtSrc → EvtSrc) : (d.modSrc n f).stewardStep = d.stewardStep := rfl
@[simp] theorem modSrc_stewardTask (n : Nat) (f : EvtSrc → EvtSrc) : (d.modSrc n f).stewardTask = d.stewardTask := rfl
@[simp] theorem modSrc_handoff (n : Nat) (f : EvtSrc → EvtSrc) : (d.modSrc n f).handoff = d.handoff := rfl
@[simp] theorem modSrc_frames (n : Nat) (f : EvtSrc → EvtSrc) : (d.modSrc n f).frames = d.frames := rfl
@[simp] theorem modSrc_pools (n : Nat) (f : EvtSrc → EvtSrc) : (d.modSrc n f).pools = d.pools := rfl
@[simp] theorem modSrc_ptOps (n : Nat) (f : EvtSrc → EvtSrc) : (d.modSrc n f).ptOps = d.ptOps := rfl
@[simp] theorem modSrc_ptNext (n : Nat) (f : EvtSrc → EvtSrc) : (d.modSrc n f).ptNext = d.ptNext := rfl
@[simp] theorem modSrc_ptHeld (n : Nat) (f : EvtSrc → EvtSrc) : (d.modSrc n f).ptHeld = d.ptHeld := rfl
@[simp] theorem modSrc_drains (n : Nat) (f : EvtSrc → EvtSrc) : (d.modSrc n f).drains = d.drains := rfl
@[simp] theorem modSrc_lastPorter (n : Nat) (f : EvtSrc → EvtSrc) : (d.modSrc n f).lastPorter = d.lastPorter := rfl
@[simp] theorem modSrc_offSent (n : Nat) (f : EvtSrc → EvtSrc) : (d.modSrc n f).offSent = d.offSent := rfl
@[simp] theorem modSrc_offFetched (n : Nat) (f : EvtSrc → EvtSrc) : (d.modSrc n f).offFetched = d.offFetched := rfl
@[simp] theorem modSrc_homes (n : Nat) (f : EvtSrc → EvtSrc) : (d.modSrc n f).homes = d.homes := rfl
@[simp] theorem modSrc_moves (n : Nat) (f : EvtSrc → EvtSrc) : (d.modSrc n f).moves = d.moves := rfl
@[simp] theorem modSrc_stks (n : Nat) (f : EvtSrc → EvtSrc) : (d.modSrc n f).stks = d.stks := rfl
@[simp] theorem modSrc_losses (n : Nat) (f : EvtSrc → EvtSrc) : (d.modSrc n f).losses = d.losses := rfl
@[simp] theorem modSrc_badBlocks (n : Nat) (f : EvtSrc → EvtSrc) : (d.modSrc n f).badBlocks = d.badBlocks := rfl
@[simp] theorem modSrc_reloc (n : Nat) (f : EvtSrc → EvtSrc) : (d.modSrc n f).reloc = d.reloc := rfl
@[simp] theorem modSrc_intent (n : Nat) (f : EvtSrc → EvtSrc) : (d.modSrc n f).intent = d.intent := rfl
@[simp] theorem modSrc_repair (n : Nat) (f : EvtSrc → EvtSrc) : (d.modSrc n f).repair = d.repair := rfl
@[simp] theorem modSrc_ports (n : Nat) (f : EvtSrc → EvtSrc) : (d.modSrc n f).ports = d.ports := rfl
@[simp] theorem modSrc_fabric (n : Nat) (f : EvtSrc → EvtSrc) : (d.modSrc n f).fabric = d.fabric := rfl
@[simp] theorem modSrc_red (n : Nat) (f : EvtSrc → EvtSrc) : (d.modSrc n f).red = d.red := rfl
@[simp] theorem modSrc_banks (n : Nat) (f : EvtSrc → EvtSrc) : (d.modSrc n f).banks = d.banks := rfl
@[simp] theorem modSrc_redSubst (n : Nat) (f : EvtSrc → EvtSrc) : (d.modSrc n f).redSubst = d.redSubst := rfl
@[simp] theorem modSrc_redMismatch (n : Nat) (f : EvtSrc → EvtSrc) : (d.modSrc n f).redMismatch = d.redMismatch := rfl
@[simp] theorem modSrc_health (n : Nat) (f : EvtSrc → EvtSrc) : (d.modSrc n f).health = d.health := rfl
@[simp] theorem modSrc_replayStat (n : Nat) (f : EvtSrc → EvtSrc) : (d.modSrc n f).replayStat = d.replayStat := rfl
@[simp] theorem modSrc_codecs (n : Nat) (f : EvtSrc → EvtSrc) : (d.modSrc n f).codecs = d.codecs := rfl
@[simp] theorem modPool_grade (p : Nat) (f : Pool → Pool) : (d.modPool p f).grade = d.grade := rfl
@[simp] theorem modPool_wall (p : Nat) (f : Pool → Pool) : (d.modPool p f).wall = d.wall := rfl
@[simp] theorem modPool_freeIdx (p : Nat) (f : Pool → Pool) : (d.modPool p f).freeIdx = d.freeIdx := rfl
@[simp] theorem modPool_readData (p : Nat) (f : Pool → Pool) : (d.modPool p f).readData = d.readData := rfl
@[simp] theorem modPool_logged (p : Nat) (f : Pool → Pool) : (d.modPool p f).logged = d.logged := rfl
@[simp] theorem modPool_cfg (p : Nat) (f : Pool → Pool) : (d.modPool p f).cfg = d.cfg := rfl
@[simp] theorem modPool_evt (p : Nat) (f : Pool → Pool) : (d.modPool p f).evt = d.evt := rfl
@[simp] theorem modPool_err (p : Nat) (f : Pool → Pool) : (d.modPool p f).err = d.err := rfl
@[simp] theorem modPool_clusters (p : Nat) (f : Pool → Pool) : (d.modPool p f).clusters = d.clusters := rfl
@[simp] theorem modPool_shape (p : Nat) (f : Pool → Pool) : (d.modPool p f).shape = d.shape := rfl
@[simp] theorem modPool_criers (p : Nat) (f : Pool → Pool) : (d.modPool p f).criers = d.criers := rfl
@[simp] theorem modPool_lease (p : Nat) (f : Pool → Pool) : (d.modPool p f).lease = d.lease := rfl
@[simp] theorem modPool_fw (p : Nat) (f : Pool → Pool) : (d.modPool p f).fw = d.fw := rfl
@[simp] theorem modPool_awning (p : Nat) (f : Pool → Pool) : (d.modPool p f).awning = d.awning := rfl
@[simp] theorem modPool_ledger (p : Nat) (f : Pool → Pool) : (d.modPool p f).ledger = d.ledger := rfl
@[simp] theorem modPool_pwr (p : Nat) (f : Pool → Pool) : (d.modPool p f).pwr = d.pwr := rfl
@[simp] theorem modPool_sec (p : Nat) (f : Pool → Pool) : (d.modPool p f).sec = d.sec := rfl
@[simp] theorem modPool_tills (p : Nat) (f : Pool → Pool) : (d.modPool p f).tills = d.tills := rfl
@[simp] theorem modPool_host (p : Nat) (f : Pool → Pool) : (d.modPool p f).host = d.host := rfl
@[simp] theorem modPool_seq (p : Nat) (f : Pool → Pool) : (d.modPool p f).seq = d.seq := rfl
@[simp] theorem modPool_ctxs (p : Nat) (f : Pool → Pool) : (d.modPool p f).ctxs = d.ctxs := rfl
@[simp] theorem modPool_cores (p : Nat) (f : Pool → Pool) : (d.modPool p f).cores = d.cores := rfl
@[simp] theorem modPool_mem (p : Nat) (f : Pool → Pool) : (d.modPool p f).mem = d.mem := rfl
@[simp] theorem modPool_badSram (p : Nat) (f : Pool → Pool) : (d.modPool p f).badSram = d.badSram := rfl
@[simp] theorem modPool_veil (p : Nat) (f : Pool → Pool) : (d.modPool p f).veil = d.veil := rfl
@[simp] theorem modPool_waiting (p : Nat) (f : Pool → Pool) : (d.modPool p f).waiting = d.waiting := rfl
@[simp] theorem modPool_accHeld (p : Nat) (f : Pool → Pool) : (d.modPool p f).accHeld = d.accHeld := rfl
@[simp] theorem modPool_loopFaults (p : Nat) (f : Pool → Pool) : (d.modPool p f).loopFaults = d.loopFaults := rfl
@[simp] theorem modPool_stewardStep (p : Nat) (f : Pool → Pool) : (d.modPool p f).stewardStep = d.stewardStep := rfl
@[simp] theorem modPool_stewardTask (p : Nat) (f : Pool → Pool) : (d.modPool p f).stewardTask = d.stewardTask := rfl
@[simp] theorem modPool_handoff (p : Nat) (f : Pool → Pool) : (d.modPool p f).handoff = d.handoff := rfl
@[simp] theorem modPool_frames (p : Nat) (f : Pool → Pool) : (d.modPool p f).frames = d.frames := rfl
@[simp] theorem modPool_ptOps (p : Nat) (f : Pool → Pool) : (d.modPool p f).ptOps = d.ptOps := rfl
@[simp] theorem modPool_ptNext (p : Nat) (f : Pool → Pool) : (d.modPool p f).ptNext = d.ptNext := rfl
@[simp] theorem modPool_ptHeld (p : Nat) (f : Pool → Pool) : (d.modPool p f).ptHeld = d.ptHeld := rfl
@[simp] theorem modPool_drains (p : Nat) (f : Pool → Pool) : (d.modPool p f).drains = d.drains := rfl
@[simp] theorem modPool_lastPorter (p : Nat) (f : Pool → Pool) : (d.modPool p f).lastPorter = d.lastPorter := rfl
@[simp] theorem modPool_offSent (p : Nat) (f : Pool → Pool) : (d.modPool p f).offSent = d.offSent := rfl
@[simp] theorem modPool_offFetched (p : Nat) (f : Pool → Pool) : (d.modPool p f).offFetched = d.offFetched := rfl
@[simp] theorem modPool_homes (p : Nat) (f : Pool → Pool) : (d.modPool p f).homes = d.homes := rfl
@[simp] theorem modPool_moves (p : Nat) (f : Pool → Pool) : (d.modPool p f).moves = d.moves := rfl
@[simp] theorem modPool_stks (p : Nat) (f : Pool → Pool) : (d.modPool p f).stks = d.stks := rfl
@[simp] theorem modPool_losses (p : Nat) (f : Pool → Pool) : (d.modPool p f).losses = d.losses := rfl
@[simp] theorem modPool_badBlocks (p : Nat) (f : Pool → Pool) : (d.modPool p f).badBlocks = d.badBlocks := rfl
@[simp] theorem modPool_reloc (p : Nat) (f : Pool → Pool) : (d.modPool p f).reloc = d.reloc := rfl
@[simp] theorem modPool_intent (p : Nat) (f : Pool → Pool) : (d.modPool p f).intent = d.intent := rfl
@[simp] theorem modPool_repair (p : Nat) (f : Pool → Pool) : (d.modPool p f).repair = d.repair := rfl
@[simp] theorem modPool_ports (p : Nat) (f : Pool → Pool) : (d.modPool p f).ports = d.ports := rfl
@[simp] theorem modPool_fabric (p : Nat) (f : Pool → Pool) : (d.modPool p f).fabric = d.fabric := rfl
@[simp] theorem modPool_red (p : Nat) (f : Pool → Pool) : (d.modPool p f).red = d.red := rfl
@[simp] theorem modPool_banks (p : Nat) (f : Pool → Pool) : (d.modPool p f).banks = d.banks := rfl
@[simp] theorem modPool_redSubst (p : Nat) (f : Pool → Pool) : (d.modPool p f).redSubst = d.redSubst := rfl
@[simp] theorem modPool_redMismatch (p : Nat) (f : Pool → Pool) : (d.modPool p f).redMismatch = d.redMismatch := rfl
@[simp] theorem modPool_health (p : Nat) (f : Pool → Pool) : (d.modPool p f).health = d.health := rfl
@[simp] theorem modPool_replayStat (p : Nat) (f : Pool → Pool) : (d.modPool p f).replayStat = d.replayStat := rfl
@[simp] theorem modPool_codecs (p : Nat) (f : Pool → Pool) : (d.modPool p f).codecs = d.codecs := rfl
@[simp] theorem modAwning_grade (f : Awning → Awning) : (d.modAwning f).grade = d.grade := rfl
@[simp] theorem modAwning_wall (f : Awning → Awning) : (d.modAwning f).wall = d.wall := rfl
@[simp] theorem modAwning_freeIdx (f : Awning → Awning) : (d.modAwning f).freeIdx = d.freeIdx := rfl
@[simp] theorem modAwning_readData (f : Awning → Awning) : (d.modAwning f).readData = d.readData := rfl
@[simp] theorem modAwning_logged (f : Awning → Awning) : (d.modAwning f).logged = d.logged := rfl
@[simp] theorem modAwning_cfg (f : Awning → Awning) : (d.modAwning f).cfg = d.cfg := rfl
@[simp] theorem modAwning_evt (f : Awning → Awning) : (d.modAwning f).evt = d.evt := rfl
@[simp] theorem modAwning_err (f : Awning → Awning) : (d.modAwning f).err = d.err := rfl
@[simp] theorem modAwning_clusters (f : Awning → Awning) : (d.modAwning f).clusters = d.clusters := rfl
@[simp] theorem modAwning_shape (f : Awning → Awning) : (d.modAwning f).shape = d.shape := rfl
@[simp] theorem modAwning_criers (f : Awning → Awning) : (d.modAwning f).criers = d.criers := rfl
@[simp] theorem modAwning_lease (f : Awning → Awning) : (d.modAwning f).lease = d.lease := rfl
@[simp] theorem modAwning_fw (f : Awning → Awning) : (d.modAwning f).fw = d.fw := rfl
@[simp] theorem modAwning_ledger (f : Awning → Awning) : (d.modAwning f).ledger = d.ledger := rfl
@[simp] theorem modAwning_pwr (f : Awning → Awning) : (d.modAwning f).pwr = d.pwr := rfl
@[simp] theorem modAwning_sec (f : Awning → Awning) : (d.modAwning f).sec = d.sec := rfl
@[simp] theorem modAwning_tills (f : Awning → Awning) : (d.modAwning f).tills = d.tills := rfl
@[simp] theorem modAwning_host (f : Awning → Awning) : (d.modAwning f).host = d.host := rfl
@[simp] theorem modAwning_seq (f : Awning → Awning) : (d.modAwning f).seq = d.seq := rfl
@[simp] theorem modAwning_ctxs (f : Awning → Awning) : (d.modAwning f).ctxs = d.ctxs := rfl
@[simp] theorem modAwning_cores (f : Awning → Awning) : (d.modAwning f).cores = d.cores := rfl
@[simp] theorem modAwning_mem (f : Awning → Awning) : (d.modAwning f).mem = d.mem := rfl
@[simp] theorem modAwning_badSram (f : Awning → Awning) : (d.modAwning f).badSram = d.badSram := rfl
@[simp] theorem modAwning_veil (f : Awning → Awning) : (d.modAwning f).veil = d.veil := rfl
@[simp] theorem modAwning_waiting (f : Awning → Awning) : (d.modAwning f).waiting = d.waiting := rfl
@[simp] theorem modAwning_accHeld (f : Awning → Awning) : (d.modAwning f).accHeld = d.accHeld := rfl
@[simp] theorem modAwning_loopFaults (f : Awning → Awning) : (d.modAwning f).loopFaults = d.loopFaults := rfl
@[simp] theorem modAwning_stewardStep (f : Awning → Awning) : (d.modAwning f).stewardStep = d.stewardStep := rfl
@[simp] theorem modAwning_stewardTask (f : Awning → Awning) : (d.modAwning f).stewardTask = d.stewardTask := rfl
@[simp] theorem modAwning_handoff (f : Awning → Awning) : (d.modAwning f).handoff = d.handoff := rfl
@[simp] theorem modAwning_frames (f : Awning → Awning) : (d.modAwning f).frames = d.frames := rfl
@[simp] theorem modAwning_pools (f : Awning → Awning) : (d.modAwning f).pools = d.pools := rfl
@[simp] theorem modAwning_ptOps (f : Awning → Awning) : (d.modAwning f).ptOps = d.ptOps := rfl
@[simp] theorem modAwning_ptNext (f : Awning → Awning) : (d.modAwning f).ptNext = d.ptNext := rfl
@[simp] theorem modAwning_ptHeld (f : Awning → Awning) : (d.modAwning f).ptHeld = d.ptHeld := rfl
@[simp] theorem modAwning_drains (f : Awning → Awning) : (d.modAwning f).drains = d.drains := rfl
@[simp] theorem modAwning_lastPorter (f : Awning → Awning) : (d.modAwning f).lastPorter = d.lastPorter := rfl
@[simp] theorem modAwning_offSent (f : Awning → Awning) : (d.modAwning f).offSent = d.offSent := rfl
@[simp] theorem modAwning_offFetched (f : Awning → Awning) : (d.modAwning f).offFetched = d.offFetched := rfl
@[simp] theorem modAwning_homes (f : Awning → Awning) : (d.modAwning f).homes = d.homes := rfl
@[simp] theorem modAwning_moves (f : Awning → Awning) : (d.modAwning f).moves = d.moves := rfl
@[simp] theorem modAwning_stks (f : Awning → Awning) : (d.modAwning f).stks = d.stks := rfl
@[simp] theorem modAwning_losses (f : Awning → Awning) : (d.modAwning f).losses = d.losses := rfl
@[simp] theorem modAwning_badBlocks (f : Awning → Awning) : (d.modAwning f).badBlocks = d.badBlocks := rfl
@[simp] theorem modAwning_reloc (f : Awning → Awning) : (d.modAwning f).reloc = d.reloc := rfl
@[simp] theorem modAwning_intent (f : Awning → Awning) : (d.modAwning f).intent = d.intent := rfl
@[simp] theorem modAwning_repair (f : Awning → Awning) : (d.modAwning f).repair = d.repair := rfl
@[simp] theorem modAwning_ports (f : Awning → Awning) : (d.modAwning f).ports = d.ports := rfl
@[simp] theorem modAwning_fabric (f : Awning → Awning) : (d.modAwning f).fabric = d.fabric := rfl
@[simp] theorem modAwning_red (f : Awning → Awning) : (d.modAwning f).red = d.red := rfl
@[simp] theorem modAwning_banks (f : Awning → Awning) : (d.modAwning f).banks = d.banks := rfl
@[simp] theorem modAwning_redSubst (f : Awning → Awning) : (d.modAwning f).redSubst = d.redSubst := rfl
@[simp] theorem modAwning_redMismatch (f : Awning → Awning) : (d.modAwning f).redMismatch = d.redMismatch := rfl
@[simp] theorem modAwning_health (f : Awning → Awning) : (d.modAwning f).health = d.health := rfl
@[simp] theorem modAwning_replayStat (f : Awning → Awning) : (d.modAwning f).replayStat = d.replayStat := rfl
@[simp] theorem modAwning_codecs (f : Awning → Awning) : (d.modAwning f).codecs = d.codecs := rfl
@[simp] theorem modBar_grade (t : CtxId) (k : Nat) (f : Barrow → Barrow) : (d.modBar t k f).grade = d.grade := rfl
@[simp] theorem modBar_wall (t : CtxId) (k : Nat) (f : Barrow → Barrow) : (d.modBar t k f).wall = d.wall := rfl
@[simp] theorem modBar_freeIdx (t : CtxId) (k : Nat) (f : Barrow → Barrow) : (d.modBar t k f).freeIdx = d.freeIdx := rfl
@[simp] theorem modBar_readData (t : CtxId) (k : Nat) (f : Barrow → Barrow) : (d.modBar t k f).readData = d.readData := rfl
@[simp] theorem modBar_logged (t : CtxId) (k : Nat) (f : Barrow → Barrow) : (d.modBar t k f).logged = d.logged := rfl
@[simp] theorem modBar_cfg (t : CtxId) (k : Nat) (f : Barrow → Barrow) : (d.modBar t k f).cfg = d.cfg := rfl
@[simp] theorem modBar_evt (t : CtxId) (k : Nat) (f : Barrow → Barrow) : (d.modBar t k f).evt = d.evt := rfl
@[simp] theorem modBar_err (t : CtxId) (k : Nat) (f : Barrow → Barrow) : (d.modBar t k f).err = d.err := rfl
@[simp] theorem modBar_clusters (t : CtxId) (k : Nat) (f : Barrow → Barrow) : (d.modBar t k f).clusters = d.clusters := rfl
@[simp] theorem modBar_shape (t : CtxId) (k : Nat) (f : Barrow → Barrow) : (d.modBar t k f).shape = d.shape := rfl
@[simp] theorem modBar_criers (t : CtxId) (k : Nat) (f : Barrow → Barrow) : (d.modBar t k f).criers = d.criers := rfl
@[simp] theorem modBar_lease (t : CtxId) (k : Nat) (f : Barrow → Barrow) : (d.modBar t k f).lease = d.lease := rfl
@[simp] theorem modBar_fw (t : CtxId) (k : Nat) (f : Barrow → Barrow) : (d.modBar t k f).fw = d.fw := rfl
@[simp] theorem modBar_awning (t : CtxId) (k : Nat) (f : Barrow → Barrow) : (d.modBar t k f).awning = d.awning := rfl
@[simp] theorem modBar_ledger (t : CtxId) (k : Nat) (f : Barrow → Barrow) : (d.modBar t k f).ledger = d.ledger := rfl
@[simp] theorem modBar_pwr (t : CtxId) (k : Nat) (f : Barrow → Barrow) : (d.modBar t k f).pwr = d.pwr := rfl
@[simp] theorem modBar_sec (t : CtxId) (k : Nat) (f : Barrow → Barrow) : (d.modBar t k f).sec = d.sec := rfl
@[simp] theorem modBar_tills (t : CtxId) (k : Nat) (f : Barrow → Barrow) : (d.modBar t k f).tills = d.tills := rfl
@[simp] theorem modBar_host (t : CtxId) (k : Nat) (f : Barrow → Barrow) : (d.modBar t k f).host = d.host := rfl
@[simp] theorem modBar_seq (t : CtxId) (k : Nat) (f : Barrow → Barrow) : (d.modBar t k f).seq = d.seq := rfl
@[simp] theorem modBar_cores (t : CtxId) (k : Nat) (f : Barrow → Barrow) : (d.modBar t k f).cores = d.cores := rfl
@[simp] theorem modBar_mem (t : CtxId) (k : Nat) (f : Barrow → Barrow) : (d.modBar t k f).mem = d.mem := rfl
@[simp] theorem modBar_badSram (t : CtxId) (k : Nat) (f : Barrow → Barrow) : (d.modBar t k f).badSram = d.badSram := rfl
@[simp] theorem modBar_veil (t : CtxId) (k : Nat) (f : Barrow → Barrow) : (d.modBar t k f).veil = d.veil := rfl
@[simp] theorem modBar_waiting (t : CtxId) (k : Nat) (f : Barrow → Barrow) : (d.modBar t k f).waiting = d.waiting := rfl
@[simp] theorem modBar_accHeld (t : CtxId) (k : Nat) (f : Barrow → Barrow) : (d.modBar t k f).accHeld = d.accHeld := rfl
@[simp] theorem modBar_loopFaults (t : CtxId) (k : Nat) (f : Barrow → Barrow) : (d.modBar t k f).loopFaults = d.loopFaults := rfl
@[simp] theorem modBar_stewardStep (t : CtxId) (k : Nat) (f : Barrow → Barrow) : (d.modBar t k f).stewardStep = d.stewardStep := rfl
@[simp] theorem modBar_stewardTask (t : CtxId) (k : Nat) (f : Barrow → Barrow) : (d.modBar t k f).stewardTask = d.stewardTask := rfl
@[simp] theorem modBar_handoff (t : CtxId) (k : Nat) (f : Barrow → Barrow) : (d.modBar t k f).handoff = d.handoff := rfl
@[simp] theorem modBar_frames (t : CtxId) (k : Nat) (f : Barrow → Barrow) : (d.modBar t k f).frames = d.frames := rfl
@[simp] theorem modBar_pools (t : CtxId) (k : Nat) (f : Barrow → Barrow) : (d.modBar t k f).pools = d.pools := rfl
@[simp] theorem modBar_ptOps (t : CtxId) (k : Nat) (f : Barrow → Barrow) : (d.modBar t k f).ptOps = d.ptOps := rfl
@[simp] theorem modBar_ptNext (t : CtxId) (k : Nat) (f : Barrow → Barrow) : (d.modBar t k f).ptNext = d.ptNext := rfl
@[simp] theorem modBar_ptHeld (t : CtxId) (k : Nat) (f : Barrow → Barrow) : (d.modBar t k f).ptHeld = d.ptHeld := rfl
@[simp] theorem modBar_drains (t : CtxId) (k : Nat) (f : Barrow → Barrow) : (d.modBar t k f).drains = d.drains := rfl
@[simp] theorem modBar_lastPorter (t : CtxId) (k : Nat) (f : Barrow → Barrow) : (d.modBar t k f).lastPorter = d.lastPorter := rfl
@[simp] theorem modBar_offSent (t : CtxId) (k : Nat) (f : Barrow → Barrow) : (d.modBar t k f).offSent = d.offSent := rfl
@[simp] theorem modBar_offFetched (t : CtxId) (k : Nat) (f : Barrow → Barrow) : (d.modBar t k f).offFetched = d.offFetched := rfl
@[simp] theorem modBar_homes (t : CtxId) (k : Nat) (f : Barrow → Barrow) : (d.modBar t k f).homes = d.homes := rfl
@[simp] theorem modBar_moves (t : CtxId) (k : Nat) (f : Barrow → Barrow) : (d.modBar t k f).moves = d.moves := rfl
@[simp] theorem modBar_stks (t : CtxId) (k : Nat) (f : Barrow → Barrow) : (d.modBar t k f).stks = d.stks := rfl
@[simp] theorem modBar_losses (t : CtxId) (k : Nat) (f : Barrow → Barrow) : (d.modBar t k f).losses = d.losses := rfl
@[simp] theorem modBar_badBlocks (t : CtxId) (k : Nat) (f : Barrow → Barrow) : (d.modBar t k f).badBlocks = d.badBlocks := rfl
@[simp] theorem modBar_reloc (t : CtxId) (k : Nat) (f : Barrow → Barrow) : (d.modBar t k f).reloc = d.reloc := rfl
@[simp] theorem modBar_intent (t : CtxId) (k : Nat) (f : Barrow → Barrow) : (d.modBar t k f).intent = d.intent := rfl
@[simp] theorem modBar_repair (t : CtxId) (k : Nat) (f : Barrow → Barrow) : (d.modBar t k f).repair = d.repair := rfl
@[simp] theorem modBar_ports (t : CtxId) (k : Nat) (f : Barrow → Barrow) : (d.modBar t k f).ports = d.ports := rfl
@[simp] theorem modBar_fabric (t : CtxId) (k : Nat) (f : Barrow → Barrow) : (d.modBar t k f).fabric = d.fabric := rfl
@[simp] theorem modBar_red (t : CtxId) (k : Nat) (f : Barrow → Barrow) : (d.modBar t k f).red = d.red := rfl
@[simp] theorem modBar_banks (t : CtxId) (k : Nat) (f : Barrow → Barrow) : (d.modBar t k f).banks = d.banks := rfl
@[simp] theorem modBar_redSubst (t : CtxId) (k : Nat) (f : Barrow → Barrow) : (d.modBar t k f).redSubst = d.redSubst := rfl
@[simp] theorem modBar_redMismatch (t : CtxId) (k : Nat) (f : Barrow → Barrow) : (d.modBar t k f).redMismatch = d.redMismatch := rfl
@[simp] theorem modBar_health (t : CtxId) (k : Nat) (f : Barrow → Barrow) : (d.modBar t k f).health = d.health := rfl
@[simp] theorem modBar_replayStat (t : CtxId) (k : Nat) (f : Barrow → Barrow) : (d.modBar t k f).replayStat = d.replayStat := rfl
@[simp] theorem modBar_codecs (t : CtxId) (k : Nat) (f : Barrow → Barrow) : (d.modBar t k f).codecs = d.codecs := rfl
@[simp] theorem modCodec_grade (u : Nat) (f : Codec → Codec) : (d.modCodec u f).grade = d.grade := rfl
@[simp] theorem modCodec_wall (u : Nat) (f : Codec → Codec) : (d.modCodec u f).wall = d.wall := rfl
@[simp] theorem modCodec_freeIdx (u : Nat) (f : Codec → Codec) : (d.modCodec u f).freeIdx = d.freeIdx := rfl
@[simp] theorem modCodec_readData (u : Nat) (f : Codec → Codec) : (d.modCodec u f).readData = d.readData := rfl
@[simp] theorem modCodec_logged (u : Nat) (f : Codec → Codec) : (d.modCodec u f).logged = d.logged := rfl
@[simp] theorem modCodec_cfg (u : Nat) (f : Codec → Codec) : (d.modCodec u f).cfg = d.cfg := rfl
@[simp] theorem modCodec_evt (u : Nat) (f : Codec → Codec) : (d.modCodec u f).evt = d.evt := rfl
@[simp] theorem modCodec_err (u : Nat) (f : Codec → Codec) : (d.modCodec u f).err = d.err := rfl
@[simp] theorem modCodec_clusters (u : Nat) (f : Codec → Codec) : (d.modCodec u f).clusters = d.clusters := rfl
@[simp] theorem modCodec_shape (u : Nat) (f : Codec → Codec) : (d.modCodec u f).shape = d.shape := rfl
@[simp] theorem modCodec_criers (u : Nat) (f : Codec → Codec) : (d.modCodec u f).criers = d.criers := rfl
@[simp] theorem modCodec_lease (u : Nat) (f : Codec → Codec) : (d.modCodec u f).lease = d.lease := rfl
@[simp] theorem modCodec_fw (u : Nat) (f : Codec → Codec) : (d.modCodec u f).fw = d.fw := rfl
@[simp] theorem modCodec_awning (u : Nat) (f : Codec → Codec) : (d.modCodec u f).awning = d.awning := rfl
@[simp] theorem modCodec_ledger (u : Nat) (f : Codec → Codec) : (d.modCodec u f).ledger = d.ledger := rfl
@[simp] theorem modCodec_pwr (u : Nat) (f : Codec → Codec) : (d.modCodec u f).pwr = d.pwr := rfl
@[simp] theorem modCodec_sec (u : Nat) (f : Codec → Codec) : (d.modCodec u f).sec = d.sec := rfl
@[simp] theorem modCodec_tills (u : Nat) (f : Codec → Codec) : (d.modCodec u f).tills = d.tills := rfl
@[simp] theorem modCodec_host (u : Nat) (f : Codec → Codec) : (d.modCodec u f).host = d.host := rfl
@[simp] theorem modCodec_seq (u : Nat) (f : Codec → Codec) : (d.modCodec u f).seq = d.seq := rfl
@[simp] theorem modCodec_ctxs (u : Nat) (f : Codec → Codec) : (d.modCodec u f).ctxs = d.ctxs := rfl
@[simp] theorem modCodec_cores (u : Nat) (f : Codec → Codec) : (d.modCodec u f).cores = d.cores := rfl
@[simp] theorem modCodec_mem (u : Nat) (f : Codec → Codec) : (d.modCodec u f).mem = d.mem := rfl
@[simp] theorem modCodec_badSram (u : Nat) (f : Codec → Codec) : (d.modCodec u f).badSram = d.badSram := rfl
@[simp] theorem modCodec_veil (u : Nat) (f : Codec → Codec) : (d.modCodec u f).veil = d.veil := rfl
@[simp] theorem modCodec_waiting (u : Nat) (f : Codec → Codec) : (d.modCodec u f).waiting = d.waiting := rfl
@[simp] theorem modCodec_accHeld (u : Nat) (f : Codec → Codec) : (d.modCodec u f).accHeld = d.accHeld := rfl
@[simp] theorem modCodec_loopFaults (u : Nat) (f : Codec → Codec) : (d.modCodec u f).loopFaults = d.loopFaults := rfl
@[simp] theorem modCodec_stewardStep (u : Nat) (f : Codec → Codec) : (d.modCodec u f).stewardStep = d.stewardStep := rfl
@[simp] theorem modCodec_stewardTask (u : Nat) (f : Codec → Codec) : (d.modCodec u f).stewardTask = d.stewardTask := rfl
@[simp] theorem modCodec_handoff (u : Nat) (f : Codec → Codec) : (d.modCodec u f).handoff = d.handoff := rfl
@[simp] theorem modCodec_frames (u : Nat) (f : Codec → Codec) : (d.modCodec u f).frames = d.frames := rfl
@[simp] theorem modCodec_pools (u : Nat) (f : Codec → Codec) : (d.modCodec u f).pools = d.pools := rfl
@[simp] theorem modCodec_ptOps (u : Nat) (f : Codec → Codec) : (d.modCodec u f).ptOps = d.ptOps := rfl
@[simp] theorem modCodec_ptNext (u : Nat) (f : Codec → Codec) : (d.modCodec u f).ptNext = d.ptNext := rfl
@[simp] theorem modCodec_ptHeld (u : Nat) (f : Codec → Codec) : (d.modCodec u f).ptHeld = d.ptHeld := rfl
@[simp] theorem modCodec_drains (u : Nat) (f : Codec → Codec) : (d.modCodec u f).drains = d.drains := rfl
@[simp] theorem modCodec_lastPorter (u : Nat) (f : Codec → Codec) : (d.modCodec u f).lastPorter = d.lastPorter := rfl
@[simp] theorem modCodec_offSent (u : Nat) (f : Codec → Codec) : (d.modCodec u f).offSent = d.offSent := rfl
@[simp] theorem modCodec_offFetched (u : Nat) (f : Codec → Codec) : (d.modCodec u f).offFetched = d.offFetched := rfl
@[simp] theorem modCodec_homes (u : Nat) (f : Codec → Codec) : (d.modCodec u f).homes = d.homes := rfl
@[simp] theorem modCodec_moves (u : Nat) (f : Codec → Codec) : (d.modCodec u f).moves = d.moves := rfl
@[simp] theorem modCodec_stks (u : Nat) (f : Codec → Codec) : (d.modCodec u f).stks = d.stks := rfl
@[simp] theorem modCodec_losses (u : Nat) (f : Codec → Codec) : (d.modCodec u f).losses = d.losses := rfl
@[simp] theorem modCodec_badBlocks (u : Nat) (f : Codec → Codec) : (d.modCodec u f).badBlocks = d.badBlocks := rfl
@[simp] theorem modCodec_reloc (u : Nat) (f : Codec → Codec) : (d.modCodec u f).reloc = d.reloc := rfl
@[simp] theorem modCodec_intent (u : Nat) (f : Codec → Codec) : (d.modCodec u f).intent = d.intent := rfl
@[simp] theorem modCodec_repair (u : Nat) (f : Codec → Codec) : (d.modCodec u f).repair = d.repair := rfl
@[simp] theorem modCodec_ports (u : Nat) (f : Codec → Codec) : (d.modCodec u f).ports = d.ports := rfl
@[simp] theorem modCodec_fabric (u : Nat) (f : Codec → Codec) : (d.modCodec u f).fabric = d.fabric := rfl
@[simp] theorem modCodec_red (u : Nat) (f : Codec → Codec) : (d.modCodec u f).red = d.red := rfl
@[simp] theorem modCodec_banks (u : Nat) (f : Codec → Codec) : (d.modCodec u f).banks = d.banks := rfl
@[simp] theorem modCodec_redSubst (u : Nat) (f : Codec → Codec) : (d.modCodec u f).redSubst = d.redSubst := rfl
@[simp] theorem modCodec_redMismatch (u : Nat) (f : Codec → Codec) : (d.modCodec u f).redMismatch = d.redMismatch := rfl
@[simp] theorem modCodec_health (u : Nat) (f : Codec → Codec) : (d.modCodec u f).health = d.health := rfl
@[simp] theorem modCodec_replayStat (u : Nat) (f : Codec → Codec) : (d.modCodec u f).replayStat = d.replayStat := rfl
@[simp] theorem modStream_grade (u s : Nat) (f : CodecStream → CodecStream) : (d.modStream u s f).grade = d.grade := rfl
@[simp] theorem modStream_wall (u s : Nat) (f : CodecStream → CodecStream) : (d.modStream u s f).wall = d.wall := rfl
@[simp] theorem modStream_freeIdx (u s : Nat) (f : CodecStream → CodecStream) : (d.modStream u s f).freeIdx = d.freeIdx := rfl
@[simp] theorem modStream_readData (u s : Nat) (f : CodecStream → CodecStream) : (d.modStream u s f).readData = d.readData := rfl
@[simp] theorem modStream_logged (u s : Nat) (f : CodecStream → CodecStream) : (d.modStream u s f).logged = d.logged := rfl
@[simp] theorem modStream_cfg (u s : Nat) (f : CodecStream → CodecStream) : (d.modStream u s f).cfg = d.cfg := rfl
@[simp] theorem modStream_evt (u s : Nat) (f : CodecStream → CodecStream) : (d.modStream u s f).evt = d.evt := rfl
@[simp] theorem modStream_err (u s : Nat) (f : CodecStream → CodecStream) : (d.modStream u s f).err = d.err := rfl
@[simp] theorem modStream_clusters (u s : Nat) (f : CodecStream → CodecStream) : (d.modStream u s f).clusters = d.clusters := rfl
@[simp] theorem modStream_shape (u s : Nat) (f : CodecStream → CodecStream) : (d.modStream u s f).shape = d.shape := rfl
@[simp] theorem modStream_criers (u s : Nat) (f : CodecStream → CodecStream) : (d.modStream u s f).criers = d.criers := rfl
@[simp] theorem modStream_lease (u s : Nat) (f : CodecStream → CodecStream) : (d.modStream u s f).lease = d.lease := rfl
@[simp] theorem modStream_fw (u s : Nat) (f : CodecStream → CodecStream) : (d.modStream u s f).fw = d.fw := rfl
@[simp] theorem modStream_awning (u s : Nat) (f : CodecStream → CodecStream) : (d.modStream u s f).awning = d.awning := rfl
@[simp] theorem modStream_ledger (u s : Nat) (f : CodecStream → CodecStream) : (d.modStream u s f).ledger = d.ledger := rfl
@[simp] theorem modStream_pwr (u s : Nat) (f : CodecStream → CodecStream) : (d.modStream u s f).pwr = d.pwr := rfl
@[simp] theorem modStream_sec (u s : Nat) (f : CodecStream → CodecStream) : (d.modStream u s f).sec = d.sec := rfl
@[simp] theorem modStream_tills (u s : Nat) (f : CodecStream → CodecStream) : (d.modStream u s f).tills = d.tills := rfl
@[simp] theorem modStream_host (u s : Nat) (f : CodecStream → CodecStream) : (d.modStream u s f).host = d.host := rfl
@[simp] theorem modStream_seq (u s : Nat) (f : CodecStream → CodecStream) : (d.modStream u s f).seq = d.seq := rfl
@[simp] theorem modStream_ctxs (u s : Nat) (f : CodecStream → CodecStream) : (d.modStream u s f).ctxs = d.ctxs := rfl
@[simp] theorem modStream_cores (u s : Nat) (f : CodecStream → CodecStream) : (d.modStream u s f).cores = d.cores := rfl
@[simp] theorem modStream_mem (u s : Nat) (f : CodecStream → CodecStream) : (d.modStream u s f).mem = d.mem := rfl
@[simp] theorem modStream_badSram (u s : Nat) (f : CodecStream → CodecStream) : (d.modStream u s f).badSram = d.badSram := rfl
@[simp] theorem modStream_veil (u s : Nat) (f : CodecStream → CodecStream) : (d.modStream u s f).veil = d.veil := rfl
@[simp] theorem modStream_waiting (u s : Nat) (f : CodecStream → CodecStream) : (d.modStream u s f).waiting = d.waiting := rfl
@[simp] theorem modStream_accHeld (u s : Nat) (f : CodecStream → CodecStream) : (d.modStream u s f).accHeld = d.accHeld := rfl
@[simp] theorem modStream_loopFaults (u s : Nat) (f : CodecStream → CodecStream) : (d.modStream u s f).loopFaults = d.loopFaults := rfl
@[simp] theorem modStream_stewardStep (u s : Nat) (f : CodecStream → CodecStream) : (d.modStream u s f).stewardStep = d.stewardStep := rfl
@[simp] theorem modStream_stewardTask (u s : Nat) (f : CodecStream → CodecStream) : (d.modStream u s f).stewardTask = d.stewardTask := rfl
@[simp] theorem modStream_handoff (u s : Nat) (f : CodecStream → CodecStream) : (d.modStream u s f).handoff = d.handoff := rfl
@[simp] theorem modStream_frames (u s : Nat) (f : CodecStream → CodecStream) : (d.modStream u s f).frames = d.frames := rfl
@[simp] theorem modStream_pools (u s : Nat) (f : CodecStream → CodecStream) : (d.modStream u s f).pools = d.pools := rfl
@[simp] theorem modStream_ptOps (u s : Nat) (f : CodecStream → CodecStream) : (d.modStream u s f).ptOps = d.ptOps := rfl
@[simp] theorem modStream_ptNext (u s : Nat) (f : CodecStream → CodecStream) : (d.modStream u s f).ptNext = d.ptNext := rfl
@[simp] theorem modStream_ptHeld (u s : Nat) (f : CodecStream → CodecStream) : (d.modStream u s f).ptHeld = d.ptHeld := rfl
@[simp] theorem modStream_drains (u s : Nat) (f : CodecStream → CodecStream) : (d.modStream u s f).drains = d.drains := rfl
@[simp] theorem modStream_lastPorter (u s : Nat) (f : CodecStream → CodecStream) : (d.modStream u s f).lastPorter = d.lastPorter := rfl
@[simp] theorem modStream_offSent (u s : Nat) (f : CodecStream → CodecStream) : (d.modStream u s f).offSent = d.offSent := rfl
@[simp] theorem modStream_offFetched (u s : Nat) (f : CodecStream → CodecStream) : (d.modStream u s f).offFetched = d.offFetched := rfl
@[simp] theorem modStream_homes (u s : Nat) (f : CodecStream → CodecStream) : (d.modStream u s f).homes = d.homes := rfl
@[simp] theorem modStream_moves (u s : Nat) (f : CodecStream → CodecStream) : (d.modStream u s f).moves = d.moves := rfl
@[simp] theorem modStream_stks (u s : Nat) (f : CodecStream → CodecStream) : (d.modStream u s f).stks = d.stks := rfl
@[simp] theorem modStream_losses (u s : Nat) (f : CodecStream → CodecStream) : (d.modStream u s f).losses = d.losses := rfl
@[simp] theorem modStream_badBlocks (u s : Nat) (f : CodecStream → CodecStream) : (d.modStream u s f).badBlocks = d.badBlocks := rfl
@[simp] theorem modStream_reloc (u s : Nat) (f : CodecStream → CodecStream) : (d.modStream u s f).reloc = d.reloc := rfl
@[simp] theorem modStream_intent (u s : Nat) (f : CodecStream → CodecStream) : (d.modStream u s f).intent = d.intent := rfl
@[simp] theorem modStream_repair (u s : Nat) (f : CodecStream → CodecStream) : (d.modStream u s f).repair = d.repair := rfl
@[simp] theorem modStream_ports (u s : Nat) (f : CodecStream → CodecStream) : (d.modStream u s f).ports = d.ports := rfl
@[simp] theorem modStream_fabric (u s : Nat) (f : CodecStream → CodecStream) : (d.modStream u s f).fabric = d.fabric := rfl
@[simp] theorem modStream_red (u s : Nat) (f : CodecStream → CodecStream) : (d.modStream u s f).red = d.red := rfl
@[simp] theorem modStream_banks (u s : Nat) (f : CodecStream → CodecStream) : (d.modStream u s f).banks = d.banks := rfl
@[simp] theorem modStream_redSubst (u s : Nat) (f : CodecStream → CodecStream) : (d.modStream u s f).redSubst = d.redSubst := rfl
@[simp] theorem modStream_redMismatch (u s : Nat) (f : CodecStream → CodecStream) : (d.modStream u s f).redMismatch = d.redMismatch := rfl
@[simp] theorem modStream_health (u s : Nat) (f : CodecStream → CodecStream) : (d.modStream u s f).health = d.health := rfl
@[simp] theorem modStream_replayStat (u s : Nat) (f : CodecStream → CodecStream) : (d.modStream u s f).replayStat = d.replayStat := rfl
@[simp] theorem modOp_grade (n : Nat) (f : PtRec → PtRec) : (d.modOp n f).grade = d.grade := rfl
@[simp] theorem modOp_wall (n : Nat) (f : PtRec → PtRec) : (d.modOp n f).wall = d.wall := rfl
@[simp] theorem modOp_freeIdx (n : Nat) (f : PtRec → PtRec) : (d.modOp n f).freeIdx = d.freeIdx := rfl
@[simp] theorem modOp_readData (n : Nat) (f : PtRec → PtRec) : (d.modOp n f).readData = d.readData := rfl
@[simp] theorem modOp_logged (n : Nat) (f : PtRec → PtRec) : (d.modOp n f).logged = d.logged := rfl
@[simp] theorem modOp_cfg (n : Nat) (f : PtRec → PtRec) : (d.modOp n f).cfg = d.cfg := rfl
@[simp] theorem modOp_evt (n : Nat) (f : PtRec → PtRec) : (d.modOp n f).evt = d.evt := rfl
@[simp] theorem modOp_err (n : Nat) (f : PtRec → PtRec) : (d.modOp n f).err = d.err := rfl
@[simp] theorem modOp_clusters (n : Nat) (f : PtRec → PtRec) : (d.modOp n f).clusters = d.clusters := rfl
@[simp] theorem modOp_shape (n : Nat) (f : PtRec → PtRec) : (d.modOp n f).shape = d.shape := rfl
@[simp] theorem modOp_criers (n : Nat) (f : PtRec → PtRec) : (d.modOp n f).criers = d.criers := rfl
@[simp] theorem modOp_lease (n : Nat) (f : PtRec → PtRec) : (d.modOp n f).lease = d.lease := rfl
@[simp] theorem modOp_fw (n : Nat) (f : PtRec → PtRec) : (d.modOp n f).fw = d.fw := rfl
@[simp] theorem modOp_awning (n : Nat) (f : PtRec → PtRec) : (d.modOp n f).awning = d.awning := rfl
@[simp] theorem modOp_ledger (n : Nat) (f : PtRec → PtRec) : (d.modOp n f).ledger = d.ledger := rfl
@[simp] theorem modOp_pwr (n : Nat) (f : PtRec → PtRec) : (d.modOp n f).pwr = d.pwr := rfl
@[simp] theorem modOp_sec (n : Nat) (f : PtRec → PtRec) : (d.modOp n f).sec = d.sec := rfl
@[simp] theorem modOp_tills (n : Nat) (f : PtRec → PtRec) : (d.modOp n f).tills = d.tills := rfl
@[simp] theorem modOp_host (n : Nat) (f : PtRec → PtRec) : (d.modOp n f).host = d.host := rfl
@[simp] theorem modOp_seq (n : Nat) (f : PtRec → PtRec) : (d.modOp n f).seq = d.seq := rfl
@[simp] theorem modOp_ctxs (n : Nat) (f : PtRec → PtRec) : (d.modOp n f).ctxs = d.ctxs := rfl
@[simp] theorem modOp_cores (n : Nat) (f : PtRec → PtRec) : (d.modOp n f).cores = d.cores := rfl
@[simp] theorem modOp_mem (n : Nat) (f : PtRec → PtRec) : (d.modOp n f).mem = d.mem := rfl
@[simp] theorem modOp_badSram (n : Nat) (f : PtRec → PtRec) : (d.modOp n f).badSram = d.badSram := rfl
@[simp] theorem modOp_veil (n : Nat) (f : PtRec → PtRec) : (d.modOp n f).veil = d.veil := rfl
@[simp] theorem modOp_waiting (n : Nat) (f : PtRec → PtRec) : (d.modOp n f).waiting = d.waiting := rfl
@[simp] theorem modOp_accHeld (n : Nat) (f : PtRec → PtRec) : (d.modOp n f).accHeld = d.accHeld := rfl
@[simp] theorem modOp_loopFaults (n : Nat) (f : PtRec → PtRec) : (d.modOp n f).loopFaults = d.loopFaults := rfl
@[simp] theorem modOp_stewardStep (n : Nat) (f : PtRec → PtRec) : (d.modOp n f).stewardStep = d.stewardStep := rfl
@[simp] theorem modOp_stewardTask (n : Nat) (f : PtRec → PtRec) : (d.modOp n f).stewardTask = d.stewardTask := rfl
@[simp] theorem modOp_handoff (n : Nat) (f : PtRec → PtRec) : (d.modOp n f).handoff = d.handoff := rfl
@[simp] theorem modOp_frames (n : Nat) (f : PtRec → PtRec) : (d.modOp n f).frames = d.frames := rfl
@[simp] theorem modOp_pools (n : Nat) (f : PtRec → PtRec) : (d.modOp n f).pools = d.pools := rfl
@[simp] theorem modOp_ptNext (n : Nat) (f : PtRec → PtRec) : (d.modOp n f).ptNext = d.ptNext := rfl
@[simp] theorem modOp_ptHeld (n : Nat) (f : PtRec → PtRec) : (d.modOp n f).ptHeld = d.ptHeld := rfl
@[simp] theorem modOp_drains (n : Nat) (f : PtRec → PtRec) : (d.modOp n f).drains = d.drains := rfl
@[simp] theorem modOp_lastPorter (n : Nat) (f : PtRec → PtRec) : (d.modOp n f).lastPorter = d.lastPorter := rfl
@[simp] theorem modOp_offSent (n : Nat) (f : PtRec → PtRec) : (d.modOp n f).offSent = d.offSent := rfl
@[simp] theorem modOp_offFetched (n : Nat) (f : PtRec → PtRec) : (d.modOp n f).offFetched = d.offFetched := rfl
@[simp] theorem modOp_homes (n : Nat) (f : PtRec → PtRec) : (d.modOp n f).homes = d.homes := rfl
@[simp] theorem modOp_moves (n : Nat) (f : PtRec → PtRec) : (d.modOp n f).moves = d.moves := rfl
@[simp] theorem modOp_stks (n : Nat) (f : PtRec → PtRec) : (d.modOp n f).stks = d.stks := rfl
@[simp] theorem modOp_losses (n : Nat) (f : PtRec → PtRec) : (d.modOp n f).losses = d.losses := rfl
@[simp] theorem modOp_badBlocks (n : Nat) (f : PtRec → PtRec) : (d.modOp n f).badBlocks = d.badBlocks := rfl
@[simp] theorem modOp_reloc (n : Nat) (f : PtRec → PtRec) : (d.modOp n f).reloc = d.reloc := rfl
@[simp] theorem modOp_intent (n : Nat) (f : PtRec → PtRec) : (d.modOp n f).intent = d.intent := rfl
@[simp] theorem modOp_repair (n : Nat) (f : PtRec → PtRec) : (d.modOp n f).repair = d.repair := rfl
@[simp] theorem modOp_ports (n : Nat) (f : PtRec → PtRec) : (d.modOp n f).ports = d.ports := rfl
@[simp] theorem modOp_fabric (n : Nat) (f : PtRec → PtRec) : (d.modOp n f).fabric = d.fabric := rfl
@[simp] theorem modOp_red (n : Nat) (f : PtRec → PtRec) : (d.modOp n f).red = d.red := rfl
@[simp] theorem modOp_banks (n : Nat) (f : PtRec → PtRec) : (d.modOp n f).banks = d.banks := rfl
@[simp] theorem modOp_redSubst (n : Nat) (f : PtRec → PtRec) : (d.modOp n f).redSubst = d.redSubst := rfl
@[simp] theorem modOp_redMismatch (n : Nat) (f : PtRec → PtRec) : (d.modOp n f).redMismatch = d.redMismatch := rfl
@[simp] theorem modOp_health (n : Nat) (f : PtRec → PtRec) : (d.modOp n f).health = d.health := rfl
@[simp] theorem modOp_replayStat (n : Nat) (f : PtRec → PtRec) : (d.modOp n f).replayStat = d.replayStat := rfl
@[simp] theorem modOp_codecs (n : Nat) (f : PtRec → PtRec) : (d.modOp n f).codecs = d.codecs := rfl
@[simp] theorem modPort_grade (p : Nat) (f : Port → Port) : (d.modPort p f).grade = d.grade := rfl
@[simp] theorem modPort_wall (p : Nat) (f : Port → Port) : (d.modPort p f).wall = d.wall := rfl
@[simp] theorem modPort_freeIdx (p : Nat) (f : Port → Port) : (d.modPort p f).freeIdx = d.freeIdx := rfl
@[simp] theorem modPort_readData (p : Nat) (f : Port → Port) : (d.modPort p f).readData = d.readData := rfl
@[simp] theorem modPort_logged (p : Nat) (f : Port → Port) : (d.modPort p f).logged = d.logged := rfl
@[simp] theorem modPort_cfg (p : Nat) (f : Port → Port) : (d.modPort p f).cfg = d.cfg := rfl
@[simp] theorem modPort_evt (p : Nat) (f : Port → Port) : (d.modPort p f).evt = d.evt := rfl
@[simp] theorem modPort_err (p : Nat) (f : Port → Port) : (d.modPort p f).err = d.err := rfl
@[simp] theorem modPort_clusters (p : Nat) (f : Port → Port) : (d.modPort p f).clusters = d.clusters := rfl
@[simp] theorem modPort_shape (p : Nat) (f : Port → Port) : (d.modPort p f).shape = d.shape := rfl
@[simp] theorem modPort_criers (p : Nat) (f : Port → Port) : (d.modPort p f).criers = d.criers := rfl
@[simp] theorem modPort_lease (p : Nat) (f : Port → Port) : (d.modPort p f).lease = d.lease := rfl
@[simp] theorem modPort_fw (p : Nat) (f : Port → Port) : (d.modPort p f).fw = d.fw := rfl
@[simp] theorem modPort_awning (p : Nat) (f : Port → Port) : (d.modPort p f).awning = d.awning := rfl
@[simp] theorem modPort_ledger (p : Nat) (f : Port → Port) : (d.modPort p f).ledger = d.ledger := rfl
@[simp] theorem modPort_pwr (p : Nat) (f : Port → Port) : (d.modPort p f).pwr = d.pwr := rfl
@[simp] theorem modPort_sec (p : Nat) (f : Port → Port) : (d.modPort p f).sec = d.sec := rfl
@[simp] theorem modPort_tills (p : Nat) (f : Port → Port) : (d.modPort p f).tills = d.tills := rfl
@[simp] theorem modPort_host (p : Nat) (f : Port → Port) : (d.modPort p f).host = d.host := rfl
@[simp] theorem modPort_seq (p : Nat) (f : Port → Port) : (d.modPort p f).seq = d.seq := rfl
@[simp] theorem modPort_ctxs (p : Nat) (f : Port → Port) : (d.modPort p f).ctxs = d.ctxs := rfl
@[simp] theorem modPort_cores (p : Nat) (f : Port → Port) : (d.modPort p f).cores = d.cores := rfl
@[simp] theorem modPort_mem (p : Nat) (f : Port → Port) : (d.modPort p f).mem = d.mem := rfl
@[simp] theorem modPort_badSram (p : Nat) (f : Port → Port) : (d.modPort p f).badSram = d.badSram := rfl
@[simp] theorem modPort_veil (p : Nat) (f : Port → Port) : (d.modPort p f).veil = d.veil := rfl
@[simp] theorem modPort_waiting (p : Nat) (f : Port → Port) : (d.modPort p f).waiting = d.waiting := rfl
@[simp] theorem modPort_accHeld (p : Nat) (f : Port → Port) : (d.modPort p f).accHeld = d.accHeld := rfl
@[simp] theorem modPort_loopFaults (p : Nat) (f : Port → Port) : (d.modPort p f).loopFaults = d.loopFaults := rfl
@[simp] theorem modPort_stewardStep (p : Nat) (f : Port → Port) : (d.modPort p f).stewardStep = d.stewardStep := rfl
@[simp] theorem modPort_stewardTask (p : Nat) (f : Port → Port) : (d.modPort p f).stewardTask = d.stewardTask := rfl
@[simp] theorem modPort_handoff (p : Nat) (f : Port → Port) : (d.modPort p f).handoff = d.handoff := rfl
@[simp] theorem modPort_frames (p : Nat) (f : Port → Port) : (d.modPort p f).frames = d.frames := rfl
@[simp] theorem modPort_pools (p : Nat) (f : Port → Port) : (d.modPort p f).pools = d.pools := rfl
@[simp] theorem modPort_ptOps (p : Nat) (f : Port → Port) : (d.modPort p f).ptOps = d.ptOps := rfl
@[simp] theorem modPort_ptNext (p : Nat) (f : Port → Port) : (d.modPort p f).ptNext = d.ptNext := rfl
@[simp] theorem modPort_ptHeld (p : Nat) (f : Port → Port) : (d.modPort p f).ptHeld = d.ptHeld := rfl
@[simp] theorem modPort_drains (p : Nat) (f : Port → Port) : (d.modPort p f).drains = d.drains := rfl
@[simp] theorem modPort_lastPorter (p : Nat) (f : Port → Port) : (d.modPort p f).lastPorter = d.lastPorter := rfl
@[simp] theorem modPort_offSent (p : Nat) (f : Port → Port) : (d.modPort p f).offSent = d.offSent := rfl
@[simp] theorem modPort_offFetched (p : Nat) (f : Port → Port) : (d.modPort p f).offFetched = d.offFetched := rfl
@[simp] theorem modPort_homes (p : Nat) (f : Port → Port) : (d.modPort p f).homes = d.homes := rfl
@[simp] theorem modPort_moves (p : Nat) (f : Port → Port) : (d.modPort p f).moves = d.moves := rfl
@[simp] theorem modPort_stks (p : Nat) (f : Port → Port) : (d.modPort p f).stks = d.stks := rfl
@[simp] theorem modPort_losses (p : Nat) (f : Port → Port) : (d.modPort p f).losses = d.losses := rfl
@[simp] theorem modPort_badBlocks (p : Nat) (f : Port → Port) : (d.modPort p f).badBlocks = d.badBlocks := rfl
@[simp] theorem modPort_reloc (p : Nat) (f : Port → Port) : (d.modPort p f).reloc = d.reloc := rfl
@[simp] theorem modPort_intent (p : Nat) (f : Port → Port) : (d.modPort p f).intent = d.intent := rfl
@[simp] theorem modPort_repair (p : Nat) (f : Port → Port) : (d.modPort p f).repair = d.repair := rfl
@[simp] theorem modPort_fabric (p : Nat) (f : Port → Port) : (d.modPort p f).fabric = d.fabric := rfl
@[simp] theorem modPort_red (p : Nat) (f : Port → Port) : (d.modPort p f).red = d.red := rfl
@[simp] theorem modPort_banks (p : Nat) (f : Port → Port) : (d.modPort p f).banks = d.banks := rfl
@[simp] theorem modPort_redSubst (p : Nat) (f : Port → Port) : (d.modPort p f).redSubst = d.redSubst := rfl
@[simp] theorem modPort_redMismatch (p : Nat) (f : Port → Port) : (d.modPort p f).redMismatch = d.redMismatch := rfl
@[simp] theorem modPort_health (p : Nat) (f : Port → Port) : (d.modPort p f).health = d.health := rfl
@[simp] theorem modPort_replayStat (p : Nat) (f : Port → Port) : (d.modPort p f).replayStat = d.replayStat := rfl
@[simp] theorem modPort_codecs (p : Nat) (f : Port → Port) : (d.modPort p f).codecs = d.codecs := rfl
@[simp] theorem modFabric_grade (f : Fabric → Fabric) : (d.modFabric f).grade = d.grade := rfl
@[simp] theorem modFabric_wall (f : Fabric → Fabric) : (d.modFabric f).wall = d.wall := rfl
@[simp] theorem modFabric_freeIdx (f : Fabric → Fabric) : (d.modFabric f).freeIdx = d.freeIdx := rfl
@[simp] theorem modFabric_readData (f : Fabric → Fabric) : (d.modFabric f).readData = d.readData := rfl
@[simp] theorem modFabric_logged (f : Fabric → Fabric) : (d.modFabric f).logged = d.logged := rfl
@[simp] theorem modFabric_cfg (f : Fabric → Fabric) : (d.modFabric f).cfg = d.cfg := rfl
@[simp] theorem modFabric_evt (f : Fabric → Fabric) : (d.modFabric f).evt = d.evt := rfl
@[simp] theorem modFabric_err (f : Fabric → Fabric) : (d.modFabric f).err = d.err := rfl
@[simp] theorem modFabric_clusters (f : Fabric → Fabric) : (d.modFabric f).clusters = d.clusters := rfl
@[simp] theorem modFabric_shape (f : Fabric → Fabric) : (d.modFabric f).shape = d.shape := rfl
@[simp] theorem modFabric_criers (f : Fabric → Fabric) : (d.modFabric f).criers = d.criers := rfl
@[simp] theorem modFabric_lease (f : Fabric → Fabric) : (d.modFabric f).lease = d.lease := rfl
@[simp] theorem modFabric_fw (f : Fabric → Fabric) : (d.modFabric f).fw = d.fw := rfl
@[simp] theorem modFabric_awning (f : Fabric → Fabric) : (d.modFabric f).awning = d.awning := rfl
@[simp] theorem modFabric_ledger (f : Fabric → Fabric) : (d.modFabric f).ledger = d.ledger := rfl
@[simp] theorem modFabric_pwr (f : Fabric → Fabric) : (d.modFabric f).pwr = d.pwr := rfl
@[simp] theorem modFabric_sec (f : Fabric → Fabric) : (d.modFabric f).sec = d.sec := rfl
@[simp] theorem modFabric_tills (f : Fabric → Fabric) : (d.modFabric f).tills = d.tills := rfl
@[simp] theorem modFabric_host (f : Fabric → Fabric) : (d.modFabric f).host = d.host := rfl
@[simp] theorem modFabric_seq (f : Fabric → Fabric) : (d.modFabric f).seq = d.seq := rfl
@[simp] theorem modFabric_ctxs (f : Fabric → Fabric) : (d.modFabric f).ctxs = d.ctxs := rfl
@[simp] theorem modFabric_cores (f : Fabric → Fabric) : (d.modFabric f).cores = d.cores := rfl
@[simp] theorem modFabric_mem (f : Fabric → Fabric) : (d.modFabric f).mem = d.mem := rfl
@[simp] theorem modFabric_badSram (f : Fabric → Fabric) : (d.modFabric f).badSram = d.badSram := rfl
@[simp] theorem modFabric_veil (f : Fabric → Fabric) : (d.modFabric f).veil = d.veil := rfl
@[simp] theorem modFabric_waiting (f : Fabric → Fabric) : (d.modFabric f).waiting = d.waiting := rfl
@[simp] theorem modFabric_accHeld (f : Fabric → Fabric) : (d.modFabric f).accHeld = d.accHeld := rfl
@[simp] theorem modFabric_loopFaults (f : Fabric → Fabric) : (d.modFabric f).loopFaults = d.loopFaults := rfl
@[simp] theorem modFabric_stewardStep (f : Fabric → Fabric) : (d.modFabric f).stewardStep = d.stewardStep := rfl
@[simp] theorem modFabric_stewardTask (f : Fabric → Fabric) : (d.modFabric f).stewardTask = d.stewardTask := rfl
@[simp] theorem modFabric_handoff (f : Fabric → Fabric) : (d.modFabric f).handoff = d.handoff := rfl
@[simp] theorem modFabric_frames (f : Fabric → Fabric) : (d.modFabric f).frames = d.frames := rfl
@[simp] theorem modFabric_pools (f : Fabric → Fabric) : (d.modFabric f).pools = d.pools := rfl
@[simp] theorem modFabric_ptOps (f : Fabric → Fabric) : (d.modFabric f).ptOps = d.ptOps := rfl
@[simp] theorem modFabric_ptNext (f : Fabric → Fabric) : (d.modFabric f).ptNext = d.ptNext := rfl
@[simp] theorem modFabric_ptHeld (f : Fabric → Fabric) : (d.modFabric f).ptHeld = d.ptHeld := rfl
@[simp] theorem modFabric_drains (f : Fabric → Fabric) : (d.modFabric f).drains = d.drains := rfl
@[simp] theorem modFabric_lastPorter (f : Fabric → Fabric) : (d.modFabric f).lastPorter = d.lastPorter := rfl
@[simp] theorem modFabric_offSent (f : Fabric → Fabric) : (d.modFabric f).offSent = d.offSent := rfl
@[simp] theorem modFabric_offFetched (f : Fabric → Fabric) : (d.modFabric f).offFetched = d.offFetched := rfl
@[simp] theorem modFabric_homes (f : Fabric → Fabric) : (d.modFabric f).homes = d.homes := rfl
@[simp] theorem modFabric_moves (f : Fabric → Fabric) : (d.modFabric f).moves = d.moves := rfl
@[simp] theorem modFabric_stks (f : Fabric → Fabric) : (d.modFabric f).stks = d.stks := rfl
@[simp] theorem modFabric_losses (f : Fabric → Fabric) : (d.modFabric f).losses = d.losses := rfl
@[simp] theorem modFabric_badBlocks (f : Fabric → Fabric) : (d.modFabric f).badBlocks = d.badBlocks := rfl
@[simp] theorem modFabric_reloc (f : Fabric → Fabric) : (d.modFabric f).reloc = d.reloc := rfl
@[simp] theorem modFabric_intent (f : Fabric → Fabric) : (d.modFabric f).intent = d.intent := rfl
@[simp] theorem modFabric_repair (f : Fabric → Fabric) : (d.modFabric f).repair = d.repair := rfl
@[simp] theorem modFabric_ports (f : Fabric → Fabric) : (d.modFabric f).ports = d.ports := rfl
@[simp] theorem modFabric_red (f : Fabric → Fabric) : (d.modFabric f).red = d.red := rfl
@[simp] theorem modFabric_banks (f : Fabric → Fabric) : (d.modFabric f).banks = d.banks := rfl
@[simp] theorem modFabric_redSubst (f : Fabric → Fabric) : (d.modFabric f).redSubst = d.redSubst := rfl
@[simp] theorem modFabric_redMismatch (f : Fabric → Fabric) : (d.modFabric f).redMismatch = d.redMismatch := rfl
@[simp] theorem modFabric_health (f : Fabric → Fabric) : (d.modFabric f).health = d.health := rfl
@[simp] theorem modFabric_replayStat (f : Fabric → Fabric) : (d.modFabric f).replayStat = d.replayStat := rfl
@[simp] theorem modFabric_codecs (f : Fabric → Fabric) : (d.modFabric f).codecs = d.codecs := rfl
@[simp] theorem setBank_grade (b : Bool) (p : Option BankPkg) : (d.setBank b p).grade = d.grade := rfl
@[simp] theorem setBank_wall (b : Bool) (p : Option BankPkg) : (d.setBank b p).wall = d.wall := rfl
@[simp] theorem setBank_freeIdx (b : Bool) (p : Option BankPkg) : (d.setBank b p).freeIdx = d.freeIdx := rfl
@[simp] theorem setBank_readData (b : Bool) (p : Option BankPkg) : (d.setBank b p).readData = d.readData := rfl
@[simp] theorem setBank_logged (b : Bool) (p : Option BankPkg) : (d.setBank b p).logged = d.logged := rfl
@[simp] theorem setBank_cfg (b : Bool) (p : Option BankPkg) : (d.setBank b p).cfg = d.cfg := rfl
@[simp] theorem setBank_evt (b : Bool) (p : Option BankPkg) : (d.setBank b p).evt = d.evt := rfl
@[simp] theorem setBank_err (b : Bool) (p : Option BankPkg) : (d.setBank b p).err = d.err := rfl
@[simp] theorem setBank_clusters (b : Bool) (p : Option BankPkg) : (d.setBank b p).clusters = d.clusters := rfl
@[simp] theorem setBank_shape (b : Bool) (p : Option BankPkg) : (d.setBank b p).shape = d.shape := rfl
@[simp] theorem setBank_criers (b : Bool) (p : Option BankPkg) : (d.setBank b p).criers = d.criers := rfl
@[simp] theorem setBank_lease (b : Bool) (p : Option BankPkg) : (d.setBank b p).lease = d.lease := rfl
@[simp] theorem setBank_awning (b : Bool) (p : Option BankPkg) : (d.setBank b p).awning = d.awning := rfl
@[simp] theorem setBank_ledger (b : Bool) (p : Option BankPkg) : (d.setBank b p).ledger = d.ledger := rfl
@[simp] theorem setBank_pwr (b : Bool) (p : Option BankPkg) : (d.setBank b p).pwr = d.pwr := rfl
@[simp] theorem setBank_sec (b : Bool) (p : Option BankPkg) : (d.setBank b p).sec = d.sec := rfl
@[simp] theorem setBank_tills (b : Bool) (p : Option BankPkg) : (d.setBank b p).tills = d.tills := rfl
@[simp] theorem setBank_host (b : Bool) (p : Option BankPkg) : (d.setBank b p).host = d.host := rfl
@[simp] theorem setBank_seq (b : Bool) (p : Option BankPkg) : (d.setBank b p).seq = d.seq := rfl
@[simp] theorem setBank_ctxs (b : Bool) (p : Option BankPkg) : (d.setBank b p).ctxs = d.ctxs := rfl
@[simp] theorem setBank_cores (b : Bool) (p : Option BankPkg) : (d.setBank b p).cores = d.cores := rfl
@[simp] theorem setBank_mem (b : Bool) (p : Option BankPkg) : (d.setBank b p).mem = d.mem := rfl
@[simp] theorem setBank_badSram (b : Bool) (p : Option BankPkg) : (d.setBank b p).badSram = d.badSram := rfl
@[simp] theorem setBank_veil (b : Bool) (p : Option BankPkg) : (d.setBank b p).veil = d.veil := rfl
@[simp] theorem setBank_waiting (b : Bool) (p : Option BankPkg) : (d.setBank b p).waiting = d.waiting := rfl
@[simp] theorem setBank_accHeld (b : Bool) (p : Option BankPkg) : (d.setBank b p).accHeld = d.accHeld := rfl
@[simp] theorem setBank_loopFaults (b : Bool) (p : Option BankPkg) : (d.setBank b p).loopFaults = d.loopFaults := rfl
@[simp] theorem setBank_stewardStep (b : Bool) (p : Option BankPkg) : (d.setBank b p).stewardStep = d.stewardStep := rfl
@[simp] theorem setBank_stewardTask (b : Bool) (p : Option BankPkg) : (d.setBank b p).stewardTask = d.stewardTask := rfl
@[simp] theorem setBank_handoff (b : Bool) (p : Option BankPkg) : (d.setBank b p).handoff = d.handoff := rfl
@[simp] theorem setBank_frames (b : Bool) (p : Option BankPkg) : (d.setBank b p).frames = d.frames := rfl
@[simp] theorem setBank_pools (b : Bool) (p : Option BankPkg) : (d.setBank b p).pools = d.pools := rfl
@[simp] theorem setBank_ptOps (b : Bool) (p : Option BankPkg) : (d.setBank b p).ptOps = d.ptOps := rfl
@[simp] theorem setBank_ptNext (b : Bool) (p : Option BankPkg) : (d.setBank b p).ptNext = d.ptNext := rfl
@[simp] theorem setBank_ptHeld (b : Bool) (p : Option BankPkg) : (d.setBank b p).ptHeld = d.ptHeld := rfl
@[simp] theorem setBank_drains (b : Bool) (p : Option BankPkg) : (d.setBank b p).drains = d.drains := rfl
@[simp] theorem setBank_lastPorter (b : Bool) (p : Option BankPkg) : (d.setBank b p).lastPorter = d.lastPorter := rfl
@[simp] theorem setBank_offSent (b : Bool) (p : Option BankPkg) : (d.setBank b p).offSent = d.offSent := rfl
@[simp] theorem setBank_offFetched (b : Bool) (p : Option BankPkg) : (d.setBank b p).offFetched = d.offFetched := rfl
@[simp] theorem setBank_homes (b : Bool) (p : Option BankPkg) : (d.setBank b p).homes = d.homes := rfl
@[simp] theorem setBank_moves (b : Bool) (p : Option BankPkg) : (d.setBank b p).moves = d.moves := rfl
@[simp] theorem setBank_stks (b : Bool) (p : Option BankPkg) : (d.setBank b p).stks = d.stks := rfl
@[simp] theorem setBank_losses (b : Bool) (p : Option BankPkg) : (d.setBank b p).losses = d.losses := rfl
@[simp] theorem setBank_badBlocks (b : Bool) (p : Option BankPkg) : (d.setBank b p).badBlocks = d.badBlocks := rfl
@[simp] theorem setBank_reloc (b : Bool) (p : Option BankPkg) : (d.setBank b p).reloc = d.reloc := rfl
@[simp] theorem setBank_intent (b : Bool) (p : Option BankPkg) : (d.setBank b p).intent = d.intent := rfl
@[simp] theorem setBank_repair (b : Bool) (p : Option BankPkg) : (d.setBank b p).repair = d.repair := rfl
@[simp] theorem setBank_ports (b : Bool) (p : Option BankPkg) : (d.setBank b p).ports = d.ports := rfl
@[simp] theorem setBank_fabric (b : Bool) (p : Option BankPkg) : (d.setBank b p).fabric = d.fabric := rfl
@[simp] theorem setBank_red (b : Bool) (p : Option BankPkg) : (d.setBank b p).red = d.red := rfl
@[simp] theorem setBank_banks (b : Bool) (p : Option BankPkg) : (d.setBank b p).banks = d.banks := rfl
@[simp] theorem setBank_redSubst (b : Bool) (p : Option BankPkg) : (d.setBank b p).redSubst = d.redSubst := rfl
@[simp] theorem setBank_redMismatch (b : Bool) (p : Option BankPkg) : (d.setBank b p).redMismatch = d.redMismatch := rfl
@[simp] theorem setBank_health (b : Bool) (p : Option BankPkg) : (d.setBank b p).health = d.health := rfl
@[simp] theorem setBank_replayStat (b : Bool) (p : Option BankPkg) : (d.setBank b p).replayStat = d.replayStat := rfl
@[simp] theorem setBank_codecs (b : Bool) (p : Option BankPkg) : (d.setBank b p).codecs = d.codecs := rfl
@[simp] theorem modHome_grade (i : Nat) (f : Home → Home) : (d.modHome i f).grade = d.grade := rfl
@[simp] theorem modHome_wall (i : Nat) (f : Home → Home) : (d.modHome i f).wall = d.wall := rfl
@[simp] theorem modHome_freeIdx (i : Nat) (f : Home → Home) : (d.modHome i f).freeIdx = d.freeIdx := rfl
@[simp] theorem modHome_readData (i : Nat) (f : Home → Home) : (d.modHome i f).readData = d.readData := rfl
@[simp] theorem modHome_logged (i : Nat) (f : Home → Home) : (d.modHome i f).logged = d.logged := rfl
@[simp] theorem modHome_cfg (i : Nat) (f : Home → Home) : (d.modHome i f).cfg = d.cfg := rfl
@[simp] theorem modHome_evt (i : Nat) (f : Home → Home) : (d.modHome i f).evt = d.evt := rfl
@[simp] theorem modHome_err (i : Nat) (f : Home → Home) : (d.modHome i f).err = d.err := rfl
@[simp] theorem modHome_clusters (i : Nat) (f : Home → Home) : (d.modHome i f).clusters = d.clusters := rfl
@[simp] theorem modHome_shape (i : Nat) (f : Home → Home) : (d.modHome i f).shape = d.shape := rfl
@[simp] theorem modHome_criers (i : Nat) (f : Home → Home) : (d.modHome i f).criers = d.criers := rfl
@[simp] theorem modHome_lease (i : Nat) (f : Home → Home) : (d.modHome i f).lease = d.lease := rfl
@[simp] theorem modHome_fw (i : Nat) (f : Home → Home) : (d.modHome i f).fw = d.fw := rfl
@[simp] theorem modHome_awning (i : Nat) (f : Home → Home) : (d.modHome i f).awning = d.awning := rfl
@[simp] theorem modHome_ledger (i : Nat) (f : Home → Home) : (d.modHome i f).ledger = d.ledger := rfl
@[simp] theorem modHome_pwr (i : Nat) (f : Home → Home) : (d.modHome i f).pwr = d.pwr := rfl
@[simp] theorem modHome_sec (i : Nat) (f : Home → Home) : (d.modHome i f).sec = d.sec := rfl
@[simp] theorem modHome_tills (i : Nat) (f : Home → Home) : (d.modHome i f).tills = d.tills := rfl
@[simp] theorem modHome_host (i : Nat) (f : Home → Home) : (d.modHome i f).host = d.host := rfl
@[simp] theorem modHome_seq (i : Nat) (f : Home → Home) : (d.modHome i f).seq = d.seq := rfl
@[simp] theorem modHome_ctxs (i : Nat) (f : Home → Home) : (d.modHome i f).ctxs = d.ctxs := rfl
@[simp] theorem modHome_cores (i : Nat) (f : Home → Home) : (d.modHome i f).cores = d.cores := rfl
@[simp] theorem modHome_mem (i : Nat) (f : Home → Home) : (d.modHome i f).mem = d.mem := rfl
@[simp] theorem modHome_badSram (i : Nat) (f : Home → Home) : (d.modHome i f).badSram = d.badSram := rfl
@[simp] theorem modHome_veil (i : Nat) (f : Home → Home) : (d.modHome i f).veil = d.veil := rfl
@[simp] theorem modHome_waiting (i : Nat) (f : Home → Home) : (d.modHome i f).waiting = d.waiting := rfl
@[simp] theorem modHome_accHeld (i : Nat) (f : Home → Home) : (d.modHome i f).accHeld = d.accHeld := rfl
@[simp] theorem modHome_loopFaults (i : Nat) (f : Home → Home) : (d.modHome i f).loopFaults = d.loopFaults := rfl
@[simp] theorem modHome_stewardStep (i : Nat) (f : Home → Home) : (d.modHome i f).stewardStep = d.stewardStep := rfl
@[simp] theorem modHome_stewardTask (i : Nat) (f : Home → Home) : (d.modHome i f).stewardTask = d.stewardTask := rfl
@[simp] theorem modHome_handoff (i : Nat) (f : Home → Home) : (d.modHome i f).handoff = d.handoff := rfl
@[simp] theorem modHome_frames (i : Nat) (f : Home → Home) : (d.modHome i f).frames = d.frames := rfl
@[simp] theorem modHome_pools (i : Nat) (f : Home → Home) : (d.modHome i f).pools = d.pools := rfl
@[simp] theorem modHome_ptOps (i : Nat) (f : Home → Home) : (d.modHome i f).ptOps = d.ptOps := rfl
@[simp] theorem modHome_ptNext (i : Nat) (f : Home → Home) : (d.modHome i f).ptNext = d.ptNext := rfl
@[simp] theorem modHome_ptHeld (i : Nat) (f : Home → Home) : (d.modHome i f).ptHeld = d.ptHeld := rfl
@[simp] theorem modHome_drains (i : Nat) (f : Home → Home) : (d.modHome i f).drains = d.drains := rfl
@[simp] theorem modHome_lastPorter (i : Nat) (f : Home → Home) : (d.modHome i f).lastPorter = d.lastPorter := rfl
@[simp] theorem modHome_offSent (i : Nat) (f : Home → Home) : (d.modHome i f).offSent = d.offSent := rfl
@[simp] theorem modHome_offFetched (i : Nat) (f : Home → Home) : (d.modHome i f).offFetched = d.offFetched := rfl
@[simp] theorem modHome_moves (i : Nat) (f : Home → Home) : (d.modHome i f).moves = d.moves := rfl
@[simp] theorem modHome_stks (i : Nat) (f : Home → Home) : (d.modHome i f).stks = d.stks := rfl
@[simp] theorem modHome_losses (i : Nat) (f : Home → Home) : (d.modHome i f).losses = d.losses := rfl
@[simp] theorem modHome_badBlocks (i : Nat) (f : Home → Home) : (d.modHome i f).badBlocks = d.badBlocks := rfl
@[simp] theorem modHome_reloc (i : Nat) (f : Home → Home) : (d.modHome i f).reloc = d.reloc := rfl
@[simp] theorem modHome_intent (i : Nat) (f : Home → Home) : (d.modHome i f).intent = d.intent := rfl
@[simp] theorem modHome_repair (i : Nat) (f : Home → Home) : (d.modHome i f).repair = d.repair := rfl
@[simp] theorem modHome_ports (i : Nat) (f : Home → Home) : (d.modHome i f).ports = d.ports := rfl
@[simp] theorem modHome_fabric (i : Nat) (f : Home → Home) : (d.modHome i f).fabric = d.fabric := rfl
@[simp] theorem modHome_red (i : Nat) (f : Home → Home) : (d.modHome i f).red = d.red := rfl
@[simp] theorem modHome_banks (i : Nat) (f : Home → Home) : (d.modHome i f).banks = d.banks := rfl
@[simp] theorem modHome_redSubst (i : Nat) (f : Home → Home) : (d.modHome i f).redSubst = d.redSubst := rfl
@[simp] theorem modHome_redMismatch (i : Nat) (f : Home → Home) : (d.modHome i f).redMismatch = d.redMismatch := rfl
@[simp] theorem modHome_health (i : Nat) (f : Home → Home) : (d.modHome i f).health = d.health := rfl
@[simp] theorem modHome_replayStat (i : Nat) (f : Home → Home) : (d.modHome i f).replayStat = d.replayStat := rfl
@[simp] theorem modHome_codecs (i : Nat) (f : Home → Home) : (d.modHome i f).codecs = d.codecs := rfl
@[simp] theorem modRed_grade (t : CtxId) (f : RedCtx → RedCtx) : (d.modRed t f).grade = d.grade := rfl
@[simp] theorem modRed_wall (t : CtxId) (f : RedCtx → RedCtx) : (d.modRed t f).wall = d.wall := rfl
@[simp] theorem modRed_freeIdx (t : CtxId) (f : RedCtx → RedCtx) : (d.modRed t f).freeIdx = d.freeIdx := rfl
@[simp] theorem modRed_readData (t : CtxId) (f : RedCtx → RedCtx) : (d.modRed t f).readData = d.readData := rfl
@[simp] theorem modRed_logged (t : CtxId) (f : RedCtx → RedCtx) : (d.modRed t f).logged = d.logged := rfl
@[simp] theorem modRed_cfg (t : CtxId) (f : RedCtx → RedCtx) : (d.modRed t f).cfg = d.cfg := rfl
@[simp] theorem modRed_evt (t : CtxId) (f : RedCtx → RedCtx) : (d.modRed t f).evt = d.evt := rfl
@[simp] theorem modRed_err (t : CtxId) (f : RedCtx → RedCtx) : (d.modRed t f).err = d.err := rfl
@[simp] theorem modRed_clusters (t : CtxId) (f : RedCtx → RedCtx) : (d.modRed t f).clusters = d.clusters := rfl
@[simp] theorem modRed_shape (t : CtxId) (f : RedCtx → RedCtx) : (d.modRed t f).shape = d.shape := rfl
@[simp] theorem modRed_criers (t : CtxId) (f : RedCtx → RedCtx) : (d.modRed t f).criers = d.criers := rfl
@[simp] theorem modRed_lease (t : CtxId) (f : RedCtx → RedCtx) : (d.modRed t f).lease = d.lease := rfl
@[simp] theorem modRed_fw (t : CtxId) (f : RedCtx → RedCtx) : (d.modRed t f).fw = d.fw := rfl
@[simp] theorem modRed_awning (t : CtxId) (f : RedCtx → RedCtx) : (d.modRed t f).awning = d.awning := rfl
@[simp] theorem modRed_ledger (t : CtxId) (f : RedCtx → RedCtx) : (d.modRed t f).ledger = d.ledger := rfl
@[simp] theorem modRed_pwr (t : CtxId) (f : RedCtx → RedCtx) : (d.modRed t f).pwr = d.pwr := rfl
@[simp] theorem modRed_sec (t : CtxId) (f : RedCtx → RedCtx) : (d.modRed t f).sec = d.sec := rfl
@[simp] theorem modRed_tills (t : CtxId) (f : RedCtx → RedCtx) : (d.modRed t f).tills = d.tills := rfl
@[simp] theorem modRed_host (t : CtxId) (f : RedCtx → RedCtx) : (d.modRed t f).host = d.host := rfl
@[simp] theorem modRed_seq (t : CtxId) (f : RedCtx → RedCtx) : (d.modRed t f).seq = d.seq := rfl
@[simp] theorem modRed_ctxs (t : CtxId) (f : RedCtx → RedCtx) : (d.modRed t f).ctxs = d.ctxs := rfl
@[simp] theorem modRed_cores (t : CtxId) (f : RedCtx → RedCtx) : (d.modRed t f).cores = d.cores := rfl
@[simp] theorem modRed_mem (t : CtxId) (f : RedCtx → RedCtx) : (d.modRed t f).mem = d.mem := rfl
@[simp] theorem modRed_badSram (t : CtxId) (f : RedCtx → RedCtx) : (d.modRed t f).badSram = d.badSram := rfl
@[simp] theorem modRed_veil (t : CtxId) (f : RedCtx → RedCtx) : (d.modRed t f).veil = d.veil := rfl
@[simp] theorem modRed_waiting (t : CtxId) (f : RedCtx → RedCtx) : (d.modRed t f).waiting = d.waiting := rfl
@[simp] theorem modRed_accHeld (t : CtxId) (f : RedCtx → RedCtx) : (d.modRed t f).accHeld = d.accHeld := rfl
@[simp] theorem modRed_loopFaults (t : CtxId) (f : RedCtx → RedCtx) : (d.modRed t f).loopFaults = d.loopFaults := rfl
@[simp] theorem modRed_stewardStep (t : CtxId) (f : RedCtx → RedCtx) : (d.modRed t f).stewardStep = d.stewardStep := rfl
@[simp] theorem modRed_stewardTask (t : CtxId) (f : RedCtx → RedCtx) : (d.modRed t f).stewardTask = d.stewardTask := rfl
@[simp] theorem modRed_handoff (t : CtxId) (f : RedCtx → RedCtx) : (d.modRed t f).handoff = d.handoff := rfl
@[simp] theorem modRed_frames (t : CtxId) (f : RedCtx → RedCtx) : (d.modRed t f).frames = d.frames := rfl
@[simp] theorem modRed_pools (t : CtxId) (f : RedCtx → RedCtx) : (d.modRed t f).pools = d.pools := rfl
@[simp] theorem modRed_ptOps (t : CtxId) (f : RedCtx → RedCtx) : (d.modRed t f).ptOps = d.ptOps := rfl
@[simp] theorem modRed_ptNext (t : CtxId) (f : RedCtx → RedCtx) : (d.modRed t f).ptNext = d.ptNext := rfl
@[simp] theorem modRed_ptHeld (t : CtxId) (f : RedCtx → RedCtx) : (d.modRed t f).ptHeld = d.ptHeld := rfl
@[simp] theorem modRed_drains (t : CtxId) (f : RedCtx → RedCtx) : (d.modRed t f).drains = d.drains := rfl
@[simp] theorem modRed_lastPorter (t : CtxId) (f : RedCtx → RedCtx) : (d.modRed t f).lastPorter = d.lastPorter := rfl
@[simp] theorem modRed_offSent (t : CtxId) (f : RedCtx → RedCtx) : (d.modRed t f).offSent = d.offSent := rfl
@[simp] theorem modRed_offFetched (t : CtxId) (f : RedCtx → RedCtx) : (d.modRed t f).offFetched = d.offFetched := rfl
@[simp] theorem modRed_homes (t : CtxId) (f : RedCtx → RedCtx) : (d.modRed t f).homes = d.homes := rfl
@[simp] theorem modRed_moves (t : CtxId) (f : RedCtx → RedCtx) : (d.modRed t f).moves = d.moves := rfl
@[simp] theorem modRed_stks (t : CtxId) (f : RedCtx → RedCtx) : (d.modRed t f).stks = d.stks := rfl
@[simp] theorem modRed_losses (t : CtxId) (f : RedCtx → RedCtx) : (d.modRed t f).losses = d.losses := rfl
@[simp] theorem modRed_badBlocks (t : CtxId) (f : RedCtx → RedCtx) : (d.modRed t f).badBlocks = d.badBlocks := rfl
@[simp] theorem modRed_reloc (t : CtxId) (f : RedCtx → RedCtx) : (d.modRed t f).reloc = d.reloc := rfl
@[simp] theorem modRed_intent (t : CtxId) (f : RedCtx → RedCtx) : (d.modRed t f).intent = d.intent := rfl
@[simp] theorem modRed_repair (t : CtxId) (f : RedCtx → RedCtx) : (d.modRed t f).repair = d.repair := rfl
@[simp] theorem modRed_ports (t : CtxId) (f : RedCtx → RedCtx) : (d.modRed t f).ports = d.ports := rfl
@[simp] theorem modRed_fabric (t : CtxId) (f : RedCtx → RedCtx) : (d.modRed t f).fabric = d.fabric := rfl
@[simp] theorem modRed_banks (t : CtxId) (f : RedCtx → RedCtx) : (d.modRed t f).banks = d.banks := rfl
@[simp] theorem modRed_redSubst (t : CtxId) (f : RedCtx → RedCtx) : (d.modRed t f).redSubst = d.redSubst := rfl
@[simp] theorem modRed_redMismatch (t : CtxId) (f : RedCtx → RedCtx) : (d.modRed t f).redMismatch = d.redMismatch := rfl
@[simp] theorem modRed_health (t : CtxId) (f : RedCtx → RedCtx) : (d.modRed t f).health = d.health := rfl
@[simp] theorem modRed_replayStat (t : CtxId) (f : RedCtx → RedCtx) : (d.modRed t f).replayStat = d.replayStat := rfl
@[simp] theorem modRed_codecs (t : CtxId) (f : RedCtx → RedCtx) : (d.modRed t f).codecs = d.codecs := rfl
@[simp] theorem modRun_grade (t : CtxId) (r : Nat) (f : RedRun → RedRun) : (d.modRun t r f).grade = d.grade := rfl
@[simp] theorem modRun_wall (t : CtxId) (r : Nat) (f : RedRun → RedRun) : (d.modRun t r f).wall = d.wall := rfl
@[simp] theorem modRun_freeIdx (t : CtxId) (r : Nat) (f : RedRun → RedRun) : (d.modRun t r f).freeIdx = d.freeIdx := rfl
@[simp] theorem modRun_readData (t : CtxId) (r : Nat) (f : RedRun → RedRun) : (d.modRun t r f).readData = d.readData := rfl
@[simp] theorem modRun_logged (t : CtxId) (r : Nat) (f : RedRun → RedRun) : (d.modRun t r f).logged = d.logged := rfl
@[simp] theorem modRun_cfg (t : CtxId) (r : Nat) (f : RedRun → RedRun) : (d.modRun t r f).cfg = d.cfg := rfl
@[simp] theorem modRun_evt (t : CtxId) (r : Nat) (f : RedRun → RedRun) : (d.modRun t r f).evt = d.evt := rfl
@[simp] theorem modRun_err (t : CtxId) (r : Nat) (f : RedRun → RedRun) : (d.modRun t r f).err = d.err := rfl
@[simp] theorem modRun_clusters (t : CtxId) (r : Nat) (f : RedRun → RedRun) : (d.modRun t r f).clusters = d.clusters := rfl
@[simp] theorem modRun_shape (t : CtxId) (r : Nat) (f : RedRun → RedRun) : (d.modRun t r f).shape = d.shape := rfl
@[simp] theorem modRun_criers (t : CtxId) (r : Nat) (f : RedRun → RedRun) : (d.modRun t r f).criers = d.criers := rfl
@[simp] theorem modRun_lease (t : CtxId) (r : Nat) (f : RedRun → RedRun) : (d.modRun t r f).lease = d.lease := rfl
@[simp] theorem modRun_fw (t : CtxId) (r : Nat) (f : RedRun → RedRun) : (d.modRun t r f).fw = d.fw := rfl
@[simp] theorem modRun_awning (t : CtxId) (r : Nat) (f : RedRun → RedRun) : (d.modRun t r f).awning = d.awning := rfl
@[simp] theorem modRun_ledger (t : CtxId) (r : Nat) (f : RedRun → RedRun) : (d.modRun t r f).ledger = d.ledger := rfl
@[simp] theorem modRun_pwr (t : CtxId) (r : Nat) (f : RedRun → RedRun) : (d.modRun t r f).pwr = d.pwr := rfl
@[simp] theorem modRun_sec (t : CtxId) (r : Nat) (f : RedRun → RedRun) : (d.modRun t r f).sec = d.sec := rfl
@[simp] theorem modRun_tills (t : CtxId) (r : Nat) (f : RedRun → RedRun) : (d.modRun t r f).tills = d.tills := rfl
@[simp] theorem modRun_host (t : CtxId) (r : Nat) (f : RedRun → RedRun) : (d.modRun t r f).host = d.host := rfl
@[simp] theorem modRun_seq (t : CtxId) (r : Nat) (f : RedRun → RedRun) : (d.modRun t r f).seq = d.seq := rfl
@[simp] theorem modRun_ctxs (t : CtxId) (r : Nat) (f : RedRun → RedRun) : (d.modRun t r f).ctxs = d.ctxs := rfl
@[simp] theorem modRun_cores (t : CtxId) (r : Nat) (f : RedRun → RedRun) : (d.modRun t r f).cores = d.cores := rfl
@[simp] theorem modRun_mem (t : CtxId) (r : Nat) (f : RedRun → RedRun) : (d.modRun t r f).mem = d.mem := rfl
@[simp] theorem modRun_badSram (t : CtxId) (r : Nat) (f : RedRun → RedRun) : (d.modRun t r f).badSram = d.badSram := rfl
@[simp] theorem modRun_veil (t : CtxId) (r : Nat) (f : RedRun → RedRun) : (d.modRun t r f).veil = d.veil := rfl
@[simp] theorem modRun_waiting (t : CtxId) (r : Nat) (f : RedRun → RedRun) : (d.modRun t r f).waiting = d.waiting := rfl
@[simp] theorem modRun_accHeld (t : CtxId) (r : Nat) (f : RedRun → RedRun) : (d.modRun t r f).accHeld = d.accHeld := rfl
@[simp] theorem modRun_loopFaults (t : CtxId) (r : Nat) (f : RedRun → RedRun) : (d.modRun t r f).loopFaults = d.loopFaults := rfl
@[simp] theorem modRun_stewardStep (t : CtxId) (r : Nat) (f : RedRun → RedRun) : (d.modRun t r f).stewardStep = d.stewardStep := rfl
@[simp] theorem modRun_stewardTask (t : CtxId) (r : Nat) (f : RedRun → RedRun) : (d.modRun t r f).stewardTask = d.stewardTask := rfl
@[simp] theorem modRun_handoff (t : CtxId) (r : Nat) (f : RedRun → RedRun) : (d.modRun t r f).handoff = d.handoff := rfl
@[simp] theorem modRun_frames (t : CtxId) (r : Nat) (f : RedRun → RedRun) : (d.modRun t r f).frames = d.frames := rfl
@[simp] theorem modRun_pools (t : CtxId) (r : Nat) (f : RedRun → RedRun) : (d.modRun t r f).pools = d.pools := rfl
@[simp] theorem modRun_ptOps (t : CtxId) (r : Nat) (f : RedRun → RedRun) : (d.modRun t r f).ptOps = d.ptOps := rfl
@[simp] theorem modRun_ptNext (t : CtxId) (r : Nat) (f : RedRun → RedRun) : (d.modRun t r f).ptNext = d.ptNext := rfl
@[simp] theorem modRun_ptHeld (t : CtxId) (r : Nat) (f : RedRun → RedRun) : (d.modRun t r f).ptHeld = d.ptHeld := rfl
@[simp] theorem modRun_drains (t : CtxId) (r : Nat) (f : RedRun → RedRun) : (d.modRun t r f).drains = d.drains := rfl
@[simp] theorem modRun_lastPorter (t : CtxId) (r : Nat) (f : RedRun → RedRun) : (d.modRun t r f).lastPorter = d.lastPorter := rfl
@[simp] theorem modRun_offSent (t : CtxId) (r : Nat) (f : RedRun → RedRun) : (d.modRun t r f).offSent = d.offSent := rfl
@[simp] theorem modRun_offFetched (t : CtxId) (r : Nat) (f : RedRun → RedRun) : (d.modRun t r f).offFetched = d.offFetched := rfl
@[simp] theorem modRun_homes (t : CtxId) (r : Nat) (f : RedRun → RedRun) : (d.modRun t r f).homes = d.homes := rfl
@[simp] theorem modRun_moves (t : CtxId) (r : Nat) (f : RedRun → RedRun) : (d.modRun t r f).moves = d.moves := rfl
@[simp] theorem modRun_stks (t : CtxId) (r : Nat) (f : RedRun → RedRun) : (d.modRun t r f).stks = d.stks := rfl
@[simp] theorem modRun_losses (t : CtxId) (r : Nat) (f : RedRun → RedRun) : (d.modRun t r f).losses = d.losses := rfl
@[simp] theorem modRun_badBlocks (t : CtxId) (r : Nat) (f : RedRun → RedRun) : (d.modRun t r f).badBlocks = d.badBlocks := rfl
@[simp] theorem modRun_reloc (t : CtxId) (r : Nat) (f : RedRun → RedRun) : (d.modRun t r f).reloc = d.reloc := rfl
@[simp] theorem modRun_intent (t : CtxId) (r : Nat) (f : RedRun → RedRun) : (d.modRun t r f).intent = d.intent := rfl
@[simp] theorem modRun_repair (t : CtxId) (r : Nat) (f : RedRun → RedRun) : (d.modRun t r f).repair = d.repair := rfl
@[simp] theorem modRun_ports (t : CtxId) (r : Nat) (f : RedRun → RedRun) : (d.modRun t r f).ports = d.ports := rfl
@[simp] theorem modRun_fabric (t : CtxId) (r : Nat) (f : RedRun → RedRun) : (d.modRun t r f).fabric = d.fabric := rfl
@[simp] theorem modRun_banks (t : CtxId) (r : Nat) (f : RedRun → RedRun) : (d.modRun t r f).banks = d.banks := rfl
@[simp] theorem modRun_redSubst (t : CtxId) (r : Nat) (f : RedRun → RedRun) : (d.modRun t r f).redSubst = d.redSubst := rfl
@[simp] theorem modRun_redMismatch (t : CtxId) (r : Nat) (f : RedRun → RedRun) : (d.modRun t r f).redMismatch = d.redMismatch := rfl
@[simp] theorem modRun_health (t : CtxId) (r : Nat) (f : RedRun → RedRun) : (d.modRun t r f).health = d.health := rfl
@[simp] theorem modRun_replayStat (t : CtxId) (r : Nat) (f : RedRun → RedRun) : (d.modRun t r f).replayStat = d.replayStat := rfl
@[simp] theorem modRun_codecs (t : CtxId) (r : Nat) (f : RedRun → RedRun) : (d.modRun t r f).codecs = d.codecs := rfl
@[simp] theorem modBank_grade (p : Nat) (f : Bank2 → Bank2) : (d.modBank p f).grade = d.grade := rfl
@[simp] theorem modBank_wall (p : Nat) (f : Bank2 → Bank2) : (d.modBank p f).wall = d.wall := rfl
@[simp] theorem modBank_freeIdx (p : Nat) (f : Bank2 → Bank2) : (d.modBank p f).freeIdx = d.freeIdx := rfl
@[simp] theorem modBank_readData (p : Nat) (f : Bank2 → Bank2) : (d.modBank p f).readData = d.readData := rfl
@[simp] theorem modBank_logged (p : Nat) (f : Bank2 → Bank2) : (d.modBank p f).logged = d.logged := rfl
@[simp] theorem modBank_cfg (p : Nat) (f : Bank2 → Bank2) : (d.modBank p f).cfg = d.cfg := rfl
@[simp] theorem modBank_evt (p : Nat) (f : Bank2 → Bank2) : (d.modBank p f).evt = d.evt := rfl
@[simp] theorem modBank_err (p : Nat) (f : Bank2 → Bank2) : (d.modBank p f).err = d.err := rfl
@[simp] theorem modBank_clusters (p : Nat) (f : Bank2 → Bank2) : (d.modBank p f).clusters = d.clusters := rfl
@[simp] theorem modBank_shape (p : Nat) (f : Bank2 → Bank2) : (d.modBank p f).shape = d.shape := rfl
@[simp] theorem modBank_criers (p : Nat) (f : Bank2 → Bank2) : (d.modBank p f).criers = d.criers := rfl
@[simp] theorem modBank_lease (p : Nat) (f : Bank2 → Bank2) : (d.modBank p f).lease = d.lease := rfl
@[simp] theorem modBank_fw (p : Nat) (f : Bank2 → Bank2) : (d.modBank p f).fw = d.fw := rfl
@[simp] theorem modBank_awning (p : Nat) (f : Bank2 → Bank2) : (d.modBank p f).awning = d.awning := rfl
@[simp] theorem modBank_ledger (p : Nat) (f : Bank2 → Bank2) : (d.modBank p f).ledger = d.ledger := rfl
@[simp] theorem modBank_pwr (p : Nat) (f : Bank2 → Bank2) : (d.modBank p f).pwr = d.pwr := rfl
@[simp] theorem modBank_sec (p : Nat) (f : Bank2 → Bank2) : (d.modBank p f).sec = d.sec := rfl
@[simp] theorem modBank_tills (p : Nat) (f : Bank2 → Bank2) : (d.modBank p f).tills = d.tills := rfl
@[simp] theorem modBank_host (p : Nat) (f : Bank2 → Bank2) : (d.modBank p f).host = d.host := rfl
@[simp] theorem modBank_seq (p : Nat) (f : Bank2 → Bank2) : (d.modBank p f).seq = d.seq := rfl
@[simp] theorem modBank_ctxs (p : Nat) (f : Bank2 → Bank2) : (d.modBank p f).ctxs = d.ctxs := rfl
@[simp] theorem modBank_cores (p : Nat) (f : Bank2 → Bank2) : (d.modBank p f).cores = d.cores := rfl
@[simp] theorem modBank_mem (p : Nat) (f : Bank2 → Bank2) : (d.modBank p f).mem = d.mem := rfl
@[simp] theorem modBank_badSram (p : Nat) (f : Bank2 → Bank2) : (d.modBank p f).badSram = d.badSram := rfl
@[simp] theorem modBank_veil (p : Nat) (f : Bank2 → Bank2) : (d.modBank p f).veil = d.veil := rfl
@[simp] theorem modBank_waiting (p : Nat) (f : Bank2 → Bank2) : (d.modBank p f).waiting = d.waiting := rfl
@[simp] theorem modBank_accHeld (p : Nat) (f : Bank2 → Bank2) : (d.modBank p f).accHeld = d.accHeld := rfl
@[simp] theorem modBank_loopFaults (p : Nat) (f : Bank2 → Bank2) : (d.modBank p f).loopFaults = d.loopFaults := rfl
@[simp] theorem modBank_stewardStep (p : Nat) (f : Bank2 → Bank2) : (d.modBank p f).stewardStep = d.stewardStep := rfl
@[simp] theorem modBank_stewardTask (p : Nat) (f : Bank2 → Bank2) : (d.modBank p f).stewardTask = d.stewardTask := rfl
@[simp] theorem modBank_handoff (p : Nat) (f : Bank2 → Bank2) : (d.modBank p f).handoff = d.handoff := rfl
@[simp] theorem modBank_frames (p : Nat) (f : Bank2 → Bank2) : (d.modBank p f).frames = d.frames := rfl
@[simp] theorem modBank_pools (p : Nat) (f : Bank2 → Bank2) : (d.modBank p f).pools = d.pools := rfl
@[simp] theorem modBank_ptOps (p : Nat) (f : Bank2 → Bank2) : (d.modBank p f).ptOps = d.ptOps := rfl
@[simp] theorem modBank_ptNext (p : Nat) (f : Bank2 → Bank2) : (d.modBank p f).ptNext = d.ptNext := rfl
@[simp] theorem modBank_ptHeld (p : Nat) (f : Bank2 → Bank2) : (d.modBank p f).ptHeld = d.ptHeld := rfl
@[simp] theorem modBank_drains (p : Nat) (f : Bank2 → Bank2) : (d.modBank p f).drains = d.drains := rfl
@[simp] theorem modBank_lastPorter (p : Nat) (f : Bank2 → Bank2) : (d.modBank p f).lastPorter = d.lastPorter := rfl
@[simp] theorem modBank_offSent (p : Nat) (f : Bank2 → Bank2) : (d.modBank p f).offSent = d.offSent := rfl
@[simp] theorem modBank_offFetched (p : Nat) (f : Bank2 → Bank2) : (d.modBank p f).offFetched = d.offFetched := rfl
@[simp] theorem modBank_homes (p : Nat) (f : Bank2 → Bank2) : (d.modBank p f).homes = d.homes := rfl
@[simp] theorem modBank_moves (p : Nat) (f : Bank2 → Bank2) : (d.modBank p f).moves = d.moves := rfl
@[simp] theorem modBank_stks (p : Nat) (f : Bank2 → Bank2) : (d.modBank p f).stks = d.stks := rfl
@[simp] theorem modBank_losses (p : Nat) (f : Bank2 → Bank2) : (d.modBank p f).losses = d.losses := rfl
@[simp] theorem modBank_badBlocks (p : Nat) (f : Bank2 → Bank2) : (d.modBank p f).badBlocks = d.badBlocks := rfl
@[simp] theorem modBank_reloc (p : Nat) (f : Bank2 → Bank2) : (d.modBank p f).reloc = d.reloc := rfl
@[simp] theorem modBank_intent (p : Nat) (f : Bank2 → Bank2) : (d.modBank p f).intent = d.intent := rfl
@[simp] theorem modBank_repair (p : Nat) (f : Bank2 → Bank2) : (d.modBank p f).repair = d.repair := rfl
@[simp] theorem modBank_ports (p : Nat) (f : Bank2 → Bank2) : (d.modBank p f).ports = d.ports := rfl
@[simp] theorem modBank_fabric (p : Nat) (f : Bank2 → Bank2) : (d.modBank p f).fabric = d.fabric := rfl
@[simp] theorem modBank_red (p : Nat) (f : Bank2 → Bank2) : (d.modBank p f).red = d.red := rfl
@[simp] theorem modBank_redSubst (p : Nat) (f : Bank2 → Bank2) : (d.modBank p f).redSubst = d.redSubst := rfl
@[simp] theorem modBank_redMismatch (p : Nat) (f : Bank2 → Bank2) : (d.modBank p f).redMismatch = d.redMismatch := rfl
@[simp] theorem modBank_health (p : Nat) (f : Bank2 → Bank2) : (d.modBank p f).health = d.health := rfl
@[simp] theorem modBank_replayStat (p : Nat) (f : Bank2 → Bank2) : (d.modBank p f).replayStat = d.replayStat := rfl
@[simp] theorem modBank_codecs (p : Nat) (f : Bank2 → Bank2) : (d.modBank p f).codecs = d.codecs := rfl
@[simp] theorem modPwr_grade (f : Power → Power) : (d.modPwr f).grade = d.grade := rfl
@[simp] theorem modPwr_wall (f : Power → Power) : (d.modPwr f).wall = d.wall := rfl
@[simp] theorem modPwr_freeIdx (f : Power → Power) : (d.modPwr f).freeIdx = d.freeIdx := rfl
@[simp] theorem modPwr_readData (f : Power → Power) : (d.modPwr f).readData = d.readData := rfl
@[simp] theorem modPwr_logged (f : Power → Power) : (d.modPwr f).logged = d.logged := rfl
@[simp] theorem modPwr_cfg (f : Power → Power) : (d.modPwr f).cfg = d.cfg := rfl
@[simp] theorem modPwr_evt (f : Power → Power) : (d.modPwr f).evt = d.evt := rfl
@[simp] theorem modPwr_err (f : Power → Power) : (d.modPwr f).err = d.err := rfl
@[simp] theorem modPwr_clusters (f : Power → Power) : (d.modPwr f).clusters = d.clusters := rfl
@[simp] theorem modPwr_shape (f : Power → Power) : (d.modPwr f).shape = d.shape := rfl
@[simp] theorem modPwr_criers (f : Power → Power) : (d.modPwr f).criers = d.criers := rfl
@[simp] theorem modPwr_lease (f : Power → Power) : (d.modPwr f).lease = d.lease := rfl
@[simp] theorem modPwr_fw (f : Power → Power) : (d.modPwr f).fw = d.fw := rfl
@[simp] theorem modPwr_awning (f : Power → Power) : (d.modPwr f).awning = d.awning := rfl
@[simp] theorem modPwr_ledger (f : Power → Power) : (d.modPwr f).ledger = d.ledger := rfl
@[simp] theorem modPwr_sec (f : Power → Power) : (d.modPwr f).sec = d.sec := rfl
@[simp] theorem modPwr_tills (f : Power → Power) : (d.modPwr f).tills = d.tills := rfl
@[simp] theorem modPwr_host (f : Power → Power) : (d.modPwr f).host = d.host := rfl
@[simp] theorem modPwr_seq (f : Power → Power) : (d.modPwr f).seq = d.seq := rfl
@[simp] theorem modPwr_ctxs (f : Power → Power) : (d.modPwr f).ctxs = d.ctxs := rfl
@[simp] theorem modPwr_cores (f : Power → Power) : (d.modPwr f).cores = d.cores := rfl
@[simp] theorem modPwr_mem (f : Power → Power) : (d.modPwr f).mem = d.mem := rfl
@[simp] theorem modPwr_badSram (f : Power → Power) : (d.modPwr f).badSram = d.badSram := rfl
@[simp] theorem modPwr_veil (f : Power → Power) : (d.modPwr f).veil = d.veil := rfl
@[simp] theorem modPwr_waiting (f : Power → Power) : (d.modPwr f).waiting = d.waiting := rfl
@[simp] theorem modPwr_accHeld (f : Power → Power) : (d.modPwr f).accHeld = d.accHeld := rfl
@[simp] theorem modPwr_loopFaults (f : Power → Power) : (d.modPwr f).loopFaults = d.loopFaults := rfl
@[simp] theorem modPwr_stewardStep (f : Power → Power) : (d.modPwr f).stewardStep = d.stewardStep := rfl
@[simp] theorem modPwr_stewardTask (f : Power → Power) : (d.modPwr f).stewardTask = d.stewardTask := rfl
@[simp] theorem modPwr_handoff (f : Power → Power) : (d.modPwr f).handoff = d.handoff := rfl
@[simp] theorem modPwr_frames (f : Power → Power) : (d.modPwr f).frames = d.frames := rfl
@[simp] theorem modPwr_pools (f : Power → Power) : (d.modPwr f).pools = d.pools := rfl
@[simp] theorem modPwr_ptOps (f : Power → Power) : (d.modPwr f).ptOps = d.ptOps := rfl
@[simp] theorem modPwr_ptNext (f : Power → Power) : (d.modPwr f).ptNext = d.ptNext := rfl
@[simp] theorem modPwr_ptHeld (f : Power → Power) : (d.modPwr f).ptHeld = d.ptHeld := rfl
@[simp] theorem modPwr_drains (f : Power → Power) : (d.modPwr f).drains = d.drains := rfl
@[simp] theorem modPwr_lastPorter (f : Power → Power) : (d.modPwr f).lastPorter = d.lastPorter := rfl
@[simp] theorem modPwr_offSent (f : Power → Power) : (d.modPwr f).offSent = d.offSent := rfl
@[simp] theorem modPwr_offFetched (f : Power → Power) : (d.modPwr f).offFetched = d.offFetched := rfl
@[simp] theorem modPwr_homes (f : Power → Power) : (d.modPwr f).homes = d.homes := rfl
@[simp] theorem modPwr_moves (f : Power → Power) : (d.modPwr f).moves = d.moves := rfl
@[simp] theorem modPwr_stks (f : Power → Power) : (d.modPwr f).stks = d.stks := rfl
@[simp] theorem modPwr_losses (f : Power → Power) : (d.modPwr f).losses = d.losses := rfl
@[simp] theorem modPwr_badBlocks (f : Power → Power) : (d.modPwr f).badBlocks = d.badBlocks := rfl
@[simp] theorem modPwr_reloc (f : Power → Power) : (d.modPwr f).reloc = d.reloc := rfl
@[simp] theorem modPwr_intent (f : Power → Power) : (d.modPwr f).intent = d.intent := rfl
@[simp] theorem modPwr_repair (f : Power → Power) : (d.modPwr f).repair = d.repair := rfl
@[simp] theorem modPwr_ports (f : Power → Power) : (d.modPwr f).ports = d.ports := rfl
@[simp] theorem modPwr_fabric (f : Power → Power) : (d.modPwr f).fabric = d.fabric := rfl
@[simp] theorem modPwr_red (f : Power → Power) : (d.modPwr f).red = d.red := rfl
@[simp] theorem modPwr_banks (f : Power → Power) : (d.modPwr f).banks = d.banks := rfl
@[simp] theorem modPwr_redSubst (f : Power → Power) : (d.modPwr f).redSubst = d.redSubst := rfl
@[simp] theorem modPwr_redMismatch (f : Power → Power) : (d.modPwr f).redMismatch = d.redMismatch := rfl
@[simp] theorem modPwr_health (f : Power → Power) : (d.modPwr f).health = d.health := rfl
@[simp] theorem modPwr_replayStat (f : Power → Power) : (d.modPwr f).replayStat = d.replayStat := rfl
@[simp] theorem modPwr_codecs (f : Power → Power) : (d.modPwr f).codecs = d.codecs := rfl
@[simp] theorem modStk_grade (s : Nat) (f : Stack → Stack) : (d.modStk s f).grade = d.grade := rfl
@[simp] theorem modStk_wall (s : Nat) (f : Stack → Stack) : (d.modStk s f).wall = d.wall := rfl
@[simp] theorem modStk_freeIdx (s : Nat) (f : Stack → Stack) : (d.modStk s f).freeIdx = d.freeIdx := rfl
@[simp] theorem modStk_readData (s : Nat) (f : Stack → Stack) : (d.modStk s f).readData = d.readData := rfl
@[simp] theorem modStk_logged (s : Nat) (f : Stack → Stack) : (d.modStk s f).logged = d.logged := rfl
@[simp] theorem modStk_cfg (s : Nat) (f : Stack → Stack) : (d.modStk s f).cfg = d.cfg := rfl
@[simp] theorem modStk_evt (s : Nat) (f : Stack → Stack) : (d.modStk s f).evt = d.evt := rfl
@[simp] theorem modStk_err (s : Nat) (f : Stack → Stack) : (d.modStk s f).err = d.err := rfl
@[simp] theorem modStk_clusters (s : Nat) (f : Stack → Stack) : (d.modStk s f).clusters = d.clusters := rfl
@[simp] theorem modStk_shape (s : Nat) (f : Stack → Stack) : (d.modStk s f).shape = d.shape := rfl
@[simp] theorem modStk_criers (s : Nat) (f : Stack → Stack) : (d.modStk s f).criers = d.criers := rfl
@[simp] theorem modStk_lease (s : Nat) (f : Stack → Stack) : (d.modStk s f).lease = d.lease := rfl
@[simp] theorem modStk_fw (s : Nat) (f : Stack → Stack) : (d.modStk s f).fw = d.fw := rfl
@[simp] theorem modStk_awning (s : Nat) (f : Stack → Stack) : (d.modStk s f).awning = d.awning := rfl
@[simp] theorem modStk_ledger (s : Nat) (f : Stack → Stack) : (d.modStk s f).ledger = d.ledger := rfl
@[simp] theorem modStk_pwr (s : Nat) (f : Stack → Stack) : (d.modStk s f).pwr = d.pwr := rfl
@[simp] theorem modStk_sec (s : Nat) (f : Stack → Stack) : (d.modStk s f).sec = d.sec := rfl
@[simp] theorem modStk_tills (s : Nat) (f : Stack → Stack) : (d.modStk s f).tills = d.tills := rfl
@[simp] theorem modStk_host (s : Nat) (f : Stack → Stack) : (d.modStk s f).host = d.host := rfl
@[simp] theorem modStk_seq (s : Nat) (f : Stack → Stack) : (d.modStk s f).seq = d.seq := rfl
@[simp] theorem modStk_ctxs (s : Nat) (f : Stack → Stack) : (d.modStk s f).ctxs = d.ctxs := rfl
@[simp] theorem modStk_cores (s : Nat) (f : Stack → Stack) : (d.modStk s f).cores = d.cores := rfl
@[simp] theorem modStk_mem (s : Nat) (f : Stack → Stack) : (d.modStk s f).mem = d.mem := rfl
@[simp] theorem modStk_badSram (s : Nat) (f : Stack → Stack) : (d.modStk s f).badSram = d.badSram := rfl
@[simp] theorem modStk_veil (s : Nat) (f : Stack → Stack) : (d.modStk s f).veil = d.veil := rfl
@[simp] theorem modStk_waiting (s : Nat) (f : Stack → Stack) : (d.modStk s f).waiting = d.waiting := rfl
@[simp] theorem modStk_accHeld (s : Nat) (f : Stack → Stack) : (d.modStk s f).accHeld = d.accHeld := rfl
@[simp] theorem modStk_loopFaults (s : Nat) (f : Stack → Stack) : (d.modStk s f).loopFaults = d.loopFaults := rfl
@[simp] theorem modStk_stewardStep (s : Nat) (f : Stack → Stack) : (d.modStk s f).stewardStep = d.stewardStep := rfl
@[simp] theorem modStk_stewardTask (s : Nat) (f : Stack → Stack) : (d.modStk s f).stewardTask = d.stewardTask := rfl
@[simp] theorem modStk_handoff (s : Nat) (f : Stack → Stack) : (d.modStk s f).handoff = d.handoff := rfl
@[simp] theorem modStk_frames (s : Nat) (f : Stack → Stack) : (d.modStk s f).frames = d.frames := rfl
@[simp] theorem modStk_pools (s : Nat) (f : Stack → Stack) : (d.modStk s f).pools = d.pools := rfl
@[simp] theorem modStk_ptOps (s : Nat) (f : Stack → Stack) : (d.modStk s f).ptOps = d.ptOps := rfl
@[simp] theorem modStk_ptNext (s : Nat) (f : Stack → Stack) : (d.modStk s f).ptNext = d.ptNext := rfl
@[simp] theorem modStk_ptHeld (s : Nat) (f : Stack → Stack) : (d.modStk s f).ptHeld = d.ptHeld := rfl
@[simp] theorem modStk_drains (s : Nat) (f : Stack → Stack) : (d.modStk s f).drains = d.drains := rfl
@[simp] theorem modStk_lastPorter (s : Nat) (f : Stack → Stack) : (d.modStk s f).lastPorter = d.lastPorter := rfl
@[simp] theorem modStk_offSent (s : Nat) (f : Stack → Stack) : (d.modStk s f).offSent = d.offSent := rfl
@[simp] theorem modStk_offFetched (s : Nat) (f : Stack → Stack) : (d.modStk s f).offFetched = d.offFetched := rfl
@[simp] theorem modStk_homes (s : Nat) (f : Stack → Stack) : (d.modStk s f).homes = d.homes := rfl
@[simp] theorem modStk_moves (s : Nat) (f : Stack → Stack) : (d.modStk s f).moves = d.moves := rfl
@[simp] theorem modStk_losses (s : Nat) (f : Stack → Stack) : (d.modStk s f).losses = d.losses := rfl
@[simp] theorem modStk_badBlocks (s : Nat) (f : Stack → Stack) : (d.modStk s f).badBlocks = d.badBlocks := rfl
@[simp] theorem modStk_reloc (s : Nat) (f : Stack → Stack) : (d.modStk s f).reloc = d.reloc := rfl
@[simp] theorem modStk_intent (s : Nat) (f : Stack → Stack) : (d.modStk s f).intent = d.intent := rfl
@[simp] theorem modStk_repair (s : Nat) (f : Stack → Stack) : (d.modStk s f).repair = d.repair := rfl
@[simp] theorem modStk_ports (s : Nat) (f : Stack → Stack) : (d.modStk s f).ports = d.ports := rfl
@[simp] theorem modStk_fabric (s : Nat) (f : Stack → Stack) : (d.modStk s f).fabric = d.fabric := rfl
@[simp] theorem modStk_red (s : Nat) (f : Stack → Stack) : (d.modStk s f).red = d.red := rfl
@[simp] theorem modStk_banks (s : Nat) (f : Stack → Stack) : (d.modStk s f).banks = d.banks := rfl
@[simp] theorem modStk_redSubst (s : Nat) (f : Stack → Stack) : (d.modStk s f).redSubst = d.redSubst := rfl
@[simp] theorem modStk_redMismatch (s : Nat) (f : Stack → Stack) : (d.modStk s f).redMismatch = d.redMismatch := rfl
@[simp] theorem modStk_health (s : Nat) (f : Stack → Stack) : (d.modStk s f).health = d.health := rfl
@[simp] theorem modStk_replayStat (s : Nat) (f : Stack → Stack) : (d.modStk s f).replayStat = d.replayStat := rfl
@[simp] theorem modStk_codecs (s : Nat) (f : Stack → Stack) : (d.modStk s f).codecs = d.codecs := rfl
@[simp] theorem modChan_grade (s x : Nat) (f : Chan → Chan) : (d.modChan s x f).grade = d.grade := rfl
@[simp] theorem modChan_wall (s x : Nat) (f : Chan → Chan) : (d.modChan s x f).wall = d.wall := rfl
@[simp] theorem modChan_freeIdx (s x : Nat) (f : Chan → Chan) : (d.modChan s x f).freeIdx = d.freeIdx := rfl
@[simp] theorem modChan_readData (s x : Nat) (f : Chan → Chan) : (d.modChan s x f).readData = d.readData := rfl
@[simp] theorem modChan_logged (s x : Nat) (f : Chan → Chan) : (d.modChan s x f).logged = d.logged := rfl
@[simp] theorem modChan_cfg (s x : Nat) (f : Chan → Chan) : (d.modChan s x f).cfg = d.cfg := rfl
@[simp] theorem modChan_evt (s x : Nat) (f : Chan → Chan) : (d.modChan s x f).evt = d.evt := rfl
@[simp] theorem modChan_err (s x : Nat) (f : Chan → Chan) : (d.modChan s x f).err = d.err := rfl
@[simp] theorem modChan_clusters (s x : Nat) (f : Chan → Chan) : (d.modChan s x f).clusters = d.clusters := rfl
@[simp] theorem modChan_shape (s x : Nat) (f : Chan → Chan) : (d.modChan s x f).shape = d.shape := rfl
@[simp] theorem modChan_criers (s x : Nat) (f : Chan → Chan) : (d.modChan s x f).criers = d.criers := rfl
@[simp] theorem modChan_lease (s x : Nat) (f : Chan → Chan) : (d.modChan s x f).lease = d.lease := rfl
@[simp] theorem modChan_fw (s x : Nat) (f : Chan → Chan) : (d.modChan s x f).fw = d.fw := rfl
@[simp] theorem modChan_awning (s x : Nat) (f : Chan → Chan) : (d.modChan s x f).awning = d.awning := rfl
@[simp] theorem modChan_ledger (s x : Nat) (f : Chan → Chan) : (d.modChan s x f).ledger = d.ledger := rfl
@[simp] theorem modChan_pwr (s x : Nat) (f : Chan → Chan) : (d.modChan s x f).pwr = d.pwr := rfl
@[simp] theorem modChan_sec (s x : Nat) (f : Chan → Chan) : (d.modChan s x f).sec = d.sec := rfl
@[simp] theorem modChan_tills (s x : Nat) (f : Chan → Chan) : (d.modChan s x f).tills = d.tills := rfl
@[simp] theorem modChan_host (s x : Nat) (f : Chan → Chan) : (d.modChan s x f).host = d.host := rfl
@[simp] theorem modChan_seq (s x : Nat) (f : Chan → Chan) : (d.modChan s x f).seq = d.seq := rfl
@[simp] theorem modChan_ctxs (s x : Nat) (f : Chan → Chan) : (d.modChan s x f).ctxs = d.ctxs := rfl
@[simp] theorem modChan_cores (s x : Nat) (f : Chan → Chan) : (d.modChan s x f).cores = d.cores := rfl
@[simp] theorem modChan_mem (s x : Nat) (f : Chan → Chan) : (d.modChan s x f).mem = d.mem := rfl
@[simp] theorem modChan_badSram (s x : Nat) (f : Chan → Chan) : (d.modChan s x f).badSram = d.badSram := rfl
@[simp] theorem modChan_veil (s x : Nat) (f : Chan → Chan) : (d.modChan s x f).veil = d.veil := rfl
@[simp] theorem modChan_waiting (s x : Nat) (f : Chan → Chan) : (d.modChan s x f).waiting = d.waiting := rfl
@[simp] theorem modChan_accHeld (s x : Nat) (f : Chan → Chan) : (d.modChan s x f).accHeld = d.accHeld := rfl
@[simp] theorem modChan_loopFaults (s x : Nat) (f : Chan → Chan) : (d.modChan s x f).loopFaults = d.loopFaults := rfl
@[simp] theorem modChan_stewardStep (s x : Nat) (f : Chan → Chan) : (d.modChan s x f).stewardStep = d.stewardStep := rfl
@[simp] theorem modChan_stewardTask (s x : Nat) (f : Chan → Chan) : (d.modChan s x f).stewardTask = d.stewardTask := rfl
@[simp] theorem modChan_handoff (s x : Nat) (f : Chan → Chan) : (d.modChan s x f).handoff = d.handoff := rfl
@[simp] theorem modChan_frames (s x : Nat) (f : Chan → Chan) : (d.modChan s x f).frames = d.frames := rfl
@[simp] theorem modChan_pools (s x : Nat) (f : Chan → Chan) : (d.modChan s x f).pools = d.pools := rfl
@[simp] theorem modChan_ptOps (s x : Nat) (f : Chan → Chan) : (d.modChan s x f).ptOps = d.ptOps := rfl
@[simp] theorem modChan_ptNext (s x : Nat) (f : Chan → Chan) : (d.modChan s x f).ptNext = d.ptNext := rfl
@[simp] theorem modChan_ptHeld (s x : Nat) (f : Chan → Chan) : (d.modChan s x f).ptHeld = d.ptHeld := rfl
@[simp] theorem modChan_drains (s x : Nat) (f : Chan → Chan) : (d.modChan s x f).drains = d.drains := rfl
@[simp] theorem modChan_lastPorter (s x : Nat) (f : Chan → Chan) : (d.modChan s x f).lastPorter = d.lastPorter := rfl
@[simp] theorem modChan_offSent (s x : Nat) (f : Chan → Chan) : (d.modChan s x f).offSent = d.offSent := rfl
@[simp] theorem modChan_offFetched (s x : Nat) (f : Chan → Chan) : (d.modChan s x f).offFetched = d.offFetched := rfl
@[simp] theorem modChan_homes (s x : Nat) (f : Chan → Chan) : (d.modChan s x f).homes = d.homes := rfl
@[simp] theorem modChan_moves (s x : Nat) (f : Chan → Chan) : (d.modChan s x f).moves = d.moves := rfl
@[simp] theorem modChan_losses (s x : Nat) (f : Chan → Chan) : (d.modChan s x f).losses = d.losses := rfl
@[simp] theorem modChan_badBlocks (s x : Nat) (f : Chan → Chan) : (d.modChan s x f).badBlocks = d.badBlocks := rfl
@[simp] theorem modChan_reloc (s x : Nat) (f : Chan → Chan) : (d.modChan s x f).reloc = d.reloc := rfl
@[simp] theorem modChan_intent (s x : Nat) (f : Chan → Chan) : (d.modChan s x f).intent = d.intent := rfl
@[simp] theorem modChan_repair (s x : Nat) (f : Chan → Chan) : (d.modChan s x f).repair = d.repair := rfl
@[simp] theorem modChan_ports (s x : Nat) (f : Chan → Chan) : (d.modChan s x f).ports = d.ports := rfl
@[simp] theorem modChan_fabric (s x : Nat) (f : Chan → Chan) : (d.modChan s x f).fabric = d.fabric := rfl
@[simp] theorem modChan_red (s x : Nat) (f : Chan → Chan) : (d.modChan s x f).red = d.red := rfl
@[simp] theorem modChan_banks (s x : Nat) (f : Chan → Chan) : (d.modChan s x f).banks = d.banks := rfl
@[simp] theorem modChan_redSubst (s x : Nat) (f : Chan → Chan) : (d.modChan s x f).redSubst = d.redSubst := rfl
@[simp] theorem modChan_redMismatch (s x : Nat) (f : Chan → Chan) : (d.modChan s x f).redMismatch = d.redMismatch := rfl
@[simp] theorem modChan_health (s x : Nat) (f : Chan → Chan) : (d.modChan s x f).health = d.health := rfl
@[simp] theorem modChan_replayStat (s x : Nat) (f : Chan → Chan) : (d.modChan s x f).replayStat = d.replayStat := rfl
@[simp] theorem modChan_codecs (s x : Nat) (f : Chan → Chan) : (d.modChan s x f).codecs = d.codecs := rfl
@[simp] theorem modCore_grade (c : Nat) (f : Core → Core) : (d.modCore c f).grade = d.grade := rfl
@[simp] theorem modCore_wall (c : Nat) (f : Core → Core) : (d.modCore c f).wall = d.wall := rfl
@[simp] theorem modCore_freeIdx (c : Nat) (f : Core → Core) : (d.modCore c f).freeIdx = d.freeIdx := rfl
@[simp] theorem modCore_readData (c : Nat) (f : Core → Core) : (d.modCore c f).readData = d.readData := rfl
@[simp] theorem modCore_logged (c : Nat) (f : Core → Core) : (d.modCore c f).logged = d.logged := rfl
@[simp] theorem modCore_cfg (c : Nat) (f : Core → Core) : (d.modCore c f).cfg = d.cfg := rfl
@[simp] theorem modCore_evt (c : Nat) (f : Core → Core) : (d.modCore c f).evt = d.evt := rfl
@[simp] theorem modCore_err (c : Nat) (f : Core → Core) : (d.modCore c f).err = d.err := rfl
@[simp] theorem modCore_clusters (c : Nat) (f : Core → Core) : (d.modCore c f).clusters = d.clusters := rfl
@[simp] theorem modCore_shape (c : Nat) (f : Core → Core) : (d.modCore c f).shape = d.shape := rfl
@[simp] theorem modCore_criers (c : Nat) (f : Core → Core) : (d.modCore c f).criers = d.criers := rfl
@[simp] theorem modCore_lease (c : Nat) (f : Core → Core) : (d.modCore c f).lease = d.lease := rfl
@[simp] theorem modCore_fw (c : Nat) (f : Core → Core) : (d.modCore c f).fw = d.fw := rfl
@[simp] theorem modCore_awning (c : Nat) (f : Core → Core) : (d.modCore c f).awning = d.awning := rfl
@[simp] theorem modCore_ledger (c : Nat) (f : Core → Core) : (d.modCore c f).ledger = d.ledger := rfl
@[simp] theorem modCore_pwr (c : Nat) (f : Core → Core) : (d.modCore c f).pwr = d.pwr := rfl
@[simp] theorem modCore_sec (c : Nat) (f : Core → Core) : (d.modCore c f).sec = d.sec := rfl
@[simp] theorem modCore_tills (c : Nat) (f : Core → Core) : (d.modCore c f).tills = d.tills := rfl
@[simp] theorem modCore_host (c : Nat) (f : Core → Core) : (d.modCore c f).host = d.host := rfl
@[simp] theorem modCore_seq (c : Nat) (f : Core → Core) : (d.modCore c f).seq = d.seq := rfl
@[simp] theorem modCore_ctxs (c : Nat) (f : Core → Core) : (d.modCore c f).ctxs = d.ctxs := rfl
@[simp] theorem modCore_mem (c : Nat) (f : Core → Core) : (d.modCore c f).mem = d.mem := rfl
@[simp] theorem modCore_badSram (c : Nat) (f : Core → Core) : (d.modCore c f).badSram = d.badSram := rfl
@[simp] theorem modCore_veil (c : Nat) (f : Core → Core) : (d.modCore c f).veil = d.veil := rfl
@[simp] theorem modCore_waiting (c : Nat) (f : Core → Core) : (d.modCore c f).waiting = d.waiting := rfl
@[simp] theorem modCore_accHeld (c : Nat) (f : Core → Core) : (d.modCore c f).accHeld = d.accHeld := rfl
@[simp] theorem modCore_loopFaults (c : Nat) (f : Core → Core) : (d.modCore c f).loopFaults = d.loopFaults := rfl
@[simp] theorem modCore_stewardStep (c : Nat) (f : Core → Core) : (d.modCore c f).stewardStep = d.stewardStep := rfl
@[simp] theorem modCore_stewardTask (c : Nat) (f : Core → Core) : (d.modCore c f).stewardTask = d.stewardTask := rfl
@[simp] theorem modCore_handoff (c : Nat) (f : Core → Core) : (d.modCore c f).handoff = d.handoff := rfl
@[simp] theorem modCore_frames (c : Nat) (f : Core → Core) : (d.modCore c f).frames = d.frames := rfl
@[simp] theorem modCore_pools (c : Nat) (f : Core → Core) : (d.modCore c f).pools = d.pools := rfl
@[simp] theorem modCore_ptOps (c : Nat) (f : Core → Core) : (d.modCore c f).ptOps = d.ptOps := rfl
@[simp] theorem modCore_ptNext (c : Nat) (f : Core → Core) : (d.modCore c f).ptNext = d.ptNext := rfl
@[simp] theorem modCore_ptHeld (c : Nat) (f : Core → Core) : (d.modCore c f).ptHeld = d.ptHeld := rfl
@[simp] theorem modCore_drains (c : Nat) (f : Core → Core) : (d.modCore c f).drains = d.drains := rfl
@[simp] theorem modCore_lastPorter (c : Nat) (f : Core → Core) : (d.modCore c f).lastPorter = d.lastPorter := rfl
@[simp] theorem modCore_offSent (c : Nat) (f : Core → Core) : (d.modCore c f).offSent = d.offSent := rfl
@[simp] theorem modCore_offFetched (c : Nat) (f : Core → Core) : (d.modCore c f).offFetched = d.offFetched := rfl
@[simp] theorem modCore_homes (c : Nat) (f : Core → Core) : (d.modCore c f).homes = d.homes := rfl
@[simp] theorem modCore_moves (c : Nat) (f : Core → Core) : (d.modCore c f).moves = d.moves := rfl
@[simp] theorem modCore_stks (c : Nat) (f : Core → Core) : (d.modCore c f).stks = d.stks := rfl
@[simp] theorem modCore_losses (c : Nat) (f : Core → Core) : (d.modCore c f).losses = d.losses := rfl
@[simp] theorem modCore_badBlocks (c : Nat) (f : Core → Core) : (d.modCore c f).badBlocks = d.badBlocks := rfl
@[simp] theorem modCore_reloc (c : Nat) (f : Core → Core) : (d.modCore c f).reloc = d.reloc := rfl
@[simp] theorem modCore_intent (c : Nat) (f : Core → Core) : (d.modCore c f).intent = d.intent := rfl
@[simp] theorem modCore_repair (c : Nat) (f : Core → Core) : (d.modCore c f).repair = d.repair := rfl
@[simp] theorem modCore_ports (c : Nat) (f : Core → Core) : (d.modCore c f).ports = d.ports := rfl
@[simp] theorem modCore_fabric (c : Nat) (f : Core → Core) : (d.modCore c f).fabric = d.fabric := rfl
@[simp] theorem modCore_red (c : Nat) (f : Core → Core) : (d.modCore c f).red = d.red := rfl
@[simp] theorem modCore_banks (c : Nat) (f : Core → Core) : (d.modCore c f).banks = d.banks := rfl
@[simp] theorem modCore_redSubst (c : Nat) (f : Core → Core) : (d.modCore c f).redSubst = d.redSubst := rfl
@[simp] theorem modCore_redMismatch (c : Nat) (f : Core → Core) : (d.modCore c f).redMismatch = d.redMismatch := rfl
@[simp] theorem modCore_health (c : Nat) (f : Core → Core) : (d.modCore c f).health = d.health := rfl
@[simp] theorem modCore_replayStat (c : Nat) (f : Core → Core) : (d.modCore c f).replayStat = d.replayStat := rfl
@[simp] theorem modCore_codecs (c : Nat) (f : Core → Core) : (d.modCore c f).codecs = d.codecs := rfl
@[simp] theorem modCtxSlot_grade (t : CtxId) (k : Nat) (f : CtxSlot → CtxSlot) : (d.modCtxSlot t k f).grade = d.grade := rfl
@[simp] theorem modCtxSlot_wall (t : CtxId) (k : Nat) (f : CtxSlot → CtxSlot) : (d.modCtxSlot t k f).wall = d.wall := rfl
@[simp] theorem modCtxSlot_freeIdx (t : CtxId) (k : Nat) (f : CtxSlot → CtxSlot) : (d.modCtxSlot t k f).freeIdx = d.freeIdx := rfl
@[simp] theorem modCtxSlot_readData (t : CtxId) (k : Nat) (f : CtxSlot → CtxSlot) : (d.modCtxSlot t k f).readData = d.readData := rfl
@[simp] theorem modCtxSlot_logged (t : CtxId) (k : Nat) (f : CtxSlot → CtxSlot) : (d.modCtxSlot t k f).logged = d.logged := rfl
@[simp] theorem modCtxSlot_cfg (t : CtxId) (k : Nat) (f : CtxSlot → CtxSlot) : (d.modCtxSlot t k f).cfg = d.cfg := rfl
@[simp] theorem modCtxSlot_evt (t : CtxId) (k : Nat) (f : CtxSlot → CtxSlot) : (d.modCtxSlot t k f).evt = d.evt := rfl
@[simp] theorem modCtxSlot_err (t : CtxId) (k : Nat) (f : CtxSlot → CtxSlot) : (d.modCtxSlot t k f).err = d.err := rfl
@[simp] theorem modCtxSlot_clusters (t : CtxId) (k : Nat) (f : CtxSlot → CtxSlot) : (d.modCtxSlot t k f).clusters = d.clusters := rfl
@[simp] theorem modCtxSlot_shape (t : CtxId) (k : Nat) (f : CtxSlot → CtxSlot) : (d.modCtxSlot t k f).shape = d.shape := rfl
@[simp] theorem modCtxSlot_criers (t : CtxId) (k : Nat) (f : CtxSlot → CtxSlot) : (d.modCtxSlot t k f).criers = d.criers := rfl
@[simp] theorem modCtxSlot_lease (t : CtxId) (k : Nat) (f : CtxSlot → CtxSlot) : (d.modCtxSlot t k f).lease = d.lease := rfl
@[simp] theorem modCtxSlot_fw (t : CtxId) (k : Nat) (f : CtxSlot → CtxSlot) : (d.modCtxSlot t k f).fw = d.fw := rfl
@[simp] theorem modCtxSlot_awning (t : CtxId) (k : Nat) (f : CtxSlot → CtxSlot) : (d.modCtxSlot t k f).awning = d.awning := rfl
@[simp] theorem modCtxSlot_ledger (t : CtxId) (k : Nat) (f : CtxSlot → CtxSlot) : (d.modCtxSlot t k f).ledger = d.ledger := rfl
@[simp] theorem modCtxSlot_pwr (t : CtxId) (k : Nat) (f : CtxSlot → CtxSlot) : (d.modCtxSlot t k f).pwr = d.pwr := rfl
@[simp] theorem modCtxSlot_sec (t : CtxId) (k : Nat) (f : CtxSlot → CtxSlot) : (d.modCtxSlot t k f).sec = d.sec := rfl
@[simp] theorem modCtxSlot_tills (t : CtxId) (k : Nat) (f : CtxSlot → CtxSlot) : (d.modCtxSlot t k f).tills = d.tills := rfl
@[simp] theorem modCtxSlot_host (t : CtxId) (k : Nat) (f : CtxSlot → CtxSlot) : (d.modCtxSlot t k f).host = d.host := rfl
@[simp] theorem modCtxSlot_seq (t : CtxId) (k : Nat) (f : CtxSlot → CtxSlot) : (d.modCtxSlot t k f).seq = d.seq := rfl
@[simp] theorem modCtxSlot_cores (t : CtxId) (k : Nat) (f : CtxSlot → CtxSlot) : (d.modCtxSlot t k f).cores = d.cores := rfl
@[simp] theorem modCtxSlot_mem (t : CtxId) (k : Nat) (f : CtxSlot → CtxSlot) : (d.modCtxSlot t k f).mem = d.mem := rfl
@[simp] theorem modCtxSlot_badSram (t : CtxId) (k : Nat) (f : CtxSlot → CtxSlot) : (d.modCtxSlot t k f).badSram = d.badSram := rfl
@[simp] theorem modCtxSlot_veil (t : CtxId) (k : Nat) (f : CtxSlot → CtxSlot) : (d.modCtxSlot t k f).veil = d.veil := rfl
@[simp] theorem modCtxSlot_waiting (t : CtxId) (k : Nat) (f : CtxSlot → CtxSlot) : (d.modCtxSlot t k f).waiting = d.waiting := rfl
@[simp] theorem modCtxSlot_accHeld (t : CtxId) (k : Nat) (f : CtxSlot → CtxSlot) : (d.modCtxSlot t k f).accHeld = d.accHeld := rfl
@[simp] theorem modCtxSlot_loopFaults (t : CtxId) (k : Nat) (f : CtxSlot → CtxSlot) : (d.modCtxSlot t k f).loopFaults = d.loopFaults := rfl
@[simp] theorem modCtxSlot_stewardStep (t : CtxId) (k : Nat) (f : CtxSlot → CtxSlot) : (d.modCtxSlot t k f).stewardStep = d.stewardStep := rfl
@[simp] theorem modCtxSlot_stewardTask (t : CtxId) (k : Nat) (f : CtxSlot → CtxSlot) : (d.modCtxSlot t k f).stewardTask = d.stewardTask := rfl
@[simp] theorem modCtxSlot_handoff (t : CtxId) (k : Nat) (f : CtxSlot → CtxSlot) : (d.modCtxSlot t k f).handoff = d.handoff := rfl
@[simp] theorem modCtxSlot_frames (t : CtxId) (k : Nat) (f : CtxSlot → CtxSlot) : (d.modCtxSlot t k f).frames = d.frames := rfl
@[simp] theorem modCtxSlot_pools (t : CtxId) (k : Nat) (f : CtxSlot → CtxSlot) : (d.modCtxSlot t k f).pools = d.pools := rfl
@[simp] theorem modCtxSlot_ptOps (t : CtxId) (k : Nat) (f : CtxSlot → CtxSlot) : (d.modCtxSlot t k f).ptOps = d.ptOps := rfl
@[simp] theorem modCtxSlot_ptNext (t : CtxId) (k : Nat) (f : CtxSlot → CtxSlot) : (d.modCtxSlot t k f).ptNext = d.ptNext := rfl
@[simp] theorem modCtxSlot_ptHeld (t : CtxId) (k : Nat) (f : CtxSlot → CtxSlot) : (d.modCtxSlot t k f).ptHeld = d.ptHeld := rfl
@[simp] theorem modCtxSlot_drains (t : CtxId) (k : Nat) (f : CtxSlot → CtxSlot) : (d.modCtxSlot t k f).drains = d.drains := rfl
@[simp] theorem modCtxSlot_lastPorter (t : CtxId) (k : Nat) (f : CtxSlot → CtxSlot) : (d.modCtxSlot t k f).lastPorter = d.lastPorter := rfl
@[simp] theorem modCtxSlot_offSent (t : CtxId) (k : Nat) (f : CtxSlot → CtxSlot) : (d.modCtxSlot t k f).offSent = d.offSent := rfl
@[simp] theorem modCtxSlot_offFetched (t : CtxId) (k : Nat) (f : CtxSlot → CtxSlot) : (d.modCtxSlot t k f).offFetched = d.offFetched := rfl
@[simp] theorem modCtxSlot_homes (t : CtxId) (k : Nat) (f : CtxSlot → CtxSlot) : (d.modCtxSlot t k f).homes = d.homes := rfl
@[simp] theorem modCtxSlot_moves (t : CtxId) (k : Nat) (f : CtxSlot → CtxSlot) : (d.modCtxSlot t k f).moves = d.moves := rfl
@[simp] theorem modCtxSlot_stks (t : CtxId) (k : Nat) (f : CtxSlot → CtxSlot) : (d.modCtxSlot t k f).stks = d.stks := rfl
@[simp] theorem modCtxSlot_losses (t : CtxId) (k : Nat) (f : CtxSlot → CtxSlot) : (d.modCtxSlot t k f).losses = d.losses := rfl
@[simp] theorem modCtxSlot_badBlocks (t : CtxId) (k : Nat) (f : CtxSlot → CtxSlot) : (d.modCtxSlot t k f).badBlocks = d.badBlocks := rfl
@[simp] theorem modCtxSlot_reloc (t : CtxId) (k : Nat) (f : CtxSlot → CtxSlot) : (d.modCtxSlot t k f).reloc = d.reloc := rfl
@[simp] theorem modCtxSlot_intent (t : CtxId) (k : Nat) (f : CtxSlot → CtxSlot) : (d.modCtxSlot t k f).intent = d.intent := rfl
@[simp] theorem modCtxSlot_repair (t : CtxId) (k : Nat) (f : CtxSlot → CtxSlot) : (d.modCtxSlot t k f).repair = d.repair := rfl
@[simp] theorem modCtxSlot_ports (t : CtxId) (k : Nat) (f : CtxSlot → CtxSlot) : (d.modCtxSlot t k f).ports = d.ports := rfl
@[simp] theorem modCtxSlot_fabric (t : CtxId) (k : Nat) (f : CtxSlot → CtxSlot) : (d.modCtxSlot t k f).fabric = d.fabric := rfl
@[simp] theorem modCtxSlot_red (t : CtxId) (k : Nat) (f : CtxSlot → CtxSlot) : (d.modCtxSlot t k f).red = d.red := rfl
@[simp] theorem modCtxSlot_banks (t : CtxId) (k : Nat) (f : CtxSlot → CtxSlot) : (d.modCtxSlot t k f).banks = d.banks := rfl
@[simp] theorem modCtxSlot_redSubst (t : CtxId) (k : Nat) (f : CtxSlot → CtxSlot) : (d.modCtxSlot t k f).redSubst = d.redSubst := rfl
@[simp] theorem modCtxSlot_redMismatch (t : CtxId) (k : Nat) (f : CtxSlot → CtxSlot) : (d.modCtxSlot t k f).redMismatch = d.redMismatch := rfl
@[simp] theorem modCtxSlot_health (t : CtxId) (k : Nat) (f : CtxSlot → CtxSlot) : (d.modCtxSlot t k f).health = d.health := rfl
@[simp] theorem modCtxSlot_replayStat (t : CtxId) (k : Nat) (f : CtxSlot → CtxSlot) : (d.modCtxSlot t k f).replayStat = d.replayStat := rfl
@[simp] theorem modCtxSlot_codecs (t : CtxId) (k : Nat) (f : CtxSlot → CtxSlot) : (d.modCtxSlot t k f).codecs = d.codecs := rfl
@[simp] theorem modHost_grade (f : HostIf → HostIf) : (d.modHost f).grade = d.grade := rfl
@[simp] theorem modHost_wall (f : HostIf → HostIf) : (d.modHost f).wall = d.wall := rfl
@[simp] theorem modHost_freeIdx (f : HostIf → HostIf) : (d.modHost f).freeIdx = d.freeIdx := rfl
@[simp] theorem modHost_readData (f : HostIf → HostIf) : (d.modHost f).readData = d.readData := rfl
@[simp] theorem modHost_logged (f : HostIf → HostIf) : (d.modHost f).logged = d.logged := rfl
@[simp] theorem modHost_cfg (f : HostIf → HostIf) : (d.modHost f).cfg = d.cfg := rfl
@[simp] theorem modHost_evt (f : HostIf → HostIf) : (d.modHost f).evt = d.evt := rfl
@[simp] theorem modHost_err (f : HostIf → HostIf) : (d.modHost f).err = d.err := rfl
@[simp] theorem modHost_clusters (f : HostIf → HostIf) : (d.modHost f).clusters = d.clusters := rfl
@[simp] theorem modHost_shape (f : HostIf → HostIf) : (d.modHost f).shape = d.shape := rfl
@[simp] theorem modHost_criers (f : HostIf → HostIf) : (d.modHost f).criers = d.criers := rfl
@[simp] theorem modHost_lease (f : HostIf → HostIf) : (d.modHost f).lease = d.lease := rfl
@[simp] theorem modHost_fw (f : HostIf → HostIf) : (d.modHost f).fw = d.fw := rfl
@[simp] theorem modHost_awning (f : HostIf → HostIf) : (d.modHost f).awning = d.awning := rfl
@[simp] theorem modHost_ledger (f : HostIf → HostIf) : (d.modHost f).ledger = d.ledger := rfl
@[simp] theorem modHost_pwr (f : HostIf → HostIf) : (d.modHost f).pwr = d.pwr := rfl
@[simp] theorem modHost_sec (f : HostIf → HostIf) : (d.modHost f).sec = d.sec := rfl
@[simp] theorem modHost_tills (f : HostIf → HostIf) : (d.modHost f).tills = d.tills := rfl
@[simp] theorem modHost_seq (f : HostIf → HostIf) : (d.modHost f).seq = d.seq := rfl
@[simp] theorem modHost_ctxs (f : HostIf → HostIf) : (d.modHost f).ctxs = d.ctxs := rfl
@[simp] theorem modHost_cores (f : HostIf → HostIf) : (d.modHost f).cores = d.cores := rfl
@[simp] theorem modHost_mem (f : HostIf → HostIf) : (d.modHost f).mem = d.mem := rfl
@[simp] theorem modHost_badSram (f : HostIf → HostIf) : (d.modHost f).badSram = d.badSram := rfl
@[simp] theorem modHost_veil (f : HostIf → HostIf) : (d.modHost f).veil = d.veil := rfl
@[simp] theorem modHost_waiting (f : HostIf → HostIf) : (d.modHost f).waiting = d.waiting := rfl
@[simp] theorem modHost_accHeld (f : HostIf → HostIf) : (d.modHost f).accHeld = d.accHeld := rfl
@[simp] theorem modHost_loopFaults (f : HostIf → HostIf) : (d.modHost f).loopFaults = d.loopFaults := rfl
@[simp] theorem modHost_stewardStep (f : HostIf → HostIf) : (d.modHost f).stewardStep = d.stewardStep := rfl
@[simp] theorem modHost_stewardTask (f : HostIf → HostIf) : (d.modHost f).stewardTask = d.stewardTask := rfl
@[simp] theorem modHost_handoff (f : HostIf → HostIf) : (d.modHost f).handoff = d.handoff := rfl
@[simp] theorem modHost_frames (f : HostIf → HostIf) : (d.modHost f).frames = d.frames := rfl
@[simp] theorem modHost_pools (f : HostIf → HostIf) : (d.modHost f).pools = d.pools := rfl
@[simp] theorem modHost_ptOps (f : HostIf → HostIf) : (d.modHost f).ptOps = d.ptOps := rfl
@[simp] theorem modHost_ptNext (f : HostIf → HostIf) : (d.modHost f).ptNext = d.ptNext := rfl
@[simp] theorem modHost_ptHeld (f : HostIf → HostIf) : (d.modHost f).ptHeld = d.ptHeld := rfl
@[simp] theorem modHost_drains (f : HostIf → HostIf) : (d.modHost f).drains = d.drains := rfl
@[simp] theorem modHost_lastPorter (f : HostIf → HostIf) : (d.modHost f).lastPorter = d.lastPorter := rfl
@[simp] theorem modHost_offSent (f : HostIf → HostIf) : (d.modHost f).offSent = d.offSent := rfl
@[simp] theorem modHost_offFetched (f : HostIf → HostIf) : (d.modHost f).offFetched = d.offFetched := rfl
@[simp] theorem modHost_homes (f : HostIf → HostIf) : (d.modHost f).homes = d.homes := rfl
@[simp] theorem modHost_moves (f : HostIf → HostIf) : (d.modHost f).moves = d.moves := rfl
@[simp] theorem modHost_stks (f : HostIf → HostIf) : (d.modHost f).stks = d.stks := rfl
@[simp] theorem modHost_losses (f : HostIf → HostIf) : (d.modHost f).losses = d.losses := rfl
@[simp] theorem modHost_badBlocks (f : HostIf → HostIf) : (d.modHost f).badBlocks = d.badBlocks := rfl
@[simp] theorem modHost_reloc (f : HostIf → HostIf) : (d.modHost f).reloc = d.reloc := rfl
@[simp] theorem modHost_intent (f : HostIf → HostIf) : (d.modHost f).intent = d.intent := rfl
@[simp] theorem modHost_repair (f : HostIf → HostIf) : (d.modHost f).repair = d.repair := rfl
@[simp] theorem modHost_ports (f : HostIf → HostIf) : (d.modHost f).ports = d.ports := rfl
@[simp] theorem modHost_fabric (f : HostIf → HostIf) : (d.modHost f).fabric = d.fabric := rfl
@[simp] theorem modHost_red (f : HostIf → HostIf) : (d.modHost f).red = d.red := rfl
@[simp] theorem modHost_banks (f : HostIf → HostIf) : (d.modHost f).banks = d.banks := rfl
@[simp] theorem modHost_redSubst (f : HostIf → HostIf) : (d.modHost f).redSubst = d.redSubst := rfl
@[simp] theorem modHost_redMismatch (f : HostIf → HostIf) : (d.modHost f).redMismatch = d.redMismatch := rfl
@[simp] theorem modHost_health (f : HostIf → HostIf) : (d.modHost f).health = d.health := rfl
@[simp] theorem modHost_replayStat (f : HostIf → HostIf) : (d.modHost f).replayStat = d.replayStat := rfl
@[simp] theorem modHost_codecs (f : HostIf → HostIf) : (d.modHost f).codecs = d.codecs := rfl
@[simp] theorem wrByte_grade (a : Nat) (v : Byte) : (wrByte a v d).grade = d.grade := rfl
@[simp] theorem wrByte_wall (a : Nat) (v : Byte) : (wrByte a v d).wall = d.wall := rfl
@[simp] theorem wrByte_freeIdx (a : Nat) (v : Byte) : (wrByte a v d).freeIdx = d.freeIdx := rfl
@[simp] theorem wrByte_readData (a : Nat) (v : Byte) : (wrByte a v d).readData = d.readData := rfl
@[simp] theorem wrByte_logged (a : Nat) (v : Byte) : (wrByte a v d).logged = d.logged := rfl
@[simp] theorem wrByte_cfg (a : Nat) (v : Byte) : (wrByte a v d).cfg = d.cfg := rfl
@[simp] theorem wrByte_evt (a : Nat) (v : Byte) : (wrByte a v d).evt = d.evt := rfl
@[simp] theorem wrByte_err (a : Nat) (v : Byte) : (wrByte a v d).err = d.err := rfl
@[simp] theorem wrByte_clusters (a : Nat) (v : Byte) : (wrByte a v d).clusters = d.clusters := rfl
@[simp] theorem wrByte_shape (a : Nat) (v : Byte) : (wrByte a v d).shape = d.shape := rfl
@[simp] theorem wrByte_criers (a : Nat) (v : Byte) : (wrByte a v d).criers = d.criers := rfl
@[simp] theorem wrByte_lease (a : Nat) (v : Byte) : (wrByte a v d).lease = d.lease := rfl
@[simp] theorem wrByte_fw (a : Nat) (v : Byte) : (wrByte a v d).fw = d.fw := rfl
@[simp] theorem wrByte_awning (a : Nat) (v : Byte) : (wrByte a v d).awning = d.awning := rfl
@[simp] theorem wrByte_ledger (a : Nat) (v : Byte) : (wrByte a v d).ledger = d.ledger := rfl
@[simp] theorem wrByte_pwr (a : Nat) (v : Byte) : (wrByte a v d).pwr = d.pwr := rfl
@[simp] theorem wrByte_sec (a : Nat) (v : Byte) : (wrByte a v d).sec = d.sec := rfl
@[simp] theorem wrByte_tills (a : Nat) (v : Byte) : (wrByte a v d).tills = d.tills := rfl
@[simp] theorem wrByte_host (a : Nat) (v : Byte) : (wrByte a v d).host = d.host := rfl
@[simp] theorem wrByte_seq (a : Nat) (v : Byte) : (wrByte a v d).seq = d.seq := rfl
@[simp] theorem wrByte_ctxs (a : Nat) (v : Byte) : (wrByte a v d).ctxs = d.ctxs := rfl
@[simp] theorem wrByte_cores (a : Nat) (v : Byte) : (wrByte a v d).cores = d.cores := rfl
@[simp] theorem wrByte_badSram (a : Nat) (v : Byte) : (wrByte a v d).badSram = d.badSram := rfl
@[simp] theorem wrByte_veil (a : Nat) (v : Byte) : (wrByte a v d).veil = d.veil := rfl
@[simp] theorem wrByte_waiting (a : Nat) (v : Byte) : (wrByte a v d).waiting = d.waiting := rfl
@[simp] theorem wrByte_accHeld (a : Nat) (v : Byte) : (wrByte a v d).accHeld = d.accHeld := rfl
@[simp] theorem wrByte_loopFaults (a : Nat) (v : Byte) : (wrByte a v d).loopFaults = d.loopFaults := rfl
@[simp] theorem wrByte_stewardStep (a : Nat) (v : Byte) : (wrByte a v d).stewardStep = d.stewardStep := rfl
@[simp] theorem wrByte_stewardTask (a : Nat) (v : Byte) : (wrByte a v d).stewardTask = d.stewardTask := rfl
@[simp] theorem wrByte_handoff (a : Nat) (v : Byte) : (wrByte a v d).handoff = d.handoff := rfl
@[simp] theorem wrByte_frames (a : Nat) (v : Byte) : (wrByte a v d).frames = d.frames := rfl
@[simp] theorem wrByte_pools (a : Nat) (v : Byte) : (wrByte a v d).pools = d.pools := rfl
@[simp] theorem wrByte_ptOps (a : Nat) (v : Byte) : (wrByte a v d).ptOps = d.ptOps := rfl
@[simp] theorem wrByte_ptNext (a : Nat) (v : Byte) : (wrByte a v d).ptNext = d.ptNext := rfl
@[simp] theorem wrByte_ptHeld (a : Nat) (v : Byte) : (wrByte a v d).ptHeld = d.ptHeld := rfl
@[simp] theorem wrByte_drains (a : Nat) (v : Byte) : (wrByte a v d).drains = d.drains := rfl
@[simp] theorem wrByte_lastPorter (a : Nat) (v : Byte) : (wrByte a v d).lastPorter = d.lastPorter := rfl
@[simp] theorem wrByte_offSent (a : Nat) (v : Byte) : (wrByte a v d).offSent = d.offSent := rfl
@[simp] theorem wrByte_offFetched (a : Nat) (v : Byte) : (wrByte a v d).offFetched = d.offFetched := rfl
@[simp] theorem wrByte_homes (a : Nat) (v : Byte) : (wrByte a v d).homes = d.homes := rfl
@[simp] theorem wrByte_moves (a : Nat) (v : Byte) : (wrByte a v d).moves = d.moves := rfl
@[simp] theorem wrByte_stks (a : Nat) (v : Byte) : (wrByte a v d).stks = d.stks := rfl
@[simp] theorem wrByte_losses (a : Nat) (v : Byte) : (wrByte a v d).losses = d.losses := rfl
@[simp] theorem wrByte_badBlocks (a : Nat) (v : Byte) : (wrByte a v d).badBlocks = d.badBlocks := rfl
@[simp] theorem wrByte_reloc (a : Nat) (v : Byte) : (wrByte a v d).reloc = d.reloc := rfl
@[simp] theorem wrByte_intent (a : Nat) (v : Byte) : (wrByte a v d).intent = d.intent := rfl
@[simp] theorem wrByte_repair (a : Nat) (v : Byte) : (wrByte a v d).repair = d.repair := rfl
@[simp] theorem wrByte_ports (a : Nat) (v : Byte) : (wrByte a v d).ports = d.ports := rfl
@[simp] theorem wrByte_fabric (a : Nat) (v : Byte) : (wrByte a v d).fabric = d.fabric := rfl
@[simp] theorem wrByte_red (a : Nat) (v : Byte) : (wrByte a v d).red = d.red := rfl
@[simp] theorem wrByte_banks (a : Nat) (v : Byte) : (wrByte a v d).banks = d.banks := rfl
@[simp] theorem wrByte_redSubst (a : Nat) (v : Byte) : (wrByte a v d).redSubst = d.redSubst := rfl
@[simp] theorem wrByte_redMismatch (a : Nat) (v : Byte) : (wrByte a v d).redMismatch = d.redMismatch := rfl
@[simp] theorem wrByte_health (a : Nat) (v : Byte) : (wrByte a v d).health = d.health := rfl
@[simp] theorem wrByte_replayStat (a : Nat) (v : Byte) : (wrByte a v d).replayStat = d.replayStat := rfl
@[simp] theorem wrByte_codecs (a : Nat) (v : Byte) : (wrByte a v d).codecs = d.codecs := rfl
@[simp] theorem wrBytes_grade (a : Nat) (l : List Byte) : (wrBytes a l d).grade = d.grade := by rw [wrBytes_frame]
@[simp] theorem wrBytes_wall (a : Nat) (l : List Byte) : (wrBytes a l d).wall = d.wall := by rw [wrBytes_frame]
@[simp] theorem wrBytes_freeIdx (a : Nat) (l : List Byte) : (wrBytes a l d).freeIdx = d.freeIdx := by rw [wrBytes_frame]
@[simp] theorem wrBytes_readData (a : Nat) (l : List Byte) : (wrBytes a l d).readData = d.readData := by rw [wrBytes_frame]
@[simp] theorem wrBytes_logged (a : Nat) (l : List Byte) : (wrBytes a l d).logged = d.logged := by rw [wrBytes_frame]
@[simp] theorem wrBytes_cfg (a : Nat) (l : List Byte) : (wrBytes a l d).cfg = d.cfg := by rw [wrBytes_frame]
@[simp] theorem wrBytes_evt (a : Nat) (l : List Byte) : (wrBytes a l d).evt = d.evt := by rw [wrBytes_frame]
@[simp] theorem wrBytes_err (a : Nat) (l : List Byte) : (wrBytes a l d).err = d.err := by rw [wrBytes_frame]
@[simp] theorem wrBytes_clusters (a : Nat) (l : List Byte) : (wrBytes a l d).clusters = d.clusters := by rw [wrBytes_frame]
@[simp] theorem wrBytes_shape (a : Nat) (l : List Byte) : (wrBytes a l d).shape = d.shape := by rw [wrBytes_frame]
@[simp] theorem wrBytes_criers (a : Nat) (l : List Byte) : (wrBytes a l d).criers = d.criers := by rw [wrBytes_frame]
@[simp] theorem wrBytes_lease (a : Nat) (l : List Byte) : (wrBytes a l d).lease = d.lease := by rw [wrBytes_frame]
@[simp] theorem wrBytes_fw (a : Nat) (l : List Byte) : (wrBytes a l d).fw = d.fw := by rw [wrBytes_frame]
@[simp] theorem wrBytes_awning (a : Nat) (l : List Byte) : (wrBytes a l d).awning = d.awning := by rw [wrBytes_frame]
@[simp] theorem wrBytes_ledger (a : Nat) (l : List Byte) : (wrBytes a l d).ledger = d.ledger := by rw [wrBytes_frame]
@[simp] theorem wrBytes_pwr (a : Nat) (l : List Byte) : (wrBytes a l d).pwr = d.pwr := by rw [wrBytes_frame]
@[simp] theorem wrBytes_sec (a : Nat) (l : List Byte) : (wrBytes a l d).sec = d.sec := by rw [wrBytes_frame]
@[simp] theorem wrBytes_tills (a : Nat) (l : List Byte) : (wrBytes a l d).tills = d.tills := by rw [wrBytes_frame]
@[simp] theorem wrBytes_host (a : Nat) (l : List Byte) : (wrBytes a l d).host = d.host := by rw [wrBytes_frame]
@[simp] theorem wrBytes_seq (a : Nat) (l : List Byte) : (wrBytes a l d).seq = d.seq := by rw [wrBytes_frame]
@[simp] theorem wrBytes_ctxs (a : Nat) (l : List Byte) : (wrBytes a l d).ctxs = d.ctxs := by rw [wrBytes_frame]
@[simp] theorem wrBytes_cores (a : Nat) (l : List Byte) : (wrBytes a l d).cores = d.cores := by rw [wrBytes_frame]
@[simp] theorem wrBytes_badSram (a : Nat) (l : List Byte) : (wrBytes a l d).badSram = d.badSram := by rw [wrBytes_frame]
@[simp] theorem wrBytes_veil (a : Nat) (l : List Byte) : (wrBytes a l d).veil = d.veil := by rw [wrBytes_frame]
@[simp] theorem wrBytes_waiting (a : Nat) (l : List Byte) : (wrBytes a l d).waiting = d.waiting := by rw [wrBytes_frame]
@[simp] theorem wrBytes_accHeld (a : Nat) (l : List Byte) : (wrBytes a l d).accHeld = d.accHeld := by rw [wrBytes_frame]
@[simp] theorem wrBytes_loopFaults (a : Nat) (l : List Byte) : (wrBytes a l d).loopFaults = d.loopFaults := by rw [wrBytes_frame]
@[simp] theorem wrBytes_stewardStep (a : Nat) (l : List Byte) : (wrBytes a l d).stewardStep = d.stewardStep := by rw [wrBytes_frame]
@[simp] theorem wrBytes_stewardTask (a : Nat) (l : List Byte) : (wrBytes a l d).stewardTask = d.stewardTask := by rw [wrBytes_frame]
@[simp] theorem wrBytes_handoff (a : Nat) (l : List Byte) : (wrBytes a l d).handoff = d.handoff := by rw [wrBytes_frame]
@[simp] theorem wrBytes_frames (a : Nat) (l : List Byte) : (wrBytes a l d).frames = d.frames := by rw [wrBytes_frame]
@[simp] theorem wrBytes_pools (a : Nat) (l : List Byte) : (wrBytes a l d).pools = d.pools := by rw [wrBytes_frame]
@[simp] theorem wrBytes_ptOps (a : Nat) (l : List Byte) : (wrBytes a l d).ptOps = d.ptOps := by rw [wrBytes_frame]
@[simp] theorem wrBytes_ptNext (a : Nat) (l : List Byte) : (wrBytes a l d).ptNext = d.ptNext := by rw [wrBytes_frame]
@[simp] theorem wrBytes_ptHeld (a : Nat) (l : List Byte) : (wrBytes a l d).ptHeld = d.ptHeld := by rw [wrBytes_frame]
@[simp] theorem wrBytes_drains (a : Nat) (l : List Byte) : (wrBytes a l d).drains = d.drains := by rw [wrBytes_frame]
@[simp] theorem wrBytes_lastPorter (a : Nat) (l : List Byte) : (wrBytes a l d).lastPorter = d.lastPorter := by rw [wrBytes_frame]
@[simp] theorem wrBytes_offSent (a : Nat) (l : List Byte) : (wrBytes a l d).offSent = d.offSent := by rw [wrBytes_frame]
@[simp] theorem wrBytes_offFetched (a : Nat) (l : List Byte) : (wrBytes a l d).offFetched = d.offFetched := by rw [wrBytes_frame]
@[simp] theorem wrBytes_homes (a : Nat) (l : List Byte) : (wrBytes a l d).homes = d.homes := by rw [wrBytes_frame]
@[simp] theorem wrBytes_moves (a : Nat) (l : List Byte) : (wrBytes a l d).moves = d.moves := by rw [wrBytes_frame]
@[simp] theorem wrBytes_stks (a : Nat) (l : List Byte) : (wrBytes a l d).stks = d.stks := by rw [wrBytes_frame]
@[simp] theorem wrBytes_losses (a : Nat) (l : List Byte) : (wrBytes a l d).losses = d.losses := by rw [wrBytes_frame]
@[simp] theorem wrBytes_badBlocks (a : Nat) (l : List Byte) : (wrBytes a l d).badBlocks = d.badBlocks := by rw [wrBytes_frame]
@[simp] theorem wrBytes_reloc (a : Nat) (l : List Byte) : (wrBytes a l d).reloc = d.reloc := by rw [wrBytes_frame]
@[simp] theorem wrBytes_intent (a : Nat) (l : List Byte) : (wrBytes a l d).intent = d.intent := by rw [wrBytes_frame]
@[simp] theorem wrBytes_repair (a : Nat) (l : List Byte) : (wrBytes a l d).repair = d.repair := by rw [wrBytes_frame]
@[simp] theorem wrBytes_ports (a : Nat) (l : List Byte) : (wrBytes a l d).ports = d.ports := by rw [wrBytes_frame]
@[simp] theorem wrBytes_fabric (a : Nat) (l : List Byte) : (wrBytes a l d).fabric = d.fabric := by rw [wrBytes_frame]
@[simp] theorem wrBytes_red (a : Nat) (l : List Byte) : (wrBytes a l d).red = d.red := by rw [wrBytes_frame]
@[simp] theorem wrBytes_banks (a : Nat) (l : List Byte) : (wrBytes a l d).banks = d.banks := by rw [wrBytes_frame]
@[simp] theorem wrBytes_redSubst (a : Nat) (l : List Byte) : (wrBytes a l d).redSubst = d.redSubst := by rw [wrBytes_frame]
@[simp] theorem wrBytes_redMismatch (a : Nat) (l : List Byte) : (wrBytes a l d).redMismatch = d.redMismatch := by rw [wrBytes_frame]
@[simp] theorem wrBytes_health (a : Nat) (l : List Byte) : (wrBytes a l d).health = d.health := by rw [wrBytes_frame]
@[simp] theorem wrBytes_replayStat (a : Nat) (l : List Byte) : (wrBytes a l d).replayStat = d.replayStat := by rw [wrBytes_frame]
@[simp] theorem wrBytes_codecs (a : Nat) (l : List Byte) : (wrBytes a l d).codecs = d.codecs := by rw [wrBytes_frame]
@[simp] theorem answer_grade (v : Nat) : (answer v d).grade = d.grade := rfl
@[simp] theorem answer_wall (v : Nat) : (answer v d).wall = d.wall := rfl
@[simp] theorem answer_freeIdx (v : Nat) : (answer v d).freeIdx = d.freeIdx := rfl
@[simp] theorem answer_logged (v : Nat) : (answer v d).logged = d.logged := rfl
@[simp] theorem answer_cfg (v : Nat) : (answer v d).cfg = d.cfg := rfl
@[simp] theorem answer_evt (v : Nat) : (answer v d).evt = d.evt := rfl
@[simp] theorem answer_err (v : Nat) : (answer v d).err = d.err := rfl
@[simp] theorem answer_clusters (v : Nat) : (answer v d).clusters = d.clusters := rfl
@[simp] theorem answer_shape (v : Nat) : (answer v d).shape = d.shape := rfl
@[simp] theorem answer_criers (v : Nat) : (answer v d).criers = d.criers := rfl
@[simp] theorem answer_lease (v : Nat) : (answer v d).lease = d.lease := rfl
@[simp] theorem answer_fw (v : Nat) : (answer v d).fw = d.fw := rfl
@[simp] theorem answer_awning (v : Nat) : (answer v d).awning = d.awning := rfl
@[simp] theorem answer_ledger (v : Nat) : (answer v d).ledger = d.ledger := rfl
@[simp] theorem answer_pwr (v : Nat) : (answer v d).pwr = d.pwr := rfl
@[simp] theorem answer_sec (v : Nat) : (answer v d).sec = d.sec := rfl
@[simp] theorem answer_tills (v : Nat) : (answer v d).tills = d.tills := rfl
@[simp] theorem answer_host (v : Nat) : (answer v d).host = d.host := rfl
@[simp] theorem answer_seq (v : Nat) : (answer v d).seq = d.seq := rfl
@[simp] theorem answer_ctxs (v : Nat) : (answer v d).ctxs = d.ctxs := rfl
@[simp] theorem answer_cores (v : Nat) : (answer v d).cores = d.cores := rfl
@[simp] theorem answer_mem (v : Nat) : (answer v d).mem = d.mem := rfl
@[simp] theorem answer_badSram (v : Nat) : (answer v d).badSram = d.badSram := rfl
@[simp] theorem answer_veil (v : Nat) : (answer v d).veil = d.veil := rfl
@[simp] theorem answer_waiting (v : Nat) : (answer v d).waiting = d.waiting := rfl
@[simp] theorem answer_accHeld (v : Nat) : (answer v d).accHeld = d.accHeld := rfl
@[simp] theorem answer_loopFaults (v : Nat) : (answer v d).loopFaults = d.loopFaults := rfl
@[simp] theorem answer_stewardStep (v : Nat) : (answer v d).stewardStep = d.stewardStep := rfl
@[simp] theorem answer_stewardTask (v : Nat) : (answer v d).stewardTask = d.stewardTask := rfl
@[simp] theorem answer_handoff (v : Nat) : (answer v d).handoff = d.handoff := rfl
@[simp] theorem answer_frames (v : Nat) : (answer v d).frames = d.frames := rfl
@[simp] theorem answer_pools (v : Nat) : (answer v d).pools = d.pools := rfl
@[simp] theorem answer_ptOps (v : Nat) : (answer v d).ptOps = d.ptOps := rfl
@[simp] theorem answer_ptNext (v : Nat) : (answer v d).ptNext = d.ptNext := rfl
@[simp] theorem answer_ptHeld (v : Nat) : (answer v d).ptHeld = d.ptHeld := rfl
@[simp] theorem answer_drains (v : Nat) : (answer v d).drains = d.drains := rfl
@[simp] theorem answer_lastPorter (v : Nat) : (answer v d).lastPorter = d.lastPorter := rfl
@[simp] theorem answer_offSent (v : Nat) : (answer v d).offSent = d.offSent := rfl
@[simp] theorem answer_offFetched (v : Nat) : (answer v d).offFetched = d.offFetched := rfl
@[simp] theorem answer_homes (v : Nat) : (answer v d).homes = d.homes := rfl
@[simp] theorem answer_moves (v : Nat) : (answer v d).moves = d.moves := rfl
@[simp] theorem answer_stks (v : Nat) : (answer v d).stks = d.stks := rfl
@[simp] theorem answer_losses (v : Nat) : (answer v d).losses = d.losses := rfl
@[simp] theorem answer_badBlocks (v : Nat) : (answer v d).badBlocks = d.badBlocks := rfl
@[simp] theorem answer_reloc (v : Nat) : (answer v d).reloc = d.reloc := rfl
@[simp] theorem answer_intent (v : Nat) : (answer v d).intent = d.intent := rfl
@[simp] theorem answer_repair (v : Nat) : (answer v d).repair = d.repair := rfl
@[simp] theorem answer_ports (v : Nat) : (answer v d).ports = d.ports := rfl
@[simp] theorem answer_fabric (v : Nat) : (answer v d).fabric = d.fabric := rfl
@[simp] theorem answer_red (v : Nat) : (answer v d).red = d.red := rfl
@[simp] theorem answer_banks (v : Nat) : (answer v d).banks = d.banks := rfl
@[simp] theorem answer_redSubst (v : Nat) : (answer v d).redSubst = d.redSubst := rfl
@[simp] theorem answer_redMismatch (v : Nat) : (answer v d).redMismatch = d.redMismatch := rfl
@[simp] theorem answer_health (v : Nat) : (answer v d).health = d.health := rfl
@[simp] theorem answer_replayStat (v : Nat) : (answer v d).replayStat = d.replayStat := rfl
@[simp] theorem answer_codecs (v : Nat) : (answer v d).codecs = d.codecs := rfl
@[simp] theorem logIgnored_grade  : (logIgnored d).grade = d.grade := rfl
@[simp] theorem logIgnored_wall  : (logIgnored d).wall = d.wall := rfl
@[simp] theorem logIgnored_freeIdx  : (logIgnored d).freeIdx = d.freeIdx := rfl
@[simp] theorem logIgnored_readData  : (logIgnored d).readData = d.readData := rfl
@[simp] theorem logIgnored_cfg  : (logIgnored d).cfg = d.cfg := rfl
@[simp] theorem logIgnored_evt  : (logIgnored d).evt = d.evt := rfl
@[simp] theorem logIgnored_err  : (logIgnored d).err = d.err := rfl
@[simp] theorem logIgnored_clusters  : (logIgnored d).clusters = d.clusters := rfl
@[simp] theorem logIgnored_shape  : (logIgnored d).shape = d.shape := rfl
@[simp] theorem logIgnored_criers  : (logIgnored d).criers = d.criers := rfl
@[simp] theorem logIgnored_lease  : (logIgnored d).lease = d.lease := rfl
@[simp] theorem logIgnored_fw  : (logIgnored d).fw = d.fw := rfl
@[simp] theorem logIgnored_awning  : (logIgnored d).awning = d.awning := rfl
@[simp] theorem logIgnored_ledger  : (logIgnored d).ledger = d.ledger := rfl
@[simp] theorem logIgnored_pwr  : (logIgnored d).pwr = d.pwr := rfl
@[simp] theorem logIgnored_sec  : (logIgnored d).sec = d.sec := rfl
@[simp] theorem logIgnored_tills  : (logIgnored d).tills = d.tills := rfl
@[simp] theorem logIgnored_host  : (logIgnored d).host = d.host := rfl
@[simp] theorem logIgnored_seq  : (logIgnored d).seq = d.seq := rfl
@[simp] theorem logIgnored_ctxs  : (logIgnored d).ctxs = d.ctxs := rfl
@[simp] theorem logIgnored_cores  : (logIgnored d).cores = d.cores := rfl
@[simp] theorem logIgnored_mem  : (logIgnored d).mem = d.mem := rfl
@[simp] theorem logIgnored_badSram  : (logIgnored d).badSram = d.badSram := rfl
@[simp] theorem logIgnored_veil  : (logIgnored d).veil = d.veil := rfl
@[simp] theorem logIgnored_waiting  : (logIgnored d).waiting = d.waiting := rfl
@[simp] theorem logIgnored_accHeld  : (logIgnored d).accHeld = d.accHeld := rfl
@[simp] theorem logIgnored_loopFaults  : (logIgnored d).loopFaults = d.loopFaults := rfl
@[simp] theorem logIgnored_stewardStep  : (logIgnored d).stewardStep = d.stewardStep := rfl
@[simp] theorem logIgnored_stewardTask  : (logIgnored d).stewardTask = d.stewardTask := rfl
@[simp] theorem logIgnored_handoff  : (logIgnored d).handoff = d.handoff := rfl
@[simp] theorem logIgnored_frames  : (logIgnored d).frames = d.frames := rfl
@[simp] theorem logIgnored_pools  : (logIgnored d).pools = d.pools := rfl
@[simp] theorem logIgnored_ptOps  : (logIgnored d).ptOps = d.ptOps := rfl
@[simp] theorem logIgnored_ptNext  : (logIgnored d).ptNext = d.ptNext := rfl
@[simp] theorem logIgnored_ptHeld  : (logIgnored d).ptHeld = d.ptHeld := rfl
@[simp] theorem logIgnored_drains  : (logIgnored d).drains = d.drains := rfl
@[simp] theorem logIgnored_lastPorter  : (logIgnored d).lastPorter = d.lastPorter := rfl
@[simp] theorem logIgnored_offSent  : (logIgnored d).offSent = d.offSent := rfl
@[simp] theorem logIgnored_offFetched  : (logIgnored d).offFetched = d.offFetched := rfl
@[simp] theorem logIgnored_homes  : (logIgnored d).homes = d.homes := rfl
@[simp] theorem logIgnored_moves  : (logIgnored d).moves = d.moves := rfl
@[simp] theorem logIgnored_stks  : (logIgnored d).stks = d.stks := rfl
@[simp] theorem logIgnored_losses  : (logIgnored d).losses = d.losses := rfl
@[simp] theorem logIgnored_badBlocks  : (logIgnored d).badBlocks = d.badBlocks := rfl
@[simp] theorem logIgnored_reloc  : (logIgnored d).reloc = d.reloc := rfl
@[simp] theorem logIgnored_intent  : (logIgnored d).intent = d.intent := rfl
@[simp] theorem logIgnored_repair  : (logIgnored d).repair = d.repair := rfl
@[simp] theorem logIgnored_ports  : (logIgnored d).ports = d.ports := rfl
@[simp] theorem logIgnored_fabric  : (logIgnored d).fabric = d.fabric := rfl
@[simp] theorem logIgnored_red  : (logIgnored d).red = d.red := rfl
@[simp] theorem logIgnored_banks  : (logIgnored d).banks = d.banks := rfl
@[simp] theorem logIgnored_redSubst  : (logIgnored d).redSubst = d.redSubst := rfl
@[simp] theorem logIgnored_redMismatch  : (logIgnored d).redMismatch = d.redMismatch := rfl
@[simp] theorem logIgnored_health  : (logIgnored d).health = d.health := rfl
@[simp] theorem logIgnored_replayStat  : (logIgnored d).replayStat = d.replayStat := rfl
@[simp] theorem logIgnored_codecs  : (logIgnored d).codecs = d.codecs := rfl
@[simp] theorem useFree2_grade (w : Nat) : ((useFree w d).2).grade = d.grade := rfl
@[simp] theorem useFree2_wall (w : Nat) : ((useFree w d).2).wall = d.wall := rfl
@[simp] theorem useFree2_readData (w : Nat) : ((useFree w d).2).readData = d.readData := rfl
@[simp] theorem useFree2_logged (w : Nat) : ((useFree w d).2).logged = d.logged := rfl
@[simp] theorem useFree2_cfg (w : Nat) : ((useFree w d).2).cfg = d.cfg := rfl
@[simp] theorem useFree2_evt (w : Nat) : ((useFree w d).2).evt = d.evt := rfl
@[simp] theorem useFree2_err (w : Nat) : ((useFree w d).2).err = d.err := rfl
@[simp] theorem useFree2_clusters (w : Nat) : ((useFree w d).2).clusters = d.clusters := rfl
@[simp] theorem useFree2_shape (w : Nat) : ((useFree w d).2).shape = d.shape := rfl
@[simp] theorem useFree2_criers (w : Nat) : ((useFree w d).2).criers = d.criers := rfl
@[simp] theorem useFree2_lease (w : Nat) : ((useFree w d).2).lease = d.lease := rfl
@[simp] theorem useFree2_fw (w : Nat) : ((useFree w d).2).fw = d.fw := rfl
@[simp] theorem useFree2_awning (w : Nat) : ((useFree w d).2).awning = d.awning := rfl
@[simp] theorem useFree2_ledger (w : Nat) : ((useFree w d).2).ledger = d.ledger := rfl
@[simp] theorem useFree2_pwr (w : Nat) : ((useFree w d).2).pwr = d.pwr := rfl
@[simp] theorem useFree2_sec (w : Nat) : ((useFree w d).2).sec = d.sec := rfl
@[simp] theorem useFree2_tills (w : Nat) : ((useFree w d).2).tills = d.tills := rfl
@[simp] theorem useFree2_host (w : Nat) : ((useFree w d).2).host = d.host := rfl
@[simp] theorem useFree2_seq (w : Nat) : ((useFree w d).2).seq = d.seq := rfl
@[simp] theorem useFree2_ctxs (w : Nat) : ((useFree w d).2).ctxs = d.ctxs := rfl
@[simp] theorem useFree2_cores (w : Nat) : ((useFree w d).2).cores = d.cores := rfl
@[simp] theorem useFree2_mem (w : Nat) : ((useFree w d).2).mem = d.mem := rfl
@[simp] theorem useFree2_badSram (w : Nat) : ((useFree w d).2).badSram = d.badSram := rfl
@[simp] theorem useFree2_veil (w : Nat) : ((useFree w d).2).veil = d.veil := rfl
@[simp] theorem useFree2_waiting (w : Nat) : ((useFree w d).2).waiting = d.waiting := rfl
@[simp] theorem useFree2_accHeld (w : Nat) : ((useFree w d).2).accHeld = d.accHeld := rfl
@[simp] theorem useFree2_loopFaults (w : Nat) : ((useFree w d).2).loopFaults = d.loopFaults := rfl
@[simp] theorem useFree2_stewardStep (w : Nat) : ((useFree w d).2).stewardStep = d.stewardStep := rfl
@[simp] theorem useFree2_stewardTask (w : Nat) : ((useFree w d).2).stewardTask = d.stewardTask := rfl
@[simp] theorem useFree2_handoff (w : Nat) : ((useFree w d).2).handoff = d.handoff := rfl
@[simp] theorem useFree2_frames (w : Nat) : ((useFree w d).2).frames = d.frames := rfl
@[simp] theorem useFree2_pools (w : Nat) : ((useFree w d).2).pools = d.pools := rfl
@[simp] theorem useFree2_ptOps (w : Nat) : ((useFree w d).2).ptOps = d.ptOps := rfl
@[simp] theorem useFree2_ptNext (w : Nat) : ((useFree w d).2).ptNext = d.ptNext := rfl
@[simp] theorem useFree2_ptHeld (w : Nat) : ((useFree w d).2).ptHeld = d.ptHeld := rfl
@[simp] theorem useFree2_drains (w : Nat) : ((useFree w d).2).drains = d.drains := rfl
@[simp] theorem useFree2_lastPorter (w : Nat) : ((useFree w d).2).lastPorter = d.lastPorter := rfl
@[simp] theorem useFree2_offSent (w : Nat) : ((useFree w d).2).offSent = d.offSent := rfl
@[simp] theorem useFree2_offFetched (w : Nat) : ((useFree w d).2).offFetched = d.offFetched := rfl
@[simp] theorem useFree2_homes (w : Nat) : ((useFree w d).2).homes = d.homes := rfl
@[simp] theorem useFree2_moves (w : Nat) : ((useFree w d).2).moves = d.moves := rfl
@[simp] theorem useFree2_stks (w : Nat) : ((useFree w d).2).stks = d.stks := rfl
@[simp] theorem useFree2_losses (w : Nat) : ((useFree w d).2).losses = d.losses := rfl
@[simp] theorem useFree2_badBlocks (w : Nat) : ((useFree w d).2).badBlocks = d.badBlocks := rfl
@[simp] theorem useFree2_reloc (w : Nat) : ((useFree w d).2).reloc = d.reloc := rfl
@[simp] theorem useFree2_intent (w : Nat) : ((useFree w d).2).intent = d.intent := rfl
@[simp] theorem useFree2_repair (w : Nat) : ((useFree w d).2).repair = d.repair := rfl
@[simp] theorem useFree2_ports (w : Nat) : ((useFree w d).2).ports = d.ports := rfl
@[simp] theorem useFree2_fabric (w : Nat) : ((useFree w d).2).fabric = d.fabric := rfl
@[simp] theorem useFree2_red (w : Nat) : ((useFree w d).2).red = d.red := rfl
@[simp] theorem useFree2_banks (w : Nat) : ((useFree w d).2).banks = d.banks := rfl
@[simp] theorem useFree2_redSubst (w : Nat) : ((useFree w d).2).redSubst = d.redSubst := rfl
@[simp] theorem useFree2_redMismatch (w : Nat) : ((useFree w d).2).redMismatch = d.redMismatch := rfl
@[simp] theorem useFree2_health (w : Nat) : ((useFree w d).2).health = d.health := rfl
@[simp] theorem useFree2_replayStat (w : Nat) : ((useFree w d).2).replayStat = d.replayStat := rfl
@[simp] theorem useFree2_codecs (w : Nat) : ((useFree w d).2).codecs = d.codecs := rfl

@[simp] theorem answer_readData (v : Nat) : (answer v d).readData = v := rfl
@[simp] theorem logIgnored_logged : (logIgnored d).logged = d.logged + 1 := rfl
@[simp] theorem wrByte_mem (a : Nat) (v : Byte) : (wrByte a v d).mem = Tab.set 0 d.mem (memKey d a) v := rfl
@[simp] theorem wrBytes_nil (a : Nat) : wrBytes a [] d = d := rfl
@[simp] theorem wrBytes_cons (a : Nat) (v : Byte) (l : List Byte) : wrBytes a (v :: l) d = wrBytes (a + 1) l (wrByte a v d) := rfl
@[simp] theorem modAwning_awning (f : Awning → Awning) : (d.modAwning f).awning = f d.awning := rfl
@[simp] theorem modFabric_fabric (f : Fabric → Fabric) : (d.modFabric f).fabric = f d.fabric := rfl
@[simp] theorem modPwr_pwr (f : Power → Power) : (d.modPwr f).pwr = f d.pwr := rfl
@[simp] theorem modHost_host (f : HostIf → HostIf) : (d.modHost f).host = f d.host := rfl

end Sys2Proof.Machine
end

