-- ==== Sys2Proof/Laws/Tab.lean ====
section
/-! SUPPORT. The laws of sparse tables: read after write, and that every write keeps the canonical form. -/

namespace Sys2Proof.Machine

theorem Tab.get_append {α : Type} (d : α) (a b : Tab α) (k : Nat) (h : ∀ e ∈ a, e.1 ≠ k) :
    Tab.get d (a ++ b) k = Tab.get d b k := by
  induction a with
  | nil => rfl
  | cons e r ih =>
    have h1 : e.1 ≠ k := h e (by simp)
    simp only [List.cons_append, Tab.get, h1, if_false]
    exact ih (fun x hx => h x (by simp [hx]))

theorem Tab.get_none {α : Type} (d : α) (a : Tab α) (k : Nat) (h : ∀ e ∈ a, e.1 ≠ k) : Tab.get d a k = d := by
  have := Tab.get_append d a [] k h
  simpa [Tab.get] using this

theorem Tab.get_filter {α : Type} (d : α) (m : Tab α) (k : Nat) (p : Nat → Bool) (hp : p k = true) :
    Tab.get d (m.filter (fun e => p e.1)) k = Tab.get d m k := by
  induction m with
  | nil => rfl
  | cons e r ih =>
    by_cases h : e.1 = k
    · simp [h, hp, Tab.get]
    · by_cases q : p e.1 = true <;> simp [q, Tab.get, h, ih]

/-- What a write leaves at its key. -/
@[simp] theorem Tab.get_set_self {α : Type} [DecidableEq α] (d : α) (m : Tab α) (k : Nat) (v : α) :
    Tab.get d (Tab.set d m k v) k = v := by
  unfold Tab.set
  rw [List.append_assoc, Tab.get_append _ _ _ _ (by simp; intros; omega)]
  by_cases h : v = d
  · rw [if_pos h, List.nil_append, Tab.get_none _ _ _ (by simp; intros; omega), h]
  · simp [h, Tab.get]

/-- A write leaves every other key alone. -/
theorem Tab.get_set_ne {α : Type} [DecidableEq α] (d : α) (m : Tab α) (k j : Nat) (v : α) (h : j ≠ k) :
    Tab.get d (Tab.set d m k v) j = Tab.get d m j := by
  unfold Tab.set
  rcases Nat.lt_or_gt_of_ne h with h | h
  · -- below the key
    have e : Tab.get d (m.filter (fun e => decide (e.1 < k))) j = Tab.get d m j :=
      Tab.get_filter d m j (fun i => decide (i < k)) (by simpa using h)
    rw [List.append_assoc, ← e]
    generalize m.filter (fun e => decide (e.1 < k)) = a
    have tail : Tab.get d ((if v = d then [] else [(k, v)]) ++ m.filter (fun e => decide (k < e.1))) j = d := by
      apply Tab.get_none
      intro x hx
      by_cases hv : v = d
      · simp [hv] at hx; omega
      · simp [hv] at hx
        rcases hx with hx | hx
        · rw [hx]; simp; omega
        · omega
    induction a with
    | nil => simpa [Tab.get] using tail
    | cons x r ih =>
      simp only [List.cons_append, Tab.get]
      split
      · rfl
      · exact ih
  · rw [List.append_assoc, Tab.get_append _ _ _ _ (by simp; intros; omega)]
    rw [Tab.get_append]
    · exact Tab.get_filter d m j (fun i => decide (k < i)) (by simpa using h)
    · intro x hx
      by_cases hv : v = d
      · simp [hv] at hx
      · simp [hv] at hx; rw [hx]; simp; omega

theorem Tab.get_set {α : Type} [DecidableEq α] (d : α) (m : Tab α) (k j : Nat) (v : α) :
    Tab.get d (Tab.set d m k v) j = if j = k then v else Tab.get d m j := by
  split
  · next h => rw [h]; exact Tab.get_set_self d m k v
  · next h => exact Tab.get_set_ne d m k j v h

theorem Tab.get_mod {α : Type} [DecidableEq α] (d : α) (m : Tab α) (k j : Nat) (f : α → α) :
    Tab.get d (Tab.mod d m k f) j = if j = k then f (Tab.get d m k) else Tab.get d m j := Tab.get_set d m k j _

@[simp] theorem Tab.get_mod_self {α : Type} [DecidableEq α] (d : α) (m : Tab α) (k : Nat) (f : α → α) :
    Tab.get d (Tab.mod d m k f) k = f (Tab.get d m k) := by simp [Tab.mod]

/-! ### The canonical form -/

/-- Canonical: every value listed differs from the default, and the keys rise strictly. -/
theorem Tab.wf_iff {α : Type} [DecidableEq α] (d : α) (m : Tab α) :
    Tab.wf d m = true ↔ (∀ e ∈ m, e.2 ≠ d) ∧ m.Pairwise (fun a b => a.1 < b.1) := by
  induction m with
  | nil => simp [Tab.wf]
  | cons e r ih =>
    obtain ⟨k, v⟩ := e
    simp only [Tab.wf, Bool.and_eq_true, decide_eq_true_eq, ih, List.mem_cons, List.pairwise_cons]
    constructor
    · rintro ⟨⟨h1, h2⟩, h3, h4⟩
      refine ⟨?_, ?_, h4⟩
      · rintro x (rfl | hx)
        · exact h1
        · exact h3 x hx
      · intro x hx
        cases r with
        | nil => simp at hx
        | cons y z =>
          simp at h2
          rcases List.mem_cons.mp hx with rfl | hx
          · exact h2
          · exact lt_trans h2 ((List.pairwise_cons.mp h4).1 x hx)
    · rintro ⟨h1, h2, h3⟩
      refine ⟨⟨h1 (k, v) (Or.inl rfl), ?_⟩, fun x hx => h1 x (Or.inr hx), h3⟩
      cases r with
      | nil => rfl
      | cons y z => simpa using h2 y (by simp)

@[simp] theorem Tab.wf_nil {α : Type} [DecidableEq α] (d : α) : Tab.wf d ([] : Tab α) = true := rfl

/-- Keeping some of the entries keeps the canonical form. -/
theorem Tab.wf_filter {α : Type} [DecidableEq α] (d : α) (m : Tab α) (p : Nat × α → Bool) (h : Tab.wf d m = true) :
    Tab.wf d (m.filter p) = true := by
  rw [Tab.wf_iff] at h ⊢
  exact ⟨fun e he => h.1 e (List.mem_filter.mp he).1, h.2.filter p⟩

/-- A write keeps the canonical form. -/
theorem Tab.wf_set {α : Type} [DecidableEq α] (d : α) (m : Tab α) (k : Nat) (v : α) (h : Tab.wf d m = true) :
    Tab.wf d (Tab.set d m k v) = true := by
  rw [Tab.wf_iff] at h ⊢
  unfold Tab.set
  constructor
  · intro e he
    simp only [List.mem_append, List.mem_filter] at he
    rcases he with (he | he) | he
    · exact h.1 e he.1
    · by_cases hv : v = d
      · simp [hv] at he
      · simp [hv] at he; rw [he]; exact hv
    · exact h.1 e he.1
  · refine List.pairwise_append.mpr ⟨List.pairwise_append.mpr ⟨h.2.filter _, ?_, ?_⟩, h.2.filter _, ?_⟩
    · by_cases hv : v = d <;> simp [hv]
    · intro a ha b hb
      by_cases hv : v = d
      · simp [hv] at hb
      · simp [hv] at hb; simp at ha; rw [hb]; exact ha.2
    · intro a ha b hb
      simp only [List.mem_append, List.mem_filter, decide_eq_true_eq] at ha hb
      rcases ha with ha | ha
      · omega
      · by_cases hv : v = d
        · simp [hv] at ha
        · simp [hv] at ha; rw [ha]; exact hb.2

theorem Tab.wf_mod {α : Type} [DecidableEq α] (d : α) (m : Tab α) (k : Nat) (f : α → α) (h : Tab.wf d m = true) :
    Tab.wf d (Tab.mod d m k f) = true := Tab.wf_set d m k _ h

theorem Tab.wf_setMany {α : Type} [DecidableEq α] (d : α) (l : List α) (m : Tab α) (k : Nat) (h : Tab.wf d m = true) :
    Tab.wf d (Tab.setMany d m k l) = true := by
  induction l generalizing m k with
  | nil => exact h
  | cons v r ih => exact ih _ _ (Tab.wf_set d m k v h)

/-- Any number of writes keeps the canonical form. -/
theorem Tab.wf_foldl_set {α β : Type} [DecidableEq α] (d : α) (l : List β) (key : β → Nat) (val : β → α) (m : Tab α)
    (h : Tab.wf d m = true) : Tab.wf d (l.foldl (fun m x => Tab.set d m (key x) (val x)) m) = true := by
  induction l generalizing m with
  | nil => exact h
  | cons x r ih => exact ih _ (Tab.wf_set d m _ _ h)

/-- What consecutive writes leave at a key. -/
theorem Tab.get_setMany {α : Type} [DecidableEq α] (d : α) (l : List α) (m : Tab α) (k j : Nat) :
    Tab.get d (Tab.setMany d m k l) j = if h : k ≤ j ∧ j < k + l.length then l[j - k] else Tab.get d m j := by
  induction l generalizing m k with
  | nil => simp [Tab.setMany]
  | cons v r ih =>
    simp only [Tab.setMany, ih, List.length_cons]
    by_cases h1 : j = k
    · subst h1
      simp
    · by_cases h2 : k + 1 ≤ j ∧ j < k + 1 + r.length
      · have h3 : k ≤ j ∧ j < k + (r.length + 1) := by omega
        rw [dif_pos h2, dif_pos h3]
        have : j - k = (j - (k + 1)) + 1 := by omega
        simp [this]
      · have h3 : ¬ (k ≤ j ∧ j < k + (r.length + 1)) := by omega
        rw [dif_neg h2, dif_neg h3, Tab.get_set_ne _ _ _ _ _ h1]

end Sys2Proof.Machine
end

