-- ==== Sys2Proof/Laws/Units.lean ====
section
/-! SUPPORT. Reading a numbered unit after an update of the same kind of unit, and memory: read after write, and that every
named memory operation keeps the canonical form. -/

namespace Sys2Proof.Machine

variable (d : Dev)

@[simp] theorem modCtx_ctx (n : CtxId) (f : Ctx → Ctx) : (d.modCtx n f).ctx n = f (d.ctx n) := by simp [Dev.modCtx, Dev.ctx]
theorem modCtx_ctx_ne (n m : CtxId) (f : Ctx → Ctx) (h : m ≠ n) : (d.modCtx n f).ctx m = d.ctx m :=
  Tab.get_set_ne _ _ _ _ _ (by intro e; exact h (Fin.ext e))
@[simp] theorem modCluster_cluster (n : Nat) (f : Cluster → Cluster) : (d.modCluster n f).cluster n = f (d.cluster n) := by simp [Dev.modCluster, Dev.cluster]
theorem modCluster_cluster_ne (n m : Nat) (f : Cluster → Cluster) (h : m ≠ n) : (d.modCluster n f).cluster m = d.cluster m :=
  Tab.get_set_ne _ _ _ _ _ (h)
@[simp] theorem modTill_till (n : TillId) (f : Till → Till) : (d.modTill n f).till n = f (d.till n) := by simp [Dev.modTill, Dev.till]
theorem modTill_till_ne (n m : TillId) (f : Till → Till) (h : m ≠ n) : (d.modTill n f).till m = d.till m :=
  Tab.get_set_ne _ _ _ _ _ (by intro e; exact h (Fin.ext e))
@[simp] theorem modCrier_crier (n : CrierId) (f : Crier → Crier) : (d.modCrier n f).crier n = f (d.crier n) := by simp [Dev.modCrier, Dev.crier]
theorem modCrier_crier_ne (n m : CrierId) (f : Crier → Crier) (h : m ≠ n) : (d.modCrier n f).crier m = d.crier m :=
  Tab.get_set_ne _ _ _ _ _ (by intro e; exact h (Fin.ext e))
@[simp] theorem modSrc_src (n : Nat) (f : EvtSrc → EvtSrc) : (d.modSrc n f).src n = f (d.src n) := by simp [Dev.modSrc, Dev.src]
theorem modSrc_src_ne (n m : Nat) (f : EvtSrc → EvtSrc) (h : m ≠ n) : (d.modSrc n f).src m = d.src m :=
  Tab.get_set_ne _ _ _ _ _ (h)
@[simp] theorem modPool_pool (n : Nat) (f : Pool → Pool) : (d.modPool n f).pool n = f (d.pool n) := by simp [Dev.modPool, Dev.pool]
theorem modPool_pool_ne (n m : Nat) (f : Pool → Pool) (h : m ≠ n) : (d.modPool n f).pool m = d.pool m :=
  Tab.get_set_ne _ _ _ _ _ (h)
@[simp] theorem modCodec_codec (n : Nat) (f : Codec → Codec) : (d.modCodec n f).codec n = f (d.codec n) := by simp [Dev.modCodec, Dev.codec]
theorem modCodec_codec_ne (n m : Nat) (f : Codec → Codec) (h : m ≠ n) : (d.modCodec n f).codec m = d.codec m :=
  Tab.get_set_ne _ _ _ _ _ (h)
@[simp] theorem modPort_port (n : Nat) (f : Port → Port) : (d.modPort n f).port n = f (d.port n) := by simp [Dev.modPort, Dev.port]
theorem modPort_port_ne (n m : Nat) (f : Port → Port) (h : m ≠ n) : (d.modPort n f).port m = d.port m :=
  Tab.get_set_ne _ _ _ _ _ (h)
@[simp] theorem modHome_home (n : Nat) (f : Home → Home) : (d.modHome n f).home n = f (d.home n) := by simp [Dev.modHome, Dev.home]
theorem modHome_home_ne (n m : Nat) (f : Home → Home) (h : m ≠ n) : (d.modHome n f).home m = d.home m :=
  Tab.get_set_ne _ _ _ _ _ (h)
@[simp] theorem modStk_stk (n : Nat) (f : Stack → Stack) : (d.modStk n f).stk n = f (d.stk n) := by simp [Dev.modStk, Dev.stk]
theorem modStk_stk_ne (n m : Nat) (f : Stack → Stack) (h : m ≠ n) : (d.modStk n f).stk m = d.stk m :=
  Tab.get_set_ne _ _ _ _ _ (h)
@[simp] theorem modCore_core (n : Nat) (f : Core → Core) : (d.modCore n f).core n = f (d.core n) := by simp [Dev.modCore, Dev.core]
theorem modCore_core_ne (n m : Nat) (f : Core → Core) (h : m ≠ n) : (d.modCore n f).core m = d.core m :=
  Tab.get_set_ne _ _ _ _ _ (h)

/-! ### Memory -/

/-- Different package addresses keep their bytes at different places. -/
theorem memKey_inj (a b : Nat) (h : memKey d a = memKey d b) : a = b := by
  have t : d.host.tierOffset.toNat < 2 ^ 48 := d.host.tierOffset.isLt
  unfold memKey hostBase hostEnd at h
  split at h <;> split at h <;> (try split at h) <;> (try split at h) <;> omega

@[simp] theorem wrByte_memKey (a b : Nat) (v : Byte) : memKey (wrByte a v d) b = memKey d b := rfl

@[simp] theorem rdByte_wrByte (a : Nat) (v : Byte) : rdByte (wrByte a v d) a = v := by
  simp [rdByte, memKey]
theorem rdByte_wrByte_ne (a b : Nat) (v : Byte) (h : b ≠ a) : rdByte (wrByte a v d) b = rdByte d b :=
  Tab.get_set_ne _ _ _ _ _ (fun e => h (memKey_inj d _ _ e))

/-- Consecutive bytes written read back as written, and every other address as before. -/
theorem rdByte_wrBytes (a b : Nat) (l : List Byte) :
    rdByte (wrBytes a l d) b = if h : a ≤ b ∧ b < a + l.length then l[b - a] else rdByte d b := by
  induction l generalizing a d with
  | nil => rw [dif_neg (by simp)]; rfl
  | cons v r ih =>
    rw [wrBytes_cons, ih]
    by_cases e : b = a
    · subst e
      rw [dif_neg (by omega), dif_pos (by simp), rdByte_wrByte]
      simp
    · rw [rdByte_wrByte_ne _ _ _ _ e]
      by_cases g : a + 1 ≤ b ∧ b < a + 1 + r.length
      · rw [dif_pos g, dif_pos (by simp; omega)]
        simp [show b - a = b - (a + 1) + 1 by omega]
      · rw [dif_neg g, dif_neg (by simp; omega)]

/-- The memory is in its canonical form. -/
def memWf (d : Dev) : Bool := Tab.wf 0 d.mem

theorem memWf_wrByte (a : Nat) (v : Byte) (h : memWf d = true) : memWf (wrByte a v d) = true := Tab.wf_set _ _ _ _ h
theorem memWf_wrBytes (a : Nat) (l : List Byte) (h : memWf d = true) : memWf (wrBytes a l d) = true := by
  induction l generalizing a d with
  | nil => exact h
  | cons v r ih => exact ih _ _ (memWf_wrByte _ _ _ h)

/-- An operation that only reads or only changes other state keeps the form. -/
theorem memWf_of_mem_eq {d e : Dev} (h : e.mem = d.mem) (w : memWf d = true) : memWf e = true := by
  unfold memWf at *; rw [h]; exact w

/-- Any sequence of operations that each keep the form keeps it. -/
theorem memWf_foldl {β : Type} (l : List β) (f : Dev → β → Dev) (hf : ∀ d x, memWf d = true → memWf (f d x) = true)
    (h : memWf d = true) : memWf (l.foldl f d) = true := by
  induction l generalizing d with
  | nil => exact h
  | cons x r ih => exact ih _ (hf d x h)

/-- Any sequence of operations that each leave a part of the device alone leaves it alone. -/
theorem foldl_keeps {β γ : Type} (g : Dev → γ) (l : List β) (f : Dev → β → Dev) (hf : ∀ d x, g (f d x) = g d) :
    g (l.foldl f d) = g d := by
  induction l generalizing d with
  | nil => rfl
  | cons x r ih => exact (ih (f d x)).trans (hf d x)

theorem memWf_zeroRange (lo hi : Nat) (h : memWf d = true) : memWf (zeroRange lo hi d) = true := Tab.wf_filter _ _ _ h
theorem unveil_mem (as_ : List Nat) : (unveil as_ d).mem = d.mem := by unfold unveil; split <;> rfl
theorem memWf_storeBits (v : View) (off : Int) (bits : Nat) (h : memWf d = true) : memWf (v.storeBits off bits d) = true :=
  memWf_wrBytes _ _ _ (memWf_of_mem_eq (unveil_mem d _) h)
theorem memWf_storeScale (v : View) (off : Int) (sc : Nat) (h : memWf d = true) : memWf (v.storeScale off sc d) = true :=
  memWf_wrByte _ _ _ (memWf_of_mem_eq (unveil_mem d _) h)

/-- With no byte in flight, an operation reads what memory holds (R142). -/
theorem veilOn_settled (h : inFlight d = []) : veilOn d = { d with veil := [] } := by
  unfold veilOn; rw [h]; rfl

/-- With no veil, lifting it leaves memory alone. -/
theorem veilOff_nil (d0 : Dev) (h : d.veil = []) : veilOff d0 d = { d with veil := d0.veil } := by
  unfold veilOff; rw [h]; rfl

/-- With no veil, no write lifts one. -/
theorem unveil_nil (as_ : List Nat) (h : d.veil = []) : unveil as_ d = d := by unfold unveil; rw [if_pos h]

/-- With no veil, a byte holds what memory shows. -/
theorem heldByte_nil (a : Nat) (h : d.veil = []) : heldByte d a = rdByte d a := by unfold heldByte; rw [h]; rfl

/-- The old values lie over memory in its canonical form. -/
theorem memWf_veilOn (h : memWf d = true) : memWf (veilOn d) = true := by
  unfold veilOn
  apply memWf_foldl
  · intro d x h
    dsimp only
    split
    · exact h
    · exact Tab.wf_set _ _ _ _ h
  · exact h
theorem memWf_veilOff (d0 : Dev) (h : memWf d = true) : memWf (veilOff d0 d) = true :=
  Tab.wf_foldl_set _ _ (fun e : Nat × Byte => e.1) (fun e => e.2) _ h
theorem memWf_ptStore (v : View) (off : Int) (bits : Nat) (h : memWf d = true) : memWf (v.ptStore off bits d) = true := by
  unfold View.ptStore
  repeat' first | exact h | split | apply memWf_foldl | apply memWf_wrByte | apply memWf_wrBytes | intro _ _ h
theorem memWf_copyRange (src dst n : Nat) (h : memWf d = true) : memWf (copyRange src dst n d) = true :=
  Tab.wf_foldl_set _ _ (fun p : Nat × Byte => p.1 - memKey d src + memKey d dst) (fun p => p.2) _ (Tab.wf_filter _ _ _ h)
theorem wf_putRange (lo : Nat) (l m : Tab Byte) (h : Tab.wf 0 m = true) : Tab.wf 0 (putRange lo l m) = true :=
  Tab.wf_foldl_set _ _ (fun p : Nat × Byte => lo + p.1) (fun p => p.2) _ h
theorem memWf_copyBuffer (src dst : Nat) (h : memWf d = true) : memWf (copyBuffer src dst d) = true :=
  wf_putRange _ _ _ (Tab.wf_filter _ _ _ h)
theorem memWf_stashAcc (k core : Nat) (kept : Bool) (h : memWf d = true) : memWf (stashAcc k core kept d) = true :=
  Tab.wf_filter _ _ _ h
theorem memWf_loadAcc (k core : Nat) (h : memWf d = true) : memWf (loadAcc k core d) = true := wf_putRange _ _ _ h
theorem memWf_hubWr (a : Nat) (l : List Byte) (h : memWf d = true) : memWf (hubWr a l d) = true := by
  unfold hubWr
  exact memWf_foldl _ _ _ (fun d x h => memWf_wrByte _ _ _ h) h

end Sys2Proof.Machine
end

