-- ==== Sys2Proof/Laws/Ops.lean ====
section
/-! SUPPORT. The shared operations, each once: what raising an event, forming an error record, recording a status, aborting a task,
an arrival on a token and a management write can do, and what they leave alone. -/

namespace Sys2Proof.Machine

variable (d : Dev)

/-! ### Open values and answers -/

theorem useFree_frame (w : Nat) : { (useFree w d).2 with freeIdx := d.freeIdx } = d := rfl
theorem useFree_lt (w : Nat) : (useFree w d).1 < 2 ^ w := Nat.mod_lt _ (Nat.two_pow_pos w)
theorem wordOr_frame (w : Option Nat) : { (wordOr w d).2 with freeIdx := d.freeIdx } = d := by cases w <;> rfl
theorem wordOr_some (v : Nat) : wordOr (some v) d = (v, d) := rfl

/-! ### Events (R431) -/

/-- A raise leaves everything but the event controller and the alert pulses alone. -/
theorem raiseEvent_frame (n code : Nat) :
    { raiseEvent n code d with evt := d.evt, pwr := d.pwr } = d ∧
      { (raiseEvent n code d).pwr with alertPulses := d.pwr.alertPulses } = d.pwr ∧
      { (raiseEvent n code d).evt with srcs := d.evt.srcs, retention := d.evt.retention } = d.evt := by
  unfold raiseEvent
  dsimp only
  split
  · exact ⟨rfl, rfl, rfl⟩
  · by_cases h : (decide (96 ≤ n) && decide (n ≤ 99)) = true
    · simp only [h, if_true]
      split <;> exact ⟨rfl, rfl, rfl⟩
    · simp only [h, Bool.false_eq_true, if_false]
      split <;> exact ⟨rfl, rfl, rfl⟩

theorem raiseSrc_pend (code : BitVec 32) (e : EvtSrc) : (raiseSrc code e).pend = true := by
  unfold raiseSrc
  split
  · rfl
  · next h => split <;> simpa using h

/-- A raise of a source that is not reserved, while the controller is not saved. -/
theorem raiseEvent_src (n code : Nat) (h : reservedSource n = false) (r : d.evt.retention = none) :
    (raiseEvent n code d).src n = raiseSrc (BitVec.ofNat 32 code) (d.src n) ∧ ∀ m, m ≠ n → (raiseEvent n code d).src m = d.src m := by
  have e : ∀ x : Dev, x.evt = d.evt → (x.modSrc n (raiseSrc (BitVec.ofNat 32 code))).src n = raiseSrc (BitVec.ofNat 32 code) (d.src n) ∧
      ∀ m, m ≠ n → (x.modSrc n (raiseSrc (BitVec.ofNat 32 code))).src m = d.src m := by
    intro x hx
    have hs : ∀ m, x.src m = d.src m := fun m => by simp [Dev.src, hx]
    exact ⟨by rw [modSrc_src, hs], fun m hm => by rw [modSrc_src_ne _ _ _ _ hm, hs]⟩
  unfold raiseEvent
  simp only [h, Bool.false_eq_true, if_false]
  by_cases g : (decide (96 ≤ n) && decide (n ≤ 99)) = true
  · simp only [g, if_true, r]; exact e _ rfl
  · simp only [g, Bool.false_eq_true, if_false, r]; exact e _ rfl

/-! ### Error records (R452, R454, R455) -/

/-- An error record leaves everything but the records and the counter of open values alone. -/
theorem errReport_frame (r : Report) : { errReport r d with err := d.err, freeIdx := d.freeIdx } = d := by
  unfold errReport
  dsimp only
  split <;> rfl

theorem errReport_recorded (r : Report) : Recorded r.cls r.level r.action d (errReport r d) := by
  unfold errReport Recorded
  dsimp only
  refine ⟨?_, fun h => ?_, fun h => ?_⟩
  · split <;> simp [satAdd]
  · rw [if_neg (by omega)]
    exact ⟨_, rfl, rfl, rfl, rfl, rfl⟩
  · rw [if_pos h]
    exact ⟨rfl, rfl⟩

/-! ### Completion records (R359, R360) -/

/-- Writing held records keeps the records and their order, and the packet the till executes. -/
theorem flushHeld_keeps (up : Bool) (x : Till) :
    cplRecords (flushHeld up x) = cplRecords x ∧
      { flushHeld up x with records := x.records, cplTail := x.cplTail, held := x.held } = x := by
  refine ⟨?_, rfl⟩
  have e : ∀ (l : List CplRec) (f : Nat → Bool), (l.mapIdx (fun i r => { r with phase := f i })).map (fun r => { r with phase := true }) =
      l.map (fun r => { r with phase := true }) := by
    intro l f
    apply List.ext_getElem <;> simp
  unfold flushHeld cplRecords
  simp only [List.map_append, e, List.append_assoc]
  rw [← List.map_append, List.take_append_drop]

/-- Only the tills, the events and the counter of open values differ, from one device to the next and on. -/
theorem OnlyAnswer.trans {a b c : Dev} (h : OnlyAnswer a b) (g : OnlyAnswer b c) : OnlyAnswer a c := by
  unfold OnlyAnswer at *
  rw [← h, ← g]

theorem raiseEvent_onlyAnswer (n code : Nat) (h : n < 96) : OnlyAnswer d (raiseEvent n code d) ∧ (raiseEvent n code d).tills = d.tills := by
  unfold raiseEvent OnlyAnswer
  have : (decide (96 ≤ n) && decide (n ≤ 99)) = false := by simp; omega
  simp only [this, Bool.false_eq_true, if_false]
  split
  · exact ⟨rfl, rfl⟩
  · split <;> exact ⟨rfl, rfl⟩

/-- A record is appended to its till's, and the packet that the till executes stays. -/
theorem record_appends (n : TillId) (k : Packet) (at_ : Nat) (interim : Bool) (st : Status) (detail result : Option Nat) :
    (let d' := record n k at_ interim st detail result d
     OnlyAnswer d d' ∧ (∀ m, m ≠ n → d'.till m = d.till m) ∧
       { d'.till n with records := (d.till n).records, cplTail := (d.till n).cplTail, held := (d.till n).held } = d.till n ∧
       ∃ r, cplRecords (d'.till n) = cplRecords (d.till n) ++ [r] ∧ r.tag = k.tag ∧ r.seq = k.seq ∧ r.opcode = k.opcode ∧ r.status = st ∧
         r.interim = interim ∧ (∀ v, detail = some v → r.detail = BitVec.ofNat 32 v) ∧
         ∀ v, result = some v → r.result = BitVec.ofNat 32 v) := by
  have w1 := wordOr_frame d detail
  have w2 := wordOr_frame (wordOr detail d).2 result
  have v1 : ∀ v, detail = some v → (wordOr detail d).1 = v := fun v h => by rw [h]; rfl
  have v2 : ∀ v, result = some v → (wordOr result (wordOr detail d).2).1 = v := fun v h => by rw [h]; rfl
  unfold record
  generalize wordOr detail d = p at *
  obtain ⟨x, e⟩ := p
  dsimp only at *
  generalize wordOr result e = q at *
  obtain ⟨y, f⟩ := q
  dsimp only at *
  have oe : OnlyAnswer d e := by unfold OnlyAnswer; rw [← w1]
  have of_ : OnlyAnswer e f := by unfold OnlyAnswer; rw [← w2]
  have t1 : e.tills = d.tills := by rw [← w1]
  have t2 : f.tills = e.tills := by rw [← w2]
  have tf : f.tills = d.tills := t2.trans t1
  have tl : ∀ m, f.till m = d.till m := fun m => by simp [Dev.till, tf]
  let r : CplRec := {
    tag := k.tag, seq := k.seq, opcode := k.opcode, status := st, interim := interim, phase := true
    detail := BitVec.ofNat 32 x, result := BitVec.ofNat 32 y
    elapsed := BitVec.ofNat 32 (min ((f.wall - at_) / 1650) (2 ^ 32 - 1)) }
  have key : ∀ z : Dev, OnlyAnswer d z → z.tills = (f.modTill n (fun x => flushHeld (cxlIo f) { x with held := x.held ++ [r] })).tills →
      OnlyAnswer d z ∧ (∀ m, m ≠ n → z.till m = d.till m) ∧
       { z.till n with records := (d.till n).records, cplTail := (d.till n).cplTail, held := (d.till n).held } = d.till n ∧
       ∃ r, cplRecords (z.till n) = cplRecords (d.till n) ++ [r] ∧ r.tag = k.tag ∧ r.seq = k.seq ∧ r.opcode = k.opcode ∧ r.status = st ∧
         r.interim = interim ∧ (∀ v, detail = some v → r.detail = BitVec.ofNat 32 v) ∧
         ∀ v, result = some v → r.result = BitVec.ofNat 32 v := by
    intro z oz tz
    have zt : ∀ m, z.till m = (f.modTill n (fun x => flushHeld (cxlIo f) { x with held := x.held ++ [r] })).till m :=
      fun m => by simp [Dev.till, tz]
    refine ⟨oz, fun m hm => by rw [zt, modTill_till_ne _ _ _ _ hm, tl], by rw [zt, modTill_till, tl]; rfl, r, ?_, rfl, rfl, rfl, rfl, rfl,
      fun v h => by rw [← v1 v h], fun v h => by rw [← v2 v h]⟩
    rw [zt, modTill_till, tl, (flushHeld_keeps _ _).1]
    simp [cplRecords, r]
  have om : OnlyAnswer d (f.modTill n (fun x => flushHeld (cxlIo f) { x with held := x.held ++ [r] })) :=
    (oe.trans of_).trans rfl
  split
  · have g := raiseEvent_onlyAnswer (f.modTill n (fun x => flushHeld (cxlIo f) { x with held := x.held ++ [r] })) n.val k.seq.toNat (by omega)
    exact key _ (om.trans g.1) g.2
  · exact key _ om rfl

/-- A packet that a till executes gets its final record (R359); with none executing nothing happens. -/
theorem finish_finished (n : TillId) (st : Status) (detail result : Option Nat) (h : (d.till n).cur ≠ none) :
    Finished n st detail result d (finish n st detail result d) ∧ OnlyAnswer d (finish n st detail result d) ∧
      ∀ m, m ≠ n → (finish n st detail result d).till m = d.till m := by
  obtain ⟨k, hk⟩ := Option.ne_none_iff_exists'.mp h
  obtain ⟨ho, hm, -, r, hr, h1, h2, h3, h4, h5, h6, h7⟩ := record_appends d n k (d.till n).curAt false st detail result
  unfold finish Finished
  simp only [hk]
  refine ⟨⟨k, r, rfl, by rw [modTill_till], ?_, h1, h2, h3, h4, h5, h6, h7⟩, ho.trans rfl, fun m g => by rw [modTill_till_ne _ _ _ _ g, hm m g]⟩
  rw [modTill_till, ← hr]
  rfl

theorem finish_idle (n : TillId) (st : Status) (detail result : Option Nat) (h : (d.till n).cur = none) :
    finish n st detail result d = d := by
  simp only [finish, h]

/-! ### Who may write (R13, R372, R409, R437) -/

theorem hubWrite_acts (src : Source) (act : Dev → Dev) (h : mayWrite d src = true) : hubWrite src act d = act d := by
  cases src with
  | host => simp only [hubWrite, writeFrom, mayWrite] at *; rw [if_pos h]
  | crier c =>
    have l : c.val < 4 := by
      simp only [mayWrite, leads, Bool.and_eq_true, decide_eq_true_eq] at h
      exact h.1.1
    simp only [hubWrite, writeFrom, mayWrite] at *
    rw [if_pos l, if_pos h]

theorem hubWrite_ignored (src : Source) (act : Dev → Dev) (h : mayWrite d src = false) :
    (hubWrite src act d).logged = d.logged + 1 ∧ { hubWrite src act d with logged := d.logged, lease := d.lease } = d ∧
      { (hubWrite src act d).lease with demotions := d.lease.demotions } = d.lease := by
  cases src with
  | host => simp only [hubWrite, writeFrom, mayWrite] at *; rw [h]; exact ⟨rfl, rfl, rfl⟩
  | crier c =>
    simp only [hubWrite, writeFrom, mayWrite] at *
    rw [h]
    split
    · exact ⟨rfl, rfl, rfl⟩
    · exact ⟨rfl, rfl, rfl⟩

/-! ### Tokens (R49) and aborts (R64) -/

/-- An arrival below 65,535 on a task that has started and does not abort counts one on its token, and nothing else differs. -/
theorem arrive_counts (t : CtxId) (tok : Nat) (h : (d.ctx t).started = true) (g : (d.ctx t).phase ≠ .aborting)
    (r : Tab.get 0 (d.ctx t).tokens tok < 65535) :
    OnlyTokens t d (arrive t tok d) ∧ ∀ k, Tab.get 0 ((arrive t tok d).ctx t).tokens k =
      Tab.get 0 (d.ctx t).tokens k + if k = tok then 1 else 0 := by
  have e : arrive t tok d = d.modCtx t (fun c => { c with tokens := Tab.mod 0 c.tokens tok (· + 1) }) := by
    simp only [arrive, h, Bool.not_true, Bool.false_or, beq_iff_eq, g, if_false, Nat.not_le.mpr r]
  rw [e]
  refine ⟨⟨⟨rfl, fun u hu => modCtx_ctx_ne _ _ _ _ hu⟩, by rw [modCtx_ctx]⟩, fun k => ?_⟩
  rw [modCtx_ctx]
  simp only [Tab.get_mod]
  split <;> simp_all

/-- A key that is set back to the default is listed no more. -/
theorem mem_modMany_default {α : Type} [DecidableEq α] (x : α) (ks : List Nat) (m : Tab α) (e : Nat × α)
    (h : e ∈ Tab.modMany x m ks (fun _ _ => x)) : e ∈ m ∧ e.1 ∉ ks := by
  induction ks generalizing m with
  | nil => exact ⟨h, by simp⟩
  | cons a l ih =>
    have g := ih (Tab.mod x m a (fun _ => x)) h
    simp only [Tab.mod, Tab.set, if_true, List.append_nil, List.mem_append, List.mem_filter, decide_eq_true_eq] at g
    refine ⟨g.1.elim And.left And.left, fun k => ?_⟩
    rcases List.mem_cons.mp k with k | k
    · exact g.1.elim (fun y => by omega) (fun y => by omega)
    · exact g.2 k

/-- Stopping the issue of a task (R64): its transfers are gone; memory, tills, events and the other contexts stay. -/
theorem stopIssue_stops (t : CtxId) :
    (let d' := stopIssue t d
     (d'.ctx t).phase = .aborting ∧ (d'.ctx t).abort = (d.ctx t).abort ∧ (d'.ctx t).bellWait = none ∧ opsOf d' t = [] ∧
       (d.seq.running = some t → d'.seq.mode = .aborting) ∧ (d.seq.running ≠ some t → d'.seq = d.seq) ∧ d'.mem = d.mem ∧
       d'.tills = d.tills ∧ d'.evt = d.evt ∧ ∀ u, u ≠ t → d'.ctx u = d.ctx u) := by
  let e := cancelSweep t (d.modCtx t (fun c => { c with phase := .aborting, bellWait := none, stopDue := false }))
  have hs : stopIssue t d =
      if d.seq.running = some t then { e with seq := { d.seq with mode := .aborting, ptHold := false, ckptHold := false } } else e := rfl
  have hc : ∀ u, e.ctx u = (((d.modCtx t (fun c => { c with phase := .aborting, bellWait := none, stopDue := false })).modCtx t (fun c => { c with
      slots := Tab.mapAll {} c.slots (fun s =>
        { s with bar := { s.bar with queue := [], spilling := [], refilling := [], pushWait := false, protectWait := false } }) })).ctx u) := fun _ => rfl
  have ho : opsOf e t = [] := by
    unfold opsOf
    rw [List.map_eq_nil_iff, List.filter_eq_nil_iff]
    intro p hp
    have g := mem_modMany_default none (opsOf d t) d.ptOps p hp
    intro hq
    exact g.2 (List.mem_map_of_mem (List.mem_filter.mpr ⟨g.1, hq⟩))
  have all : (e.ctx t).phase = .aborting ∧ (e.ctx t).abort = (d.ctx t).abort ∧ (e.ctx t).bellWait = none ∧
      ∀ u, u ≠ t → e.ctx u = d.ctx u := by
    refine ⟨by rw [hc, modCtx_ctx, modCtx_ctx], by rw [hc, modCtx_ctx, modCtx_ctx], by rw [hc, modCtx_ctx, modCtx_ctx], fun u hu => ?_⟩
    rw [hc, modCtx_ctx_ne _ _ _ _ hu, modCtx_ctx_ne _ _ _ _ hu]
  dsimp only
  rw [hs]
  by_cases r : d.seq.running = some t
  · rw [if_pos r]
    exact ⟨all.1, all.2.1, all.2.2.1, ho, fun _ => rfl, fun x => absurd r x, rfl, rfl, rfl, all.2.2.2⟩
  · rw [if_neg r]
    exact ⟨all.1, all.2.1, all.2.2.1, ho, fun x => absurd x r, fun _ => rfl, rfl, rfl, rfl, all.2.2.2⟩

/-- A task that has started and neither ended nor aborted, outside the dispatch of its own bundle, aborts with the cause given. -/
theorem abortTask_aborted (t : CtxId) (st : Status) (detail : Nat) (h : (d.ctx t).started = true) (g : (d.ctx t).abort = none)
    (e : endIssued d t = false) (n : d.seq.dispatch ≠ some t) : Aborted t st detail d (abortTask t st detail d) := by
  have e : abortTask t st detail d = stopIssue t (d.modCtx t (fun c => { c with abort := some (st, detail) })) := by
    simp [abortTask, lowerCause, h, g, e, n]
  rw [e]
  obtain ⟨h1, h2, h3, h4, h5, -, h7, h8, h9, h10⟩ := stopIssue_stops (d.modCtx t (fun c => { c with abort := some (st, detail) })) t
  refine ⟨h1, by rw [h2, modCtx_ctx], h3, h4, h5, h7, h8, h9, fun u hu => by rw [h10 u hu, modCtx_ctx_ne _ _ _ _ hu]⟩

/-- An abort raised by the bundle that is being dispatched takes effect at the next fabric cycle: only the cause is noted. -/
theorem abortTask_noted (t : CtxId) (st : Status) (detail : Nat) (h : (d.ctx t).started = true) (g : (d.ctx t).abort = none)
    (e : endIssued d t = false) (n : d.seq.dispatch = some t) :
    OnlyCtx t d (abortTask t st detail d) ∧
      (abortTask t st detail d).ctx t = { d.ctx t with abort := some (st, detail), stopDue := true } := by
  have e : abortTask t st detail d =
      (d.modCtx t (fun c => { c with abort := some (st, detail) })).modCtx t (fun c => { c with stopDue := true }) := by
    simp [abortTask, lowerCause, h, g, e, n]
  rw [e]
  refine ⟨⟨rfl, fun u hu => by rw [modCtx_ctx_ne _ _ _ _ hu, modCtx_ctx_ne _ _ _ _ hu]⟩, by rw [modCtx_ctx, modCtx_ctx]⟩

/-- A task that has not started, or whose END bundle has issued, does not abort; and a cause held from an earlier fabric cycle, or
one of the same cycle with no higher status code, is kept. -/
theorem abortTask_keeps (t : CtxId) (st : Status) (detail : Nat)
    (h : (d.ctx t).started = false ∨ endIssued d t = true ∨ lowerCause st (d.ctx t) = false) : abortTask t st detail d = d := by
  unfold abortTask
  rcases h with h | h | h <;> simp [h]

end Sys2Proof.Machine
end

