-- ==== Sys2Proof/Tests/Slice0.lean ====
section
/-! SUPPORT. Tests: ill-formed commands that WellFormed refuses, results worked out by hand from the spec, and for each statement with
hypotheses a state and operands that meet them (theorems `meets_…`). -/

namespace Sys2Proof.Tests

open Machine

set_option Elab.async false

/-! ### Small states -/

/-- A device in which context 0 runs and issues. -/
def runs (c : Ctx) : Dev := { ctxs := [(0, { c with phase := .running })], seq := { running := some 0, mode := .issuing } }

/-- The same with the sequencers in another state. -/
def runsIn (c : Ctx) (q : Seq) : Dev := { runs c with seq := { q with running := some 0 } }

/-- A bell on one token with a count, and a checkpoint bell on none. -/
def bellOn (tok : BitVec 12) (n : BitVec 8) : BellOp :=
  { tok0 := tok, cnt0 := n, tok1 := 0, cnt1 := 0, tok2 := 0, cnt2 := 0, ckpt := false, yielding := false }
def ckptBell : BellOp := { bellOn 0 0 with ckpt := true, yielding := true }

/-- A packet with an opcode, and a till that executes it. -/
def pkt (op : Nat) : Packet :=
  { opcode := BitVec.ofNat 16 op, flags := 0, seq := 0, paramLen := 0, rsv10 := 0, tag := 0, rsv24 := 0, check := 0, params := [] }
def busyTill (op : Nat) : Till := { enable := true, cur := some (pkt op) }

/-- Slot fields of each engine, all zero but the mask register, whose MASK0 names every slot. -/
def mx0 : MxOp :=
  { mask := 0, ldesc := 0, baseA := 0, baseB := 0, baseC := 0, stat := 0, fmtA := 0, fmtB := 0, fmtC := 0, preload := 0, baseP := 0
    accInto := false, sat := false, swap := false, accOff := 0, baseM := 0, full := false }
def vx0 : VxOp :=
  { mask := 0, ldesc := 0, baseA := 0, baseB := 0, baseC := 0, fmtIn := 0, fmtOut := 0, sat := false, stats := false, arg := 0 }
def tx0 : TxOp := { mask := 0, ldesc := 0, baseSrc := 0, baseDst := 0, fmtIn := 0, fmtOut := 0, dual := false }
def pt0 : PtOp :=
  { mask := 0, ldesc := 0, baseSrc := 0, baseDst := 0, frc := 0, token := 0, tokenEn := false, oparg := 0, ext := 0 }

/-- A step answers this next state. -/
def answers (r : Res) (t : State) : Bool := match r with | .next u => decide (u = t) | _ => false

/-- What holds of the device that a step answers. -/
def gives (r : Res) (p : Dev → Bool) : Bool := match r with | .next u => p u.dev | _ => false

/-! ### WellFormed -/

theorem refuses_matrix_fields : ([Instr.mma 0 { mx0 with stat := 3 }, .sload 0 { mx0 with preload := 3 }, .conv 0 { mx0 with fmtA := 11 },
    .attn 0 { mx0 with fmtB := 15 }, .accwrite 0 { mx0 with fmtC := 12 }].all (fun c => !c.wellFormed)) = true := by decide
theorem refuses_vector_fields : ([Instr.add 0 { vx0 with fmtIn := 11 }, .exp 0 { vx0 with fmtOut := 15 }, .tcopy 0 { tx0 with fmtIn := 11 },
    .tblock 0 { tx0 with fmtOut := 11 }].all (fun c => !c.wellFormed)) = true := by decide
theorem refuses_porter_fields : ([Instr.copy 0 { pt0 with frc := 1 }, .ring 0 { pt0 with oparg := 1 }, .encode 0 pt0, .decode 0 { pt0 with frc := 5 },
    .encode 0 { pt0 with frc := 1, oparg := 1 }, .lsend 0 { pt0 with frc := 1 }, .lsend 0 { pt0 with oparg := 0x10000 }, .lsend 0 { pt0 with ext := 0x2000 },
    .rxmax 0 { pt0 with frc := 1 }, .rsend 0 { pt0 with oparg := 0x1000 }, .rgather 0 { pt0 with oparg := 0x800, ext := 0x400 },
    .bpush 0 { pt0 with frc := 5 }, .bpop 0 { pt0 with frc := 7 }].all (fun c => !c.wellFormed)) = true := by decide
theorem refuses_mask0 : (Instr.mload 0 0 0).wellFormed = false := by decide
theorem accepts_edges : ([Instr.mma 0 { mx0 with stat := 2, preload := 2, fmtA := 10, fmtB := 10, fmtC := 10 }, .lsend 0 { pt0 with oparg := 0xFFFF, ext := 0x1FFF },
    .rsend 0 { pt0 with oparg := 0xFFF, ext := 0x3FF }, .decode 0 { pt0 with frc := 4 }, .bpop 0 { pt0 with frc := 4 }, .mload 0 15 0].all
    (fun c => c.wellFormed)) = true := by decide

/-! ### The bundle stream (02) -/

def sc0 : Ctx := { scal := [(1, 5)], tokens := [(7, 2)], issuePc := 3 }

theorem meets_scalars_and_branches : issuing (runs sc0) 0 = true ∧ ((runs sc0).ctx 0).scalar 1 ≠ 0 ∧ ((runs sc0).ctx 0).scalar 31 = 0 := by
  decide +kernel
theorem test_sadd_wraps : ∃ d', exec (.sadd 0 1 2 0xFFFFFFFF) { dev := runs { scal := [(1, 1), (2, 1)] } } = .next { dev := d' } ∧
    (d'.ctx 0).scalar 1 = 1 := ⟨_, rfl, by decide +kernel⟩
theorem meets_bases_and_masks : issuing (runs { masks := [(1, 2)] }) 0 = true ∧ actingSlots (runs { masks := [(1, 2)] }) 0 1 = [1] := by
  decide +kernel
theorem meets_bells : issuing (runs sc0) 0 = true ∧ replaying (runs sc0) = false ∧ (bellOn 7 2).ckpt = false ∧
    bellSatisfied ((runs sc0).ctx 0) (bellOn 7 2) = true ∧ bellSatisfied ((runs sc0).ctx 0) (bellOn 7 3) = false ∧ bellReady (runs sc0) 0 = true := by
  decide +kernel
def waiting : Dev := runsIn { sc0 with bellWait := some (bellOn 7 2) } { mode := .bellWait }
theorem meets_bell_release : waiting.seq.running = some 0 ∧ waiting.seq.mode = .bellWait ∧ (waiting.ctx 0).bellWait = some (bellOn 7 2) ∧
    bellSatisfied (waiting.ctx 0) (bellOn 7 2) = true ∧ replaying waiting = false ∧ (bellOn 7 2).ckpt = false ∧ clockStands waiting = false ∧
    bellReady (waitCycles 0 9 waiting) 0 = true := by decide +kernel
theorem meets_checkpoint_bell : issuing (runs sc0) 0 = true ∧ replaying (runs sc0) = false ∧ ckptBell.ckpt = true ∧
    bellSatisfied ((runs sc0).ctx 0) ckptBell = true ∧ (runs sc0).wall < ((runs sc0).ctx 0).ckptAt + 3300 ∧ bellReady (runs sc0) 0 = true ∧
    (let d := { runs sc0 with wall := 3300 }; issuing d 0 = true ∧ replaying d = false ∧ bellSatisfied (d.ctx 0) ckptBell = true ∧
      (d.ctx 0).ckptAt + 3300 ≤ d.wall ∧ bellReady d 0 = true ∧ hashDiffers d = none ∧ d.seq.adopt = [] ∧ d.seq.replay = none ∧
      (d.ctx 0).phase = .running ∧ (d.ctx 0).abort = none) := by decide +kernel
theorem meets_tokens_and_signals : issuing (runs sc0) 0 = true ∧ replaying (runs sc0) = false ∧ ((runs sc0).ctx 0).phase ≠ .idle ∧
    ((runs sc0).ctx 0).phase ≠ .aborting ∧ Tab.get 0 ((runs sc0).ctx 0).tokens 7 < 65535 ∧
    65535 ≤ Tab.get 0 ((runs { tokens := [(7, 65535)] }).ctx 0).tokens 7 ∧ ((runs { tokens := [(7, 65535)] }).ctx 0).abort = none ∧
    endIssued (runs { tokens := [(7, 65535)] }) 0 = false ∧ (runs { tokens := [(7, 65535)] }).seq.dispatch ≠ some 0 := by decide +kernel
theorem meets_end_bundle : issuing (runs sc0) 0 = true ∧ replaying (runs sc0) = false := by decide +kernel
theorem meets_issue_holds : (runs sc0).seq.running = some 0 ∧ (runs sc0).seq.replay = none ∧ (runs sc0).seq.mode = .issuing ∧
    (let d := { runs sc0 with cores := [(143, { txQ := [{ ctx := 0, slot := 127, op := 1 }] })] }
     d.seq.mode = .issuing ∧ (d.core 143).queue 2 ≠ []) ∧
    (let d := runsIn sc0 { mode := .hold }; d.seq.mode = .hold ∧ d.seq.ckptHold = false ∧ d.seq.tapHold = false ∧ d.seq.late = [] ∧ d.ptHeld = none ∧ d.seq.replay = none) ∧
    (let d := runsIn { bellWait := some ckptBell } { mode := .hold, ckptHold := true }; d.seq.ckptHold = true ∧
      (d.ctx 0).bellWait = some ckptBell ∧ d.seq.mode = .hold ∧ d.seq.replay = none ∧ ckptBell.ckpt = true ∧ clockStands d = false ∧
      bellReady d 0 = true ∧ hashDiffers d = none ∧ d.seq.adopt = [] ∧ (d.ctx 0).ckptAt + 3300 ≤ d.wall + 3300) := by decide +kernel
theorem meets_bell_watchdog : (let d := runsIn { bellWait := some (bellOn 9 1) } { mode := .bellWait }
    d.seq.running = some 0 ∧ (d.ctx 0).phase = .running ∧ (d.ctx 0).abort = none ∧ (d.ctx 0).bellWait = some (bellOn 9 1) ∧
      d.seq.mode = .bellWait ∧ d.seq.dispatch ≠ some 0 ∧ endIssued d 0 = false ∧ 9 ∈ bellMissing (d.ctx 0) (bellOn 9 1) ∧
      ∀ x ∈ bellMissing (d.ctx 0) (bellOn 9 1), 9 ≤ x) := by decide +kernel
theorem meets_stream_aborts : (let d := runs { sinceCkpt := 19801 }; d.seq.running = some 0 ∧ (d.ctx 0).phase = .running ∧ (d.ctx 0).abort = none ∧
      d.seq.dispatch ≠ some 0 ∧ endIssued d 0 = false ∧ 19800 < (d.ctx 0).sinceCkpt) ∧
    (let d := runs { abort := some (.badParam, 0) }; (d.ctx 0).abort ≠ none ∧ (d.ctx 0).stopDue = false ∧ d.seq.dispatch ≠ some 0) := by decide +kernel

/-- The bundle words of a program: an IDLE, an END, a bell and an empty ISSUE bundle. -/
def words4 : Prog := { bundles := [1, 2, 0x10, 0] }
def at4 (pc : Nat) (since : Nat) : Dev := runs { prog := some words4, pc := pc, sinceCkpt := since }
theorem meets_fetch : (∀ pc ∈ [0, 1, 2, 3], issuing (at4 pc 19800) 0 = true ∧ replaying (at4 pc 19800) = false ∧
      ((at4 pc 19800).ctx 0).sinceCkpt ≤ 19800 ∧ (at4 pc 19800).seq.preemptPending = false) ∧
    [0, 1, 2, 3].map (fun pc => (words4.bundle pc).cls) = [1, 2, 0, 0] ∧ (words4.bundle 2).bell = true ∧ (words4.bundle 3).bell = false ∧
    porterReady (at4 3 0) 0 (words4.bundle 3) = true ∧ lpBranches ((at4 3 0).ctx 0) (words4.bundle 3) = false ∧
    issuing (at4 0 19801) 0 = true ∧ 19800 < ((at4 0 19801).ctx 0).sinceCkpt := by decide +kernel
theorem meets_fetch_preempted : (let d := { runs { prog := some { bundles := [8] } } with seq := { running := some 0, mode := .issuing, preemptPending := true } }
    issuing d 0 = true ∧ replaying d = false ∧ ((d.ctx 0).theProg.bundle 0).yielding = true ∧ d.seq.preemptPending = true ∧ (d.ctx 0).bellDone = false) := by
  decide +kernel
theorem test_fetch_idle : (match step { dev := at4 0 0 } with
    | .next u => decide (u.pending = [.idleBundle 0 0] ∧ (u.dev.ctx 0).pc = 1 ∧ u.dev.wall = 0) | _ => false) = true := by
  decide +kernel
theorem meets_idle_step : ∀ t, issuing State.reset.dev t = false := by decide +kernel

/-- Every entry of core 0's porter is in use, and the next bundle holds a COPY of one element on slot 0. -/
def fullPorter : Core := { entries := (List.range 512).map (fun e => (e, { state := 1 })) }
def copyDue : Dev := { runs { prog := some { bundles := [0x101 * 2 ^ 208], descs := [oneElem] }, masks := [(1, 1)] } with cores := [(0, fullPorter)] }
theorem meets_fetch_held : issuing copyDue 0 = true ∧ replaying copyDue = false ∧ ((copyDue.ctx 0).theProg.bundle 0).cls = 0 ∧
    ((copyDue.ctx 0).theProg.bundle 0).bell = false ∧ porterReady copyDue 0 ((copyDue.ctx 0).theProg.bundle 0) = false := by decide +kernel

/-! Faults, replays, pre-emption. -/

theorem meets_core_faults : (let d := runs sc0; d.seq.running = some 0 ∧ (d.ctx 0).phase = .running ∧ d.seq.replay = none ∧
      servingCores d 127 = [142] ∧ Tab.get none d.err.coreFaultAt 142 = none) ∧
    (let d := { runs sc0 with err := { coreFaultAt := [(0, some 0)] }, wall := 600 * 1000 * msCycles }
     servingCores d 0 = [0] ∧ Tab.get none d.err.coreFaultAt 0 = some 0 ∧ d.wall ≤ 0 + failWindow d) ∧
    (let d := { runs sc0 with err := { coreFaultAt := [(0, some 0)] }, wall := 600 * 1000 * msCycles + 1 }
     Tab.get none d.err.coreFaultAt 0 = some 0 ∧ 0 + failWindow d < d.wall) := by decide +kernel
def snap0 : Snapshot := takeSnapshot ((runs sc0).ctx 0)
def rep0 : Replay := { ctx := 0, slots := [(0, 1)], kind := .accAdder, core := 0 }
theorem meets_replay_start : (let d := runsIn { sc0 with snaps := [snap0, snap0] } { mode := .hold, replay := some rep0 }
    d.seq.replay = some rep0 ∧ rep0.running = false ∧ rep0.held = none ∧
      (d.ctx 0).snaps[(rep0.slots.map (·.2)).foldl max 0]? = some snap0) := by decide +kernel
def held0 : HeldPoint :=
  { pc := 4, issuePc := 3, scal := [], loops := [], masks := [], bases := [], ended := false, bellWait := none, bellDone := false, issues := 0 }
theorem meets_replay_end : (let r := { rep0 with running := true, held := some held0, core := 143 }
    let d := runsIn sc0 { mode := .replay, replay := some r }
    d.seq.replay = some r ∧ r.next = [] ∧ r.adopted = false ∧ r.core < 144 ∧ atHeldPoint d (d.ctx 0) = true ∧ (d.ctx 0).hostAbort = false ∧ d.evt.retention = none) := by
  decide +kernel
theorem meets_preemption : (let d := { runsIn { sc0 with prog := some { bundles := [8] } } { mode := .issuing, preemptPending := true } with
      ctxs := [(0, { sc0 with phase := .running, prog := some { bundles := [8] } }), (15, { phase := .ready })] }
    (d.ctx 15).phase = .ready ∧ d.cfg.streamQuantum ≠ 0 ∧ d.seq.preemptPending = true ∧ atYieldPoint (d.ctx 0) = true ∧
      d.seq.replay = none ∧ (d.ctx 0).abort = none) := by decide +kernel
theorem meets_preempt_drain : (let d := runsIn { sc0 with prog := some { slotShare := [(0, 0x400000)] } } { mode := .saving, preempt := .draining 0 }
    Tab.wf (0 : Byte) d.mem = true ∧ savedSlots (d.ctx 0) = [0] ∧ localBase 0 ≤ saveAreaOf (d.ctx 0) 0 ∧
      saveAreaOf (d.ctx 0) 0 + saveAreaBytes ≤ localBase 1 ∧ d.seq.preempt = .draining 0 ∧ enginesIdle d 0 = true ∧ (d.ctx 0).abort = none ∧ (d.ctx 0).hostAbort = false) := by decide +kernel
def twoTasks : Dev := { runsIn {} { mode := .saving, preempt := .saved 0 } with
  ctxs := [(0, { phase := .running }), (2, { phase := .ready, saved := true, prog := some { slotShare := [(0, 0x400000)] } }), (15, { phase := .ready })] }
theorem meets_task_switch : twoTasks.seq.preempt = .saved 0 ∧ (twoTasks.ctx 0).phase = .running ∧ (twoTasks.ctx 2).phase = .ready ∧
    (∀ v : CtxId, v - 0 - 1 < (2 : CtxId) - 0 - 1 → (twoTasks.ctx v).phase ≠ .ready) ∧ Tab.wf (0 : Byte) twoTasks.mem = true ∧ savedSlots (twoTasks.ctx 2) = [0] ∧
    localBase 0 ≤ saveAreaOf (twoTasks.ctx 2) 0 ∧ saveAreaOf (twoTasks.ctx 2) 0 + saveAreaBytes ≤ localBase 1 ∧
    (runsIn {} { mode := .saving, preempt := .restored 0 }).seq.preempt = .restored 0 := by decide +kernel

/-! ### The engines (03 to 06) -/

theorem inStore_of (d : Dev) (t : CtxId) (k j a n : Nat) (hj : j / 8 = k / 8)
    (h : (List.range n).all (fun i => decide (placeOf (a + i) = .localStore j) && inLocalWindow (d.ctx t).theProg (a + i)) = true) :
    inStore d t k a n := by
  intro i hi
  have := List.all_eq_true.mp h i (List.mem_range.mpr hi)
  simp only [Bool.and_eq_true, decide_eq_true_eq] at this
  exact ⟨j, this.1, hj, this.2⟩

/-- Context 0 runs on slot 0 with a megabyte of its local store: bases 0 to 3 are at 0x100, 0x200, 0x300 and 0x400, and hold
2.0, 3.0, 0 and 0 in FP32 (0x40000000, 0x40400000). -/
def engineProg : Prog := { descs := [oneElem, oneProduct], slotShare := [(0, 0x100000)] }
def engineCtx : Ctx := { prog := some engineProg, masks := [(1, 1)], bases := [(0, 0x100), (1, 0x200), (2, 0x300), (3, 0x400)] }
def engine : Dev := { runs engineCtx with mem := [(0x103, 0x40), (0x202, 0x40), (0x203, 0x40)] }
def vx1 : VxOp := { vx0 with mask := 1, baseB := 1, baseC := 2 }
def tx1 : TxOp := { tx0 with mask := 1, baseSrc := 1, baseDst := 2 }
def mx1 : MxOp := { mx0 with mask := 1, ldesc := 1, baseB := 1, baseC := 2, baseM := 5 }

theorem on_slot (d : Dev) (n : Nat) (x : Desc) (h : d.cores = []) (g : issuing d 0 = true ∧ actingSlots d 0 1 = [0] ∧
    servingCores d 0 ≠ [] ∧ (d.ctx 0).theProg.descs[n]? = some x ∧ (d.ctx 0).srep = none ∧ d.seq.tapOn = false ∧ d.badSram = []) : OnOneSlot d 0 1 n 0 x :=
  ⟨g.1, g.2.1, g.2.2.1, g.2.2.2.1, g.2.2.2.2.1, g.2.2.2.2.2.1, g.2.2.2.2.2.2, by simp [inFlight, h],
    fun c => by simp [Dev.core, h, Tab.get]⟩

theorem meets_engine_ops : mx1.wellFormed = true ∧ vx1.wellFormed = true ∧ tx1.wellFormed = true ∧ issuing engine 0 = true ∧
    (engine.ctx 0).phase = .running := by decide +kernel
theorem meets_element : OnOneSlot engine 0 1 0 0 oneElem ∧ tx1.dual = false ∧ ((engine.ctx 0).slot 0).mxWait = [] ∧
    ∀ r ∈ [0, 1, 2], inStore engine 0 0 ((engine.ctx 0).base 0 r).toNat 4 := by
  refine ⟨on_slot _ _ _ rfl (by decide +kernel), by decide +kernel, by decide +kernel, fun r hr => ?_⟩
  simp only [List.mem_cons, List.not_mem_nil, or_false] at hr
  rcases hr with rfl | rfl | rfl <;> exact inStore_of _ _ _ 0 _ _ rfl (by decide +kernel)
theorem meets_product : OnOneSlot engine 0 1 1 0 oneProduct ∧ mx1.stat = 0 ∧ mx1.preload = 0 ∧ ((engine.ctx 0).base 0 5).toNat = 0 ∧
    (∀ l ∈ oneProduct.levels, l.split = false ∧ l.plist = false ∧ l.boundSrc = 0 ∧ 1 ≤ l.bound) ∧
    (let r := mxRun engine (issueOf engine 0 1 0) { mx1 with accOff := 2047 }
     r.blocks.headD [] = [0, 0, 0] ∧ r.valid [0, 0, 0] r.lm = [0] ∧ r.valid [0, 0, 0] r.ln = [0] ∧ r.lane 0 0 0 = 2047 * 1024 ∧
       r.start 0 + r.blockBytes = 2047 * 1024 + 4) ∧ followingWg engine (issueOf engine 0 1 0) mx1 = none :=
  ⟨on_slot _ _ _ rfl (by decide +kernel), by decide +kernel⟩
/-- The active bank of slot 0 holds the weight 3.0 read from 0x200. -/
def weight : Bank := { valid := true, tile := some { stat := 0, code := 0, ldesc := 1, base := 0x200, elems := [(8 * 0x200, Fmt.fp32.decode 0x40400000)] } }
def engineW : Dev := { engine with ctxs := [(0, { engineCtx with phase := .running, bellNo := 1, slots := [(0, { bank0 := weight })] })] }
theorem meets_mma : mx1.accInto = false ∧ mx1.swap = false ∧ dealt engineW 0 = false ∧ ((engineW.ctx 0).slot 0).openUnits = [] ∧
    ((engineW.ctx 0).slot 0).activeBank = weight ∧ interval engineW 0 ≤ weight.since + 1 ∧ OnOneSlot engineW 0 1 1 0 oneProduct ∧
    inStore engineW 0 0 0x100 4 ∧ inStore engineW 0 0 0x300 4 :=
  ⟨rfl, rfl, by decide +kernel, by decide +kernel, by decide +kernel, by decide +kernel, on_slot _ _ _ rfl (by decide +kernel),
    inStore_of _ _ _ 0 _ _ rfl (by decide +kernel), inStore_of _ _ _ 0 _ _ rfl (by decide +kernel)⟩
theorem test_add : gives (exec (.add 0 vx1) { dev := engine }) (fun d => rdNat d 0x300 4 == 0x40A00000) = true := by decide +kernel
/-- An ADD in flight over 0x300, where it writes 5.0 = 0x40A00000: the two bytes that change are kept as they were (R142). -/
theorem test_in_flight : gives (exec (.add 0 vx1) { dev := engine }) (fun d =>
    inFlight d == [(0x302, 0), (0x303, 0)] && inFlight (vxOpComplete 0 ⟨0, 0, false⟩ d) == []) = true := by decide +kernel
theorem test_mul : gives (exec (.mul 0 vx1) { dev := engine }) (fun d => rdNat d 0x300 4 == 0x40C00000) = true := by decide +kernel
theorem test_recip : gives (exec (.recip 0 vx1) { dev := engine }) (fun d => rdNat d 0x300 4 == 0x3F000000) = true := by decide +kernel
theorem test_tcopy : gives (exec (.tcopy 0 tx1) { dev := engine }) (fun d => rdNat d 0x300 4 == 0x40400000) = true := by decide +kernel
theorem test_mma : gives (exec (.mma 0 mx1) { dev := engineW }) (fun d => rdNat d 0x300 4 == 0x40C00000 && rdNat d 0x200000000 4 == 0x40C00000) = true := by
  decide +kernel
theorem test_cvt_saturates : Fmt.e4m3.encode true (Fmt.fp32.decode 0x44000000) = 0x7E := by decide +kernel
theorem meets_round_trip : (Fmt.e4m3.decode 0x7E).isNan = false ∧ (Fmt.e4m3.decode 0x7E).isInf = false ∧ (Fmt.e5m2.decode 0x7C).isInf = true ∧
    0x7E < 2 ^ Fmt.e4m3.bits := by decide +kernel

/-- OPTSTEP's record at 0x500 (KIND 0, LR and BETA of 0.5, plane 0x1000, DELTA 0x100). -/
def opt1 : VxOp := { vx1 with arg := 4 }
def optRec : List Byte :=
  leBytes 4 0 ++ leBytes 4 0x3F000000 ++ leBytes 4 0x3F000000 ++ leBytes 4 0x3F000000 ++ leBytes 4 0x3F800000 ++ leBytes 4 0 ++
    leBytes 4 0x3F800000 ++ leBytes 4 0x3F800000 ++ leBytes 4 0x3F800000 ++ leBytes 4 0 ++ leBytes 8 0x1000 ++ leBytes 8 0x100 ++ leBytes 8 0
def engineO : Dev := wrBytes 0x500 optRec { engine with
  ctxs := [(0, { engineCtx with phase := .running, bases := [(0, 0x100), (1, 0x200), (2, 0x340), (4, 0x500)] })] }
theorem meets_optstep : (let q := OptRec.ofBytes (rdBytes engineO 0x500 64)
      q.kind = 0 ∧ q.delta = 0x100 ∧ q.reserved = 0 ∧ q.plane = 0x1000) ∧ OnOneSlot engineO 0 1 0 0 oneElem ∧
    inStore engineO 0 0 0x500 64 ∧ (∀ x ∈ [0x100, 0x340, 0x200, 0x1200, 0x2200, 0x300, 0x1300, 0x2300], inStore engineO 0 0 x 4) ∧
    [0x340, 0x300, 0x1300, 0x2300].Pairwise apart := by
  refine ⟨by decide +kernel, on_slot _ _ _ rfl (by decide +kernel), inStore_of _ _ _ 0 _ _ rfl (by decide +kernel), fun x hx => ?_,
    by unfold apart; decide⟩
  refine inStore_of _ _ _ 0 _ _ rfl ?_
  revert x; decide +kernel

theorem meets_banks : (let d := { runs { slots := [(0, { sloadOut := 1 })] } with cores := [(0, { mxQ := [{ ctx := 0, slot := 0, op := 2 }] })] }
      coreOfSlot d 0 = some 0 ∧ ((d.ctx 0).slot 0).sloadOut ≠ 0) ∧
    (let d := { runs { slots := [(0, { mxWait := [{ instr := .mma 0 mx1, at_ := issueOf engineW 0 1 0, modes := {} }], bank1 := { valid := true } })] } with
       cores := [(0, { mxQ := [{ ctx := 0, slot := 0, op := 1, held := true }], mxState := 7 })] }
     coreOfSlot d 0 = some 0 ∧ (d.core 0).mxQ ≠ [] ∧ ((d.core 0).now d.wall).mxState = 7 ∧ ((d.ctx 0).slot 0).mxWait ≠ [] ∧
       ((d.ctx 0).slot 0).shadowBank.valid = true) := by decide +kernel
def flying (st : Nat) : Dev :=
  { cores := [(143, { mxState := st, mxQ := [{ ctx := 0, slot := 127, op := 1 }], vxQ := [{ ctx := 0, slot := 127, op := 1 }]
                      txQ := [{ ctx := 0, slot := 127, op := 1 }] })] }
theorem meets_engines_complete : (∀ t, ((flying 2).ctx t).srep = none) ∧
    ((flying 2).core 143).mxQ = [] ++ ({ ctx := 0, slot := 127, op := 1 } : Flight) :: [] ∧ ((flying 2).core 143).vxQ ≠ [] ∧
    ((flying 2).core 143).txQ ≠ [] ∧ Tab.get none (flying 2).err.coreFaultAt 143 = none ∧ (flying 2).evt.retention = none := by decide +kernel
/-- An array in a state with one operation that streams, or none. -/
def array (st : Nat) (q : List Flight) : Dev := { cores := [(0, { mxState := st, mxQ := q })] }
def stream1 : Flight := { ctx := 0, slot := 0, op := 1, cells := true }
theorem meets_arrays : (∀ st ∈ [2, 3, 4, 6], (((array st []).core 0).now 0).mxState = st ∧ (((array st []).core 0).now 0).streams = []) ∧
    (∀ st ∈ [2, 4], ((array st [stream1]).core 0).streams = [stream1] ∧ ((array st [stream1]).core 0).mxQ.any (·.cells) = true) ∧
    (let d : Dev := { awning := { paused := [(3, true)] } }
     Tab.get false d.awning.paused 3 = true ∧ targetOf d 3 = divOf d 3 ∧ sagHolds d 3 = false) := by decide +kernel
theorem meets_reserved : (Instr.mma 0 mx1).wellFormed = true ∧ (Instr.mma 0 { mx1 with stat := 3 }).wellFormed = false := by decide

/-! Tasks. -/

theorem noPools_of_none (d : Dev) (h : d.pools = []) (g : ∀ u, (d.ctx u).exhausted = false) : noPools d :=
  ⟨fun p _ => by simp [Dev.pool, h, Tab.get], g⟩
theorem noStreams_of_none (d : Dev) (h : d.codecs = []) : noStreams d := by
  intro u k _ _; simp [Dev.stream, Dev.codec, h, Tab.get]

def endsNow : Dev := { runs { ended := true, prog := some words4 } with tills := [(0, busyTill 0x0102)] }
def freesNow : Dev := { runsIn {} { mode := .aborting } with
  ctxs := [(0, { phase := .aborting, abort := some (.badParam, 3) })], tills := [(0, busyTill 0x0102)] }
theorem meets_tasks_end : (∀ d ∈ [endsNow, freesNow], noPools d ∧ noStreams d ∧ (d.ctx 0).record = 0 ∧ (d.ctx 0).srep = none ∧
      (d.till (taskTill 0)).aborts = [] ∧ (d.till (taskTill 0)).cur ≠ none ∧ d.seq.running = some 0 ∧ d.seq.replay = none) ∧
    atEnd endsNow 0 = true ∧ canFree freesNow 0 = true ∧ (freesNow.ctx 0).abort = some (.badParam, 3) := by
  refine ⟨fun d hd => ?_, by decide +kernel⟩
  simp only [List.mem_cons, List.not_mem_nil, or_false] at hd
  rcases hd with rfl | rfl
  · exact ⟨noPools_of_none _ rfl (by decide +kernel), noStreams_of_none _ rfl, by decide +kernel⟩
  · exact ⟨noPools_of_none _ rfl (by decide +kernel), noStreams_of_none _ rfl, by decide +kernel⟩

def run1 : RunParams := { step := 7, wdog := 0, seed := 0, record := 0, scalars := [9], inputs := [] }
def loaded : Dev := { ctxs := [(0, { prog := some words4 })], tills := [(0, busyTill 0x0102)] }
def starts : Dev := { ctxs := [(0, { prog := some words4, phase := .starting, run := some run1 })], tills := [(0, busyTill 0x0102)] }
theorem meets_tasks_start : noPools loaded ∧ noPools starts ∧ executing loaded (taskTill 0) 0x0102 = true ∧ (loaded.ctx 0).phase = .idle ∧
    (loaded.ctx 0).prog.isSome = true ∧ run1.record = 0 ∧ run1.inputs = [] ∧ canStart starts 0 = true ∧ (starts.ctx 0).hostAbort = false ∧
    (starts.ctx 0).run = some run1 ∧ starts.seq.running = none ∧ starts.seq.preempt = .none ∧ starts.seq.adopt = [] ∧
    (∀ u, (starts.ctx u).phase ≠ .ready) ∧ starts.ports = [] ∧ starts.codecs = [] :=
  ⟨noPools_of_none _ rfl (by decide +kernel), noPools_of_none _ rfl (by decide +kernel), by decide +kernel⟩

/-- An image of one section, whose one bundle is an END (R364): header of 64 bytes, section table entry, bundle. -/
def endBundle64 : List Byte := slice [2] 0 64
def image1 : List Byte :=
  leBytes 4 0x4D494753 ++ leBytes 2 1 ++ leBytes 2 1 ++ leBytes 8 0 ++ leBytes 8 144 ++ leBytes 40 0 ++
    leBytes 2 1 ++ leBytes 2 0 ++ leBytes 4 80 ++ leBytes 4 64 ++ leBytes 4 (crc32c endBundle64).toNat ++ endBundle64
def loads (c : Ctx) (op : Nat) : Dev := { ctxs := [(0, c)], tills := [(0, busyTill op)], lease := { valid := true } }
def noPlaces : Places := { names := [], pools := [] }
theorem meets_load : (let d := loads {} 0x0100
    executing d (taskTill 0) 0x0100 = true ∧ (d.ctx 0).phase = .idle ∧ (d.ctx 0).prog = none ∧ formFault image1 144 0 = none ∧
      (let p := progOf image1 []
       objEntries p.objects [] = [] ∧ imagePools p noPlaces = [] ∧ featureFault d 0 image1 p = none ∧ (firstLarge p).isNone = true ∧
         imageFault d image1 p noPlaces = none ∧ sharesMeet d 0 p = false ∧ residentBundles d + p.bundles.length ≤ 65536)) := by
  decide +kernel
theorem meets_unload : executing (loads { prog := some {} } 0x0101) (taskTill 0) 0x0101 = true ∧ ((loads { prog := some {} } 0x0101).ctx 0).phase = .idle ∧
    noStreams (loads { prog := some {} } 0x0101) ∧ ((loads { phase := .ready } 0x0101).ctx 0).phase ≠ .idle ∧
    executing (loads { phase := .ready } 0x0100) (taskTill 0) 0x0100 = true :=
  ⟨by decide +kernel, by decide +kernel, noStreams_of_none _ rfl, by decide +kernel⟩

/-- A step record of no inputs, tallies or scales, of a program whose digest is zero (R190). -/
def recordBody : List Byte :=
  leBytes 4 0x52435453 ++ leBytes 2 1 ++ leBytes 2 0 ++ leBytes 4 7 ++ leBytes 4 0 ++ leBytes 8 5 ++ leBytes 104 0 ++ leBytes 8 0 ++ leBytes 4 288 ++
    leBytes 116 0
def recordBytes1 : List Byte := recordBody ++ leBytes 32 (sha3 recordBody).toNat
def replay1 : ReplayParams := { record := 0x1000, scope := 0, taps := 64, wdog := 0, tapList := 0, outRecord := 0 }
def recorded : Dev := wrBytes 0x1000 recordBytes1 (loads { prog := some {} } 0x0104)
theorem meets_step_replay : executing recorded (taskTill 0) 0x0104 = true ∧ (recorded.ctx 0).phase = .idle ∧ replay1.scope.toNat ≤ 1 ∧
    replay1.taps.toNat ≤ 64 ∧ recordValid (recordAt recorded replay1.record.toNat) = true ∧ recordValid (recordAt recorded 0) = false ∧
    (recorded.ctx 0).prog.isSome = true ∧
    slice (recordAt recorded replay1.record.toNat) 24 32 = leBytes 32 (recorded.ctx 0).theProg.digest.toNat ∧ replay1.scope = 0 ∧
    inputMismatch recorded (recordAt recorded replay1.record.toNat) = none ∧ replay1.outRecord = 0 := by decide +kernel
/-- A program with one reduction, whose tokens are 3, 4 and 0. -/
def red0 : StepRep := { fabric := false, record := [], outRecord := 0, taps := [] }
def redProg : Prog := { reductions := leBytes 64 (3 * 2 ^ 256 + 4 * 2 ^ 272) }
theorem meets_replay_stop : (let d := runsIn { srep := some red0, bellWait := some (bellOn 3 1), prog := some redProg } { mode := .bellWait }
    (d.ctx 0).srep = some red0 ∧ (d.ctx 0).bellWait = some (bellOn 3 1) ∧ red0.fabric = false ∧ d.seq.running = some 0 ∧
      bellWaits (bellOn 3 1) = [(3, 1)] ∧ 3 ∈ redTokens redProg ∧ 3 ∉ ptTokens redProg) := by decide +kernel
theorem meets_tap_dump : (let d := runsIn { srep := some red0 } { mode := .hold, tapHold := true }
    (d.ctx 0).srep = some red0 ∧ d.seq.tapHold = true ∧ d.seq.mode = .hold ∧ d.seq.late = [] ∧ d.seq.ckptHold = false ∧ d.ptHeld = none ∧
      d.seq.replay = none) := by decide +kernel

theorem meets_steward : (let d := runs { stewardDue := some (4, []) }; (d.ctx 0).stewardDue = some (4, [])) ∧
    (let d := { runs {} with host := { agreed := 0x2000 } }
     expert d = true ∧ (d.ctx 0).stewardDue = none ∧ policyOk (policyMerge 0 0x10000000000020) = false) := by decide +kernel
/-- A policy entry: TAG 2, MODE 0, PLANNED E4M3 held, ALLOWED and CODE the same. -/
def polOld : BitVec 128 := BitVec.ofNat 128 (2 + 4 * 2 ^ 24 + 16 * 2 ^ 32 + 4 * 2 ^ 48 + 5 * 2 ^ 96)
theorem meets_policy_write : policyOk (policyMerge polOld polOld) = true ∧ policyMerge polOld polOld ≠ 0 ∧
    polMode (policyMerge polOld polOld) ≠ 1 ∧ polMode (policyMerge polOld polOld) ≠ 3 := by decide +kernel
theorem meets_waiting_run : (let d := loads { prog := some {} } 0x0102
    let p : RunParams := { step := 0, wdog := 0, seed := 0, record := 0, scalars := [], inputs := [0] }
    runNeedsFirmware d 0 { p with inputs := [] } = false ∧ (runNeedsFirmware { d with cfg := { hashEn := true } } 0 p = true ∧ firmwareServes d = true)) := by
  decide +kernel

/-! ### Barrows and porters (07, 12) -/

/-- Context 0 with a barrow of four units at 0x40000 in slot 0, whose unit 0 is held, and what a porter operation needs. -/
def bar0 : Barrow := { winBase := 0x40000, winUnits := 4, spillBase := 0x1000000000, capUnits := 8, win := [(0, some { unit := 0, dirty := true })] }
def pt1 : PtOp := { pt0 with mask := 1, baseSrc := 0, baseDst := 2, oparg := 5, ext := 9 }
def porterCtx (b : Barrow) : Ctx := { engineCtx with phase := .running, slots := [(0, { bar := b })] }
def porter (b : Barrow) : Dev := { engine with ctxs := [(0, porterCtx b)], ptNext := 4 }
def issue0 : Issue := issueOf (porter bar0) 0 1 0
theorem meets_barrow_issue : issuing (porter bar0) 0 = true ∧ replaying (porter bar0) = false ∧ ((porter bar0).ctx 0).srep = none ∧
    actingSlots (porter bar0) 0 1 = [0] ∧ pt1.frc.toNat ≤ 4 ∧ ((porter bar0).bar 0 0).queue = [] ∧
    (∀ c ∈ [Instr.bpush 0 pt1, .bpushoff 0 pt1, .bpop 0 pt1], (ptStops (porter bar0) c pt1 issue0).isNone = true ∧
      ptSteps (porter bar0) c issue0 ≠ 0 ∧ canAccept (porter bar0) c [0] = true) ∧
    (ptStops (porter bar0) (.bpushrc 0 pt1) pt1 issue0).isNone = true ∧ pt1.tokenEn = false ∧ bar0.holds 0 = true ∧
    bar0.isProtected 0 0 64 = false ∧ bar0.top + 64 ≤ bar0.capUnits * 65536 := by decide +kernel
/-- Its operation 3, of one transfer, in entry 6 of core 0. -/
def moving (b : Barrow) (c : Instr) (st : Nat) (hdr : Option Nat) : Dev :=
  { porter { b with queue := if isBarrow c then [3] else [] } with
    ptOps := [(3, some { instr := c, ctx := 0, token := none, parts := [{ at_ := issue0, steps := 1, hdr := hdr }] })]
    cores := [(0, { entries := [(6, { state := st, op := 3 })] })] }
/-- The barrow after a push of one FP32 element at 0: payload 2.0 at 0x40000, its header at 0x40020 (R158). -/
def pushed : Dev := wrBytes 0x40000 (leBytes 4 0x40000000 ++ leBytes 28 0 ++ leBytes 4 4 ++ leBytes 2 0 ++ leBytes 2 5 ++ leBytes 4 0 ++ leBytes 4 1)
  (moving { bar0 with top := 64, entries := 1 } (.bpop 0 { pt1 with baseDst := 3 }) 1 none)
def popping : Dev := wrBytes 0x40000 (leBytes 4 0x40000000 ++ leBytes 28 0 ++ leBytes 4 4 ++ leBytes 2 0 ++ leBytes 2 5 ++ leBytes 4 0 ++ leBytes 4 1)
  (moving bar0 (.bpop 0 { pt1 with baseDst := 3 }) 2 (some 32))
theorem meets_push_and_pop : issue0.t = 0 ∧ issue0.k = 0 ∧ issue0.rank < issue0.n ∧ oneElem.fa.toNat = 0 ∧
    (let d := moving bar0 (.bpush 0 pt1) 2 (some 32)
     (d.entry 0 6).state = 2 ∧ inFlight d = [] ∧ (d.ctx 0).theProg.descs[0]? = some oneElem ∧ d.badSram = [] ∧ d.badBlocks = [] ∧
       (d.core 0).backlog = [] ∧ (d.bar 0 0).queue = [3] ∧ bar0.holds (bar0.top / 65536) = true ∧ bar0.armed = []) ∧
    (∀ d ∈ [pushed, popping], (let h := Header.ofBytes (Barrow.bytes d (d.bar 0 0) 32 32)
       h.kind = 0 ∧ h.frc = 0 ∧ h.payload = 4 ∧ h.fmt = 0 ∧ h.elements = 1 ∧ h.tag % 2 ^ 12 = 5)) ∧
    (pushed.bar 0 0).top = 32 + 32 ∧ 0 < (pushed.bar 0 0).entries ∧ earlierWaits pushed (pushed.entry 0 6) = false ∧
    Tab.wf (none : Option WinPos) (pushed.bar 0 0).win = true ∧ (popping.entry 0 6).state = 2 := by decide +kernel
theorem test_push_lands : gives (exec (.transferLanded 0 ⟨6, 0⟩) { dev := moving bar0 (.bpush 0 pt1) 2 (some 32) }) (fun d =>
    rdNat d 0x40000 4 == 0x40000000 && rdNat d 0x40020 4 == 4 && rdNat d 0x40026 2 == 5 && rdNat d 0x4002C 4 == 1 &&
      (d.bar 0 0).top == 64 && (d.bar 0 0).entries == 1 && (d.op 3).isNone) = true := by decide +kernel
theorem test_pop_starts : gives (exec (.transferIssue 0 6) { dev := pushed }) (fun d =>
    (d.entry 0 6).state == 2 && (d.bar 0 0).top == 0 && (d.bar 0 0).entries == 0 && (d.op 3).isSome) = true := by decide +kernel
theorem test_pop_lands : gives (exec (.transferLanded 0 ⟨6, 0⟩) { dev := popping }) (fun d =>
    rdNat d 0x400 4 == 0x40000000 && (d.bar 0 0).queue == [] && (d.op 3).isNone) = true := by decide +kernel
theorem test_rc_pushes : gives (exec (.bpushrc 0 pt1) { dev := porter bar0 }) (fun d =>
    rdNat d 0x40000 4 == 9 && rdNat d 0x40020 4 == 8 && rdNat d 0x40024 1 == 3 && rdNat d 0x40026 2 == 5 && (d.bar 0 0).top == 64) = true := by
  decide +kernel

theorem meets_units_move : (let d := porter { bar0 with spilling := [0], refilling := [1] }
    0 ∈ (d.bar 0 0).spilling ∧ (d.bar 0 0).holds 0 = true ∧ Tab.wf (0 : Byte) d.mem = true ∧ 1 ∈ (d.bar 0 0).refilling ∧
      (d.bar 0 0).at_ 1 = none ∧ 7 ∉ (d.bar 0 0).spilling ∧ 7 ∉ (d.bar 0 0).refilling) := by decide +kernel
theorem test_spill : gives (exec (.spillDone 0 0 0) { dev := { porter { bar0 with spilling := [0] } with mem := [(0x40000, 7), (0x4FFFF, 8), (0x50000, 9)] } })
    (fun d => rdByte d 0x1000000000 == 7 && rdByte d 0x100000FFFF == 8 && rdByte d 0x1000010000 == 0 && rdByte d 0x40000 == 7) = true := by
  decide +kernel
theorem meets_push_waits : (let b := { bar0 with queue := [3], pushWait := true, protectWait := true }
    let d := moving b (.bpush 0 pt1) 1 none
    (d.bar 0 0).pushWait = true ∧ (d.bar 0 0).protectWait = true ∧ (d.bar 0 0).queue = [3] ∧ pushWait (d.bar 0 0) (d.ctx 0).bellNo 64 false = .go ∧
      pushWait ((d.bar 0 0).empty (d.ctx 0).bellNo) (d.ctx 0).bellNo 64 false = .go ∧ pt1.frc = 0) := by decide +kernel
def armed0 : Armed := { index := 2, lead := 0, host := 0x800000000000, landing := 0x300, frc := 0, data := [5], instr := .bpushoff 0 pt1, at_ := issue0 }
def landingNow : Dev :=
  { porter { bar0 with armed := [{ armed0 with back := 2, data := [0, 0, 0, 0x40] }] } with
    ptOps := [(3, some { instr := .bpushoff 0 pt1, ctx := 0, token := none, parts := [{ at_ := issue0, steps := 1 }], back := some 2 })]
    cores := [(0, { entries := [(6, { state := 2, op := 3 })] })], mem := [(0x800000000003, 0x40)] }
theorem meets_host_sends : armed0.acked = false ∧ armed0.back = 0 ∧ armed0.data = [5] ∧ armed0.pushOp = none ∧
    (∀ a ∈ [armed0], a.index = 7 → a.acked = true) ∧ (∀ a ∈ [armed0], a.index = 2 → a.back ≠ 2) ∧
    entriesOf landingNow 3 0 = [(0, 6)] ∧ (landingNow.core 0).backlog = [] ∧ (landingNow.bar 0 0).armed.map (·.back) = [2] := by decide +kernel
theorem test_back_lands : gives (exec (.prefetchBackLanded 0 0 2) { dev := landingNow }) (fun d =>
    rdNat d 0x300 4 == 0x40000000 && (d.bar 0 0).armed.map (·.back) == [3] && d.offFetched == 4 && (d.op 3).isNone) = true := by decide +kernel
theorem meets_pool_expiry : (let d : Dev := { pools := [(3, { queue := [0], taken := some 1 })] }
    (d.pool 3).queue.head? = some 0 ∧ (d.pool 3).taken = some 1 ∧ (d.pool 0).taken = none) := by decide +kernel

theorem meets_porter_issue : (let o := { pt1 with oparg := 0, ext := 0 }
    let d := porter bar0
    (Instr.copy 0 o).wellFormed = true ∧ (Instr.rsend 0 { o with oparg := 0x800 }).wellFormed = true ∧ issuing d 0 = true ∧ replaying d = false ∧
      actingSlots d 0 1 = [0] ∧ (ptStops d (.copy 0 o) o issue0).isNone = true ∧ (lsendDest d o).isSome = true ∧
      ptSteps d (.copy 0 o) issue0 ≠ 0 ∧ canAccept d (.copy 0 o) [0] = true ∧ isStandby (.rsend 0 { o with oparg := 0x800 }) = true ∧
      canAccept { d with cores := [(0, fullPorter)] } (.copy 0 o) [0] = false) := by decide +kernel
theorem meets_copies : (let d := moving bar0 (.copy 0 { pt1 with oparg := 0 }) 1 none
    (d.entry 0 6).state = 1 ∧ inFlight d = [] ∧ (d.entry 0 6).step = 0 ∧ (d.op 3).isSome = true ∧ d.badSram = [] ∧ (d.ctx 0).phase = .running ∧
      Tab.get 0 (d.ctx 0).tokens 0 < 65535) ∧ inStore engine 0 0 0x100 4 ∧ inStore engine 0 0 0x300 4 :=
  ⟨by decide +kernel, inStore_of _ _ _ 0 _ _ rfl (by decide +kernel), inStore_of _ _ _ 0 _ _ rfl (by decide +kernel)⟩
theorem test_copy_lands : gives (exec (.transferLanded 0 ⟨6, 0⟩) { dev := moving bar0 (.copy 0 { pt1 with oparg := 0 }) 2 none }) (fun d =>
    rdNat d 0x300 4 == 0x40000000 && (d.op 3).isNone && (d.entry 0 6) == { gen := 1 }) = true := by decide +kernel
/-- A COPY from the host tier: the home of name 0x800000100000 lies at 0x800000000000. -/
def hostCopy (st : Nat) : Dev :=
  { moving bar0 (.copy 0 { pt1 with oparg := 0 }) st none with
    homes := [(1, { name := 0x800000100000, size := 65536, place := 0x800000000000, tier := 2, valid := true, contexts := 0xFFFF })]
    ctxs := [(0, { porterCtx bar0 with bases := [(0, 0x800000100000), (2, 0x300)] })]
    ptOps := [(3, some { instr := .copy 0 { pt1 with oparg := 0 }, ctx := 0, token := none
                         parts := [{ at_ := { issue0 with bases := [(0, 0x800000100000), (2, 0x300)] }, steps := 1 }] })] }
theorem meets_transfer_fails : (∀ st ∈ [0, 1, 2, 3], ((hostCopy st).entry 0 6).state = st) ∧ ((hostCopy 2).entry 0 6).gen ≠ 5 ∧
    ((hostCopy 2).ctx 0).started = true ∧ ((hostCopy 2).ctx 0).abort = none ∧
    (match (hostCopy 2).op 3 with
     | some r => (match r.part 0 with | some p => hostAddr (hostCopy 2) ((hostCopy 2).entry 0 6) r p | none => none)
     | none => none) = some 0x800000000000 := by decide +kernel
theorem meets_cancel : (let d : Dev := { cores := [(0, { cancelling := some 0, entries := [(6, { state := 3 })] })] }
    Tab.wf ({} : Core) d.cores = true ∧ (d.core 0).cancelling = some 0 ∧ (d.core 0).backlog = [] ∧ (d.entry 0 6).state = 3 ∧ (d.entry 0 6).ctx = 0) ∧
    ∀ k, Tab.wf ({} : Entry) ((Dev.core { cores := [(0, { cancelling := some 0, entries := [(6, { state := 3 })] })] } k).entries) = true := by
  refine ⟨by decide +kernel, fun k => ?_⟩
  by_cases h : k = 0
  · subst h; decide +kernel
  · simp [Dev.core, Tab.get, Ne.symm h, Tab.wf]

/-! ### Convolution, attention and pitches (09, 10) -/

/-- A convolution record of `f` by `f` taps over one position, weights one element apart. -/
def convRec (f : Nat) : List Byte :=
  leBytes 4 (1 + 0x100 * f + 0x10000 * f) ++ leBytes 4 0x010101 ++ leBytes 4 0x010101 ++ leBytes 8 0 ++ leBytes 4 1 ++ leBytes 2 1 ++ leBytes 2 1 ++
    leBytes 4 1 ++ leBytes 8 1 ++ leBytes 8 1 ++ leBytes 4 1 ++ leBytes 2 1 ++ leBytes 2 1 ++ List.replicate 8 0
/-- An attention record of one head and one element, its K, V, STAT, LEN, DO, DK, DV and DROW at the bases 8 to 15. -/
def attnRec : List Byte :=
  leBytes 4 0x010101 ++ leBytes 4 0x3F800000 ++ leBytes 4 1 ++ leBytes 4 0 ++ [0, 0, 0, 0, 0, 1, 0, 0] ++ [8, 9, 10, 11, 12, 13, 14, 15] ++
    List.replicate 32 0
def fieldProg : Prog := { engineProg with conv := [convRec 1, convRec 3], attn := [attnRec] }
/-- 2.0 at 0x100 and eight weights after 3.0 at 0x200; a key 0x3F800ABC at 0x600, a value 0x40400DEF at 0x700, the state (0, 1) at 0x800, a length table
of one token at 0x900, a page list at 0x2000 whose pitch 0 is at 0x4000. -/
def fieldCtx (banks : Bank) : Ctx := { engineCtx with
  phase := .running, prog := some fieldProg, bellNo := 1, slots := [(0, { bank0 := banks })]
  bases := engineCtx.bases ++ [(8, 0x600), (9, 0x700), (10, 0x800), (11, 0x900), (12, 0xA00), (13, 0xB00), (14, 0xC00), (15, 0xD00)] }
def fieldDev (bank : Bank) : Dev :=
  wrBytes 0x600 (leBytes 4 0x3F800ABC) (wrBytes 0x700 (leBytes 4 0x40400DEF) (wrBytes 0x804 (leBytes 4 0x3F800000)
    (wrBytes 0x900 (leBytes 8 0x2000 ++ leBytes 4 1 ++ leBytes 4 1) (wrBytes 0x2000 (leBytes 4 0x100000) (wrBytes 0x3000 (leBytes 8 0x4000 ++ leBytes 4 1)
      { engine with ctxs := [(0, fieldCtx bank)], pools := [(0, { fmt := 1, layers := 1, hkv := 1, table := 0x3000 })] })))))
def mxC : MxOp := { mx1 with baseM := 0 }
def mxW : MxOp := { mx1 with baseM := 1 }
def kernel3 : List (List Machine.Num) :=
  (List.range 3).map (fun a => (List.range 3).map (fun b => wordAt (fieldDev {}) (0x200 + 4 * (3 * a + b))))
def wgBank (n : Nat) : Bank :=
  { valid := true, tile := some { stat := 0, code := 32 * n, ldesc := 1, base := 0x200, elems := [(8 * 0x200, ((wgKernel n .fp32 kernel3).headD []).headD .zero)] } }

theorem meets_convolution : OnOneSlot (fieldDev weight) 0 1 1 0 oneProduct ∧ mxC.wellFormed = true ∧
    ((fieldDev weight).ctx 0).theProg.conv[0]? = some (convRec 1) ∧ OneTap (ConvRec.ofBytes (convRec 1)) ∧ dealt (fieldDev weight) 0 = false ∧
    bankHasOne (fieldDev weight) 0 0 0 1 0x200 (Fmt.fp32.decode 0x40400000) ∧ ((fieldDev weight).ctx 0).base 0 1 = 0x200 ∧
    inStore (fieldDev weight) 0 0 0x100 4 ∧ inStore (fieldDev weight) 0 0 0x300 4 :=
  ⟨on_slot _ _ _ rfl (by decide +kernel), by decide +kernel, by decide +kernel, ⟨by decide +kernel, by decide +kernel, by decide +kernel⟩,
    by decide +kernel, ⟨by decide +kernel, by decide +kernel⟩, by decide +kernel, inStore_of _ _ _ 0 _ _ rfl (by decide +kernel),
    inStore_of _ _ _ 0 _ _ rfl (by decide +kernel)⟩
theorem test_convolutions : [Instr.conv 0 mxC, .convt 0 mxC, .convdw 0 mxC].all (fun c =>
    gives (exec c { dev := fieldDev weight }) (fun d => rdNat d 0x300 4 == 0x40C00000)) = true := by decide +kernel
theorem meets_winograd : (∀ n ∈ [2, 4], bankHasOne (fieldDev (wgBank n)) 0 0 (32 * n) 1 0x200 (((wgKernel n .fp32 kernel3).headD []).headD .zero)) ∧
    ((fieldDev (wgBank 4)).ctx 0).theProg.conv[1]? = some (convRec 3) ∧ (let q := ConvRec.ofBytes (convRec 3)
      q.ft = 1 ∧ q.fh = 3 ∧ q.fw = 3 ∧ q.pt = 0 ∧ q.ph = 0 ∧ q.pw = 0 ∧ 1 ≤ q.tin ∧ q.hin = 1 ∧ q.win = 1 ∧ q.oh = 1 ∧ q.ow = 1 ∧ q.wtap = 1) ∧
    (∀ j : Nat, j < 9 → inStore (fieldDev (wgBank 4)) 0 0 (0x200 + 4 * j) 4) := by
  refine ⟨fun n hn => ?_, by decide +kernel, by decide +kernel, fun j hj => inStore_of _ _ _ 0 _ _ rfl (by revert j; decide +kernel)⟩
  simp only [List.mem_cons, List.not_mem_nil, or_false] at hn
  rcases hn with rfl | rfl <;> exact ⟨by decide +kernel, by decide +kernel⟩
theorem meets_attention : (attnOf (fieldDev {}) 0 mxC).dim = 1 ∧ (let r := attnBase (fieldDev {}) 0 0 mxC
      [r 0, r 1, r 2, r 3, r 4, r 5, r 6, r 7] = [0x600, 0x700, 0x800, 0x900, 0xA00, 0xB00, 0xC00, 0xD00]) ∧ rdNat (fieldDev {}) 0x908 4 = 1 ∧
    rdNat (fieldDev {}) 0x90C 4 = 1 ∧ keyMasked (attnOf (fieldDev {}) 0 mxC) 1 0 0 = false ∧ OnOneSlot (fieldDev {}) 0 1 1 0 oneProduct ∧
    [0x300, 0xB00, 0xC00].Pairwise apart ∧ ∀ a ∈ [0x100, 0x300, 0x600, 0x700, 0x800, 0x900, 0xA00, 0xB00, 0xC00, 0xD00], inStore (fieldDev {}) 0 0 a 16 := by
  refine ⟨by decide +kernel, by decide +kernel, by decide +kernel, by decide +kernel, by decide +kernel, on_slot _ _ _ rfl (by decide +kernel),
    by unfold apart; decide, fun a ha => inStore_of _ _ _ 0 _ _ rfl ?_⟩
  revert a; decide +kernel
theorem meets_pitches : (let d := fieldDev {}
    let q := attnOf d 0 mxC
    let p := d.pool q.pool
    p.fmtOf.bits = 16 ∧ listCap d p 0x2000 = none ∧ leNat (hubRd d 0x2000 4) = 0x100000 ∧ leNat (hubRd d 0x3000 6) = 0x4000 ∧
      leNat (hubRd d 0x3008 4) = 1 ∧ q.group = 1 ∧ q.new = 1 ∧ p.dim = 64 ∧ rdNat d 0x900 6 = 0x2000) ∧
    ([0x4000, 0x4001, 0x4800, 0x4801].map (physical (fieldDev {}))).Nodup := by decide +kernel
theorem test_kv_append : gives (exec (.kvAppend 0 mxC) { dev := fieldDev {} }) (fun d => rdNat d 0x4000 4 == 0xABC && rdNat d 0x4800 4 == 0xDEF) =
    true := by decide +kernel

/-! ### Stack memory, the host tier and the home table (11, 12) -/

/-- Two stacks' worth of nothing lost; the task in context 0 runs; one block fails; the window serves a megabyte of the name at
0x1000000000, where home 0 lies. -/
def stackDev : Dev :=
  { runs {} with
    mem := [(0x1000000001, 7)], homes := [(0, { name := 0x1000000000, size := 0x40000, place := 0x1000010000, tier := 1, valid := true })]
    host := { rate := 5, winName := 0x1000000000, winSize := 0x100000 }, fabric := { stacksReady := true } }
theorem meets_stack_access : isStack 0x1000000000 = true ∧ populated stackDev 0x1000000000 = true ∧ isStack 0x5000 = false ∧
    (stackDev.stk 0).refresh = false ∧ 0x1000000000 ∉ stackDev.badBlocks ∧
    (stackDev.chan (chanOfAddr stackDev 0x1000000000).1 (chanOfAddr stackDev 0x1000000000).2).state = 0 ∧
    rebuildable stackDev (chanOfAddr stackDev 0x1000000000).1 (chanOfAddr stackDev 0x1000000000).2 = true ∧
    (stackDev.ctx 0).phase ≠ .idle ∧ (stackDev.ctx 0).abort = none ∧ endIssued stackDev 0 = false ∧ stackDev.seq.dispatch ≠ some 0 ∧
    (stackDev.stk (chanOfAddr stackDev 0x1000000000).1).refresh = false ∧
    (stackDev.stkCfg 0).scrubEnable = true ∧ ({ stackDev with stks := [(0, { trained := true })] }.stk 0).trained = true ∧
    (∀ i ∈ [0, 1, 2], isStack (0x1000000000 + i) = true ∧ populated stackDev (0x1000000000 + i) = true) := by decide +kernel
theorem meets_window : windowServes stackDev 0 2 = true ∧
    (∀ i ∈ [0, 1], translate stackDev (stackDev.host.winName.toNat + i) = some (0x1000010000 + i) ∧ isStack (0x1000010000 + i) = true ∧
      populated stackDev (0x1000010000 + i) = true) ∧ translate stackDev (stackDev.host.winName.toNat + 0x40000) = none := by decide +kernel
theorem test_stack_write : gives (exec (.stackWrite 0x1000000000 [1, 2]) { dev := stackDev }) (fun d => d.mem == [(0x1000000000, 1), (0x1000000001, 2)]) = true := by
  decide +kernel
theorem test_no_rebuild : gives (exec (.stackRead 0x1000000000 2 (some 0) .unrebuilt) { dev := stackDev }) (fun d =>
    d.badBlocks == [0x1000000000] && (d.ctx 0).abort.isSome) = true := by decide +kernel

/-- Channel 5 of stack 0 in each phase of its loss; nothing is placed in its band. -/
def losing (n : Nat) : Dev := { losses := [{ stack := 0, chan := 5, band := 1, phase := n }] }
theorem meets_losses : ((Dev.chan {} 0 5).role ≠ 1 ∧ (Dev.chan {} 0 5).state ≠ 1 ∧ lossOf {} 0 5 = none) ∧
    (∀ n ∈ [0, 1, 2], lossOf (losing n) 0 5 = some { stack := 0, chan := 5, band := 1, phase := n }) ∧
    (losing 0).losses.find? (fun q => q.stack / 3 == 0 / 3 && q.phase == 0) = some { stack := 0, chan := 5, band := 1, phase := 0 } ∧
    (losing 0).moves = [] ∧ liveHomes (losing 0) = [] ∧ 96 + 6 * 10 ≤ 10 * (20 : BitVec 10).toNat ∧
    (let d := Dev.modChan {} 0 5 (fun c => { c with state := 2 })
     (d.chan 0 5).state = 2 ∧ isOut d 0 5 = false ∧ d.repair.step = 0) ∧
    5 ∈ ((Dev.modStk {} 0 (fun k => { k with resilver := [5] })).stk 0).resilver ∧ (Dev.fabric {}).state ≠ 2 := by decide +kernel

/-- The results of its completion records, which wait for a place in the ring where it has none. -/
def answersOf (d : Dev) : List (BitVec 32) := ((d.till mgmtTill).records ++ (d.till mgmtTill).held).map (·.result)
/-- The management till executes a packet, with a repair of channel 5 of stack 0 at a step, or a test. -/
def mgmt (op : Nat) : Dev := { tills := [(16, busyTill op)], lease := { valid := true } }
def rep5 (n : Nat) : Dev := { mgmt 0x22 with repair := { chan := 5, step := n, needRows := 1 }, losses := (losing 3).losses }
theorem meets_repairs : executing (mgmt 0x22) mgmtTill 0x0022 = true ∧ ((mgmt 0x22).till mgmtTill).cur ≠ none ∧ isOut (mgmt 0x22) 0 5 = false ∧
    ((mgmt 0x22).chan 0 5).state = 0 ∧ drainRefused (mgmt 0x22) 0 5 = false ∧ partnerOf 5 = some 4 ∧ drainRefused (mgmt 0x22) 0 4 = false ∧
    (((mgmt 0x22).modChan 0 5 (fun c => { c with state := 3 })).chan 0 5).state ≠ 0 ∧
    (∀ n ∈ [1, 2, 3, 4, 5, 6], (rep5 n).repair.step = n ∧ isOut (rep5 n) 0 5 = true ∧ ((rep5 n).chan 0 5).rowsLeft = 64 ∧
      ((rep5 n).chan 0 5).colsLeft = 16) := by decide +kernel
/-- A taste result of a channel that passes. -/
def passes : TasteResult := { pass := true, failing := 0, first := 0, last := 0, rows := 0, cols := 0 }
theorem test_repair_done : gives (exec (.repairStepDone passes 0 10) { dev := rep5 6 }) (fun d =>
    d.repair.step == 0 && d.repair.repaired && answersOf d == [1 + 2 ^ 24 * 6]) = true := by decide +kernel
theorem test_repair_fails : gives (exec (.repairStepDone { passes with cols := 17 } 0 10) { dev := rep5 3 }) (fun d =>
    (d.chan 0 5).state == 4 && answersOf d == [2 ^ 24 * 3]) = true := by decide +kernel
/-- A repair of channel 5 in a step whose begin record stands in the journal. -/
def journaled (n : Nat) (cut : Bool) : Dev :=
  { rep5 n with repair := { chan := 5, step := n, cut := cut, journal := [{ stack := 0, chan := 5, step := n, phase := 0, sequence := 1, rows := 0, cols := 0, prior := 0 }] } }
theorem meets_holdup : (let d := journaled 4 false
    d.repair.step ≠ 0 ∧ d.repair.cut = false ∧ 10 * (0 : BitVec 10).toNat < 96 + 6 * 0 ∧ isOut d d.repair.stack d.repair.chan = true ∧
      d.repair.journal.getLast?.map (fun j => (j.stack, j.chan, j.phase, j.step)) = some (0, 5, 0, 4)) ∧
    (journaled 4 true).repair.cut = true := by decide +kernel
/-- The status of the record of the management till's packet, and whether one was formed (R359). -/
def statusOf (d : Dev) : Option Status := (((d.till mgmtTill).records ++ (d.till mgmtTill).held).getLast?).map (·.status)
theorem test_holdup_stops : gives (exec (.repairStepDone passes 0 0) { dev := journaled 4 false }) (fun d =>
    statusOf d == some .holdupLow && d.repair.step == 0 && (d.chan 0 5).state == 4) = true := by decide +kernel
theorem test_cut_repair_waits : answers (exec (.repairStepDone passes 0 10) { dev := journaled 4 true }) { dev := journaled 4 true } = true := by
  decide +kernel
theorem meets_journal : (let d : Dev := { repair := { journal := [{ stack := 0, chan := 5, step := 3, phase := 0, sequence := 1, rows := 0, cols := 0, prior := 0 }] } }
    d.repair.journal.getLast?.map (fun j => (j.phase, j.step)) = some (0, 3)) := by decide +kernel
/-- With a self-test or a taste, waiting or running. -/
def testing (j : TestJob) : Dev := { mgmt 0x20 with host := { test := some j } }
theorem meets_tests : executing (mgmt 0x20) mgmtTill 0x0020 = true ∧ (mgmt 0x20).host.test = none ∧ selfTestOk 6 0 = false ∧ selfTestOk 3 0 = true ∧
    idleWindow (mgmt 0x20) = true ∧ idleWindow { mgmt 0x20 with ctxs := (runs {}).ctxs } = false ∧
    testMay (mgmt 0x21) { scope := 6, index := 5, pattern := 0 } = true ∧
    testMay ((mgmt 0x21).modChan 0 5 (fun c => { c with state := 2 })) { scope := 6, index := 4, pattern := 0 } = false ∧
    testMay (testing { scope := 1, index := 0 }) { scope := 1, index := 0 } = true ∧
    ((testing { scope := 6, index := 5, running := true }).modStk 0 (fun k => { k with tasteRunning := true, tasteChan := 5 })).host.test =
      some { scope := 6, index := 5, running := true } ∧
    ((testing { scope := 0, index := 8, running := true }).cluster (8 / 9)).retired.getLsbD (8 % 9) = false ∧
    (let d : Dev := { pwr := { dieDown := [(2, true)] } }
     Tab.get false d.pwr.dieDown 2 = true ∧ d.awning.tripped = false ∧ d.pwr.asleep = 0 ∧ Tab.get false d.pwr.dieDown 1 = false) := by decide +kernel
theorem test_core_fails : gives (exec (.selfTestDone [8] 0) { dev := testing { scope := 0, index := 8, running := true } }) (fun d =>
    (d.cluster 0).retired.getLsbD 8 && answersOf d == [2 + 512]) = true := by decide +kernel

/-- The management till moves home 0 (handle 0), 0x14000 bytes of a stack: a first unit and a last one. -/
def home0 : Home := { name := 0x1000000000, size := 0x14000, place := 0x1000010000, tier := 1, valid := true, hint := 1, contexts := 1 }
def mgmtHome (h : Home) (ms : List Move) : Dev := { mgmt 0x10 with homes := [(0, h)], moves := ms, mem := [(0x1000010000, 7)] }
def moving0 (n : Nat) : Dev :=
  mgmtHome { home0 with moving := true, moved := n, toPlace := 0x1000100000, toTier := 1 } [{ index := 0, evac := false, posted := true }]
theorem meets_moves : executing (mgmtHome home0 []) mgmtTill 0x0010 = true ∧ handleOk (mgmtHome home0 []) 0x10000 = none ∧
    handleOk (mgmtHome home0 []) 0 = some 0 ∧ home0.compiler = false ∧ home0.spread = false ∧
    meetsWindow (mgmtHome home0 []) home0 = false ∧ (freePlace (mgmtHome home0 []) (some 3) home0.size).isSome = true ∧
    freePlace (mgmtHome home0 []) none home0.size = none ∧ (moving0 0).moves = [{ index := 0, evac := false, posted := true }] ∧
    Tab.wf (0 : Byte) (moving0 0).mem = true ∧ oneRegion 0x1000010000 65536 ∧ oneRegion 0x1000100000 65536 ∧ oneRegion 0x1000020000 65536 ∧
    oneRegion 0x1000110000 65536 ∧ 65536 * (((moving0 0).home 0).moved + 1) < ((moving0 0).home 0).size ∧
    ((moving0 1).home 0).size ≤ 65536 * (((moving0 1).home 0).moved + 1) ∧
    (let d := { mgmtHome { home0 with place := 0x1000000000 + 383 * chanBytes } [] with losses := [{ stack := 0, chan := 5, band := 1, phase := 0 }] }
     (nextEvac d).isSome = true ∧ 65536 < (d.home 0).size) := by
  refine ⟨?_, ?_, ?_, ?_, ?_, ?_, ?_, ?_, ?_, ?_, Or.inl (by decide), Or.inl (by decide), Or.inl (by decide), Or.inl (by decide), ?_⟩ <;> decide +kernel
theorem test_unit_moves : gives (exec .moveUnit { dev := moving0 0 }) (fun d =>
    rdByte d 0x1000100000 == 7 && (d.home 0).moved == 1 && d.moves.length == 1) = true := by decide +kernel
theorem test_move_ends : gives (exec .moveUnit { dev := moving0 1 }) (fun d =>
    d.home 0 == { home0 with place := 0x1000100000, gen := 1 } && d.moves == [] && answersOf d == [1]) = true := by
  decide +kernel
theorem meets_hints : (let d := { mgmtHome home0 [] with tills := [(16, busyTill 0x11)] }
    executing d mgmtTill 0x0011 = true ∧ agreedBit d 2 = false ∧ (objectHomes d 0 0) = [(0, home0)] ∧ objectHomes d 0 1 = [] ∧
      Tab.wf ({} : Home) d.homes = true ∧ (freePlace d (some 0) home0.size).isSome = true) := by decide +kernel

/-! ### Porter operations to their end (12, 13, 14) -/

/-- Context 0 runs the operation on slot 0 in entry 0 of core 0; the element 2.0 is at 0x100 and its FRC block of code 2 at 0x500. -/
def ptOne : PtOp := { pt0 with mask := 1, baseDst := 2 }
def frcBlock : List Byte := frcRun 4 [Fmt.fp32.decode 0x40000000]
def porting : Dev := wrBytes 0x500 frcBlock { porter {} with ctxs := [(0, { porterCtx {} with slots := [], bases := [(0, 0x100), (2, 0x300), (4, 0x500)] })] }
theorem unused_no_inject (d : Dev) (h : d.cores = []) (c : Nat) :
    (d.core c).mxInject = false ∧ (d.core c).vxInject = false ∧ (d.core c).txInject = false := by simp [Dev.core, h, Tab.get]
theorem on_entry (d : Dev) (t : CtxId) (o : PtOp) (x : Desc) (h : d.cores = []) (i : d.intent = []) (r : ∀ k, (d.bar t k).winUnits = 0)
    (g : issuing d t = true ∧ actingSlots d t o.mask.toNat = [0] ∧ servingCores d 0 = [0] ∧ (d.ctx t).theProg.descs[o.ldesc.toNat]? = some x ∧
      (d.ctx t).srep = none ∧ d.seq.tapOn = false ∧ d.badSram = [] ∧ replaying d = false ∧ (d.ctx t).phase = .running ∧ d.badBlocks = [] ∧
      d.seq.running = some t) : OnOneEntry d t o 0 0 0 x := by
  obtain ⟨a, b, c, e, f, j, k, l, m, n, q⟩ := g
  refine ⟨⟨a, b, ?_, e, f, j, k, by simp [inFlight, h], unused_no_inject d h⟩, ⟨l, m⟩, c, ⟨?_, ?_, ?_⟩, fun u v w => ?_, n⟩
  · show servingCores d 0 ≠ []
    rw [c]; exact List.cons_ne_nil _ _
  · show (d.core 0).freeEntry = some 0
    simp only [Dev.core, h, Tab.get]; decide +kernel
  · simp [Dev.core, h, Tab.get]
  · simp [waitsIntent, i]
  · obtain rfl : t = u := by simpa [q] using w
    exact Or.inl (r v)
theorem no_barrows (d : Dev) (t : CtxId) (h : (d.ctx t).slots = []) (k : Nat) : (d.bar t k).winUnits = 0 := by
  simp [Dev.bar, Ctx.slot, h, Tab.get]
theorem meets_data_transfers : OnOneEntry porting 0 ptOne 0 0 0 oneElem ∧ (Instr.copy 0 ptOne).wellFormed = true ∧ (Instr.ring 0 ptOne).wellFormed = true ∧
    (Instr.encode 0 { ptOne with frc := 1 }).wellFormed = true ∧ (Instr.decode 0 { ptOne with frc := 4 }).wellFormed = true ∧
    inStore porting 0 0 0x100 4 ∧ inStore porting 0 0 0x300 48 ∧ inStore porting 0 0 0x500 48 ∧ apart 0x100 0x300 :=
  ⟨on_entry _ _ _ _ (by decide +kernel) (by decide +kernel) (no_barrows _ _ (by decide +kernel)) (by decide +kernel), by decide +kernel, by decide +kernel, by decide +kernel,
    by decide +kernel, inStore_of _ _ _ 0 _ _ rfl (by decide +kernel), inStore_of _ _ _ 0 _ _ rfl (by decide +kernel),
    inStore_of _ _ _ 0 _ _ rfl (by decide +kernel), by unfold apart; decide⟩
/-- Issue, send and land. -/
def landed (c : Instr) (d : Dev) : State := match exec c { dev := d } with
  | .next u => (match exec (.transferIssue 0 0) u with
    | .next v => (match exec (.transferLanded 0 ⟨0, 0⟩) v with | .next w => w | _ => {})
    | _ => {})
  | _ => {}
theorem test_ring_of_one : rdNat (landed (.ring 0 ptOne) porting).dev 0x300 4 = 0x40000000 := by decide +kernel
theorem test_encode_lands : rdBytes (landed (.encode 0 { ptOne with frc := 2 }) porting).dev 0x300 32 = frcBlock := by decide +kernel
theorem test_decode_lands : rdNat (landed (.decode 0 { ptOne with baseSrc := 4, frc := 2 }) porting).dev 0x300 4 =
    Fmt.fp32.encode true ((frcUnrun 4 1 frcBlock).headD .zero) := by decide +kernel

/-! ### Links and the fabric (13) -/

/-- The fabric table of a line of two packages, of which this one is the first and identity 9 the second (R307). -/
def fabHead : List Byte :=
  leBytes 4 0x54424146 ++ leBytes 4 0x01010201 ++ leBytes 4 7 ++ leBytes 2 2 ++ leBytes 46 0
def fabTable : List Byte := fabHead ++ leBytes 4 (crc32c fabHead).toNat ++ leBytes 32 5 ++ leBytes 32 9
/-- Package 0 of it, with a port's state and a fabric state, and context 0's task in step 4. -/
def inFabric (f : Nat) (ps : Tab Port) : Dev :=
  { runs { curStep := some 4, prog := some engineProg } with
    fabric := { state := f, table := fabTable, written := fabTable, stacksReady := true, readySent := true }, ports := ps, sec := { identity := 5 }
    lease := { valid := true } }
def port0 (n : Nat) : Dev := inFabric 3 [(0, { state := n, lane := some 2 })]
theorem meets_flits : (let d := inFabric 3 [(0, { state := 4, rxSeq := some 7, retry := [9] }), (1, { state := 4, retry := [9], replaySeq := some 9, replayRuns := 7 }), (2, { state := 4 })]
    portRuns d 0 = true ∧ (d.port 0).replaySeq = none ∧ (d.port 0).rxSeq = some 7 ∧ (7 + 4096 - 5) % 4096 < 2048 ∧ 2048 ≤ (7 + 4096 - 9) % 4096 ∧
      9 ∈ (d.port 0).retry ∧ 7 ≤ (d.port 1).replayRuns ∧ (d.port 2).rxSeq = none ∧ portRuns d 3 = false) := by decide +kernel
theorem test_flit_accepted : gives (exec (.flitReceive 0 8 9 false 3 [] true) { dev := inFabric 3 [(0, { state := 4, rxSeq := some 7, retry := [9, 10] })] })
    (fun d => d.port 0 == { state := 4, rxSeq := some 8, retry := [10], credits := 3, flitReplies := [(8, false)] }) = true := by decide +kernel
theorem meets_lanes : (∀ n ∈ [4, 5, 6, 3], ((port0 n).port 0).state = n) ∧
    (∀ u ∈ [true, false], ((inFabric 3 [(0, { state := 6, spareUsed := u, second := some 3 })]).port 0).second = some 3) := by decide +kernel
theorem test_spare_used_twice : gives (exec (.laneSwapDone 0) { dev := inFabric 3 [(0, { state := 6, spareUsed := true, lane := some 2, lanes := 10 })] })
    (fun d => (d.port 0).state == 5 && (d.port 0).lanes == 5) = true := by decide +kernel
theorem meets_ports : trainable (port0 0) 0 = true ∧ trainable (port0 0) 23 = true ∧ leads (port0 0) 0 = true ∧
    lineOf (port0 4) 0 = some { dim := 0, here := (0, 0, 0), there := (1, 0, 0) } ∧
    (wireOf (port0 4) 0).off = 1 ∧ linksTo ((port0 4).modPort 0 (fun x => { x with state := 0 })) 0 1 = [] := by decide +kernel

/-- A packet for this package from (1, 0, 0), in the task's step, and one of its own that was sent there. -/
def packet : LinkPacket :=
  { ctx := 0, dest := (0, 0, 0), src := (1, 0, 0), epoch := 0, step := 4, tagSlot := 3, tagEntry := 6, tagGen := 0, remoteToken := 9
    addr := 0x100, payload := [1, 2] }
def sentBy (k : Nat) : Dev :=
  { port0 4 with fabric := { (port0 4).fabric with outbox := [{ port := some 0, kind := k, link := { packet with dest := (1, 0, 0), src := (0, 0, 0) } }] }
                 cores := [(3, { entries := [(6, { state := 2, slot := 3, packets := 2 })] })] }
theorem meets_notices : (∀ k ∈ [packet], (sentBy 0).fabric.outbox.length = 1 ∧ ((sentBy 0).ctx k.ctx).started = true ∧ ((sentBy 0).ctx k.ctx).abort = none) ∧
    (sentBy 0).fabric.outbox.all (fun x => x.link.dest == (1, 0, 0)) = true ∧ coordIndex fabTable (1, 0, 0) = 1 ∧
    1 ∉ (port0 4).fabric.absent ∧ (port0 4).fabric.outbox = [] := by decide +kernel
theorem meets_peers : peerOf (port0 2) 0 = some (1, 0, 0) ∧ (lineOf (port0 2) 0).isSome = true ∧
    tableEntry fabTable (coordIndex fabTable (1, 0, 0)) = 9 ∧ (inFabric 1 [(0, { state := 2 })]).fabric.state ≠ 3 := by decide +kernel
def matched : Dev := inFabric 3 [(0, { state := 2, peerId := some (9, tableDigest (inFabric 3 [])) })]
theorem meets_join : peerMatches matched 0 = true ∧ (matched.port 0).state = 2 ∧ matched.cfg.autojoin = true := by decide +kernel
theorem meets_forming : placed (inFabric 2 []) = some (1, (2, 1, 1), (0, 0, 0)) ∧ linkFits (2, 1, 1) { dim := 0, here := (0, 0, 0), there := (1, 0, 0) } = true ∧
    linkFits (2, 1, 1) { dim := 0, here := (0, 0, 0), there := (2, 0, 0) } = false ∧
    (inFabric 2 []).fabric.rounds + 1 = 1 ∧ tableDigest (inFabric 2 []) ≠ 0 ∧ coordIndex fabTable (1, 0, 0) < tableCount fabTable ∧
    population (inFabric 2 []) = [0, 1] := by decide +kernel
theorem test_last_round : gives (exec (.coordRound []) { dev := inFabric 1 [] }) (fun d =>
    d.fabric.rounds == 1 && d.shape.topology == 1 && d.shape.dim == (2, 1, 1)) = true := by decide +kernel
theorem meets_leaving : leads (inFabric 3 []) 1 = true ∧ leads (inFabric 3 []) 2 = false ∧ (inFabric 3 []).fabric.leaving = false ∧
    tableValid (wholeTable fabTable) = true ∧ (ownIndices (inFabric 3 []) fabTable).length = 1 ∧ tableValid [] = false := by decide +kernel

theorem meets_packets : (let d := port0 4
    packet.dest = d.shape.coord ∧ portUp d 0 = true ∧ d.fabric.leaving = false ∧ (d.ctx 0).prog.isSome = true ∧ packet.epoch = ctxEpoch d 0 ∧
      (d.ctx 0).curStep = some packet.step ∧ (d.ctx 0).phase = .running ∧ landCheck d 0 0x100 2 = none ∧ landCheck d 0 0x100000 2 = some 1 ∧
      (∀ i ∈ [0, 1], placeOf (0x100 + i) = .localStore 0) ∧ (0, packet.src, 3, 6, 0, 4) ∉ d.fabric.seenTokens ∧
      Tab.get 0 (d.ctx 0).tokens 9 < 65535 ∧ 2 ^ 21 < 32 + (List.replicate (2 ^ 21) (0 : Byte)).length) := by
  refine ⟨?_, ?_, ?_, ?_, ?_, ?_, ?_, ?_, ?_, ?_, ?_, ?_, by rw [List.length_replicate]; norm_num⟩ <;> decide +kernel
theorem test_packet_lands : gives (exec (.linkWritePacket 0 packet) { dev := port0 4 }) (fun d => d.mem == [(0x100, 1), (0x101, 2)]) = true := by decide +kernel
theorem test_token_counts_once : gives (exec (.linkTokenPacket 0 packet) { dev := port0 4 }) (fun d =>
    Tab.get 0 (d.ctx 0).tokens 9 == 1 && gives (exec (.linkTokenPacket 0 packet) { dev := d }) (fun e => Tab.get 0 (e.ctx 0).tokens 9 == 1)) = true := by
  decide +kernel
theorem meets_answers : (sentBy 0).fabric.outbox.all (fun x => x.link.ctx == 0 && x.link.tagSlot.val == 3 && x.link.tagEntry.toNat == 6 && x.kind == 0 && !x.bank) = true ∧
    servingCores (sentBy 0) 3 = [3] ∧ (let y := Tab.get ({} : Entry) ((sentBy 0).core 3).entries 6
      y.state = 2 ∧ y.ctx = 0 ∧ y.slot = 3 ∧ y.gen = 0 ∧ 2 ≤ y.packets) ∧
    (1, 0, 0) ≠ ownCoord (sentBy 0) ∧ nextHop (sentBy 0) (1, 0, 0) = some (0, 1) ∧ linksTo (sentBy 0) 0 1 = [0] := by decide +kernel
theorem test_refused_for_good : gives (exec (.linkRefusal 0 0 3 6 1 0) { dev := sentBy 0 }) (fun d =>
    (d.ctx 0).abort == some (.prefetchFault, 3 * 2 ^ 16 + 5 * 2 ^ 23)) = true := by decide +kernel

/-! ### Reductions (14) -/

/-- Reduction 0 of three chunks, owned by slot 3, among three members along X, of which this package is the first; member 2's backup
is (1, 0, 0). -/
def redBytes : List Byte :=
  leBytes 8 2304 ++ leBytes 8 0x100 ++ leBytes 8 0x200 ++ leBytes 4 0 ++ leBytes 4 100 ++ leBytes 2 1 ++ leBytes 2 2 ++ leBytes 2 3 ++
    leBytes 10 0 ++ leBytes 16 8
def layout0 : RedLayout := { maskX := 7, members := 3, backups := [none, none, some (1, 0, 0)] }
def reducing (cs : List Chunk) : Dev :=
  { inFabric 3 [(0, { state := 4 })] with
    ctxs := [(0, { prog := some { engineProg with reductions := redBytes }, phase := .running, curStep := some 4 })]
    red := [(0, { layout := layout0 })], banks := [(0, { chunks := cs })] }
/-- A packet of rank 1 for chunk 0, of integers that are all 1. -/
def ones : RedPacket :=
  { ctx := 0, src := (1, 0, 0), epoch := 0, step := 4, tagSlot := 3, tagEntry := 6, tagGen := 0, reduction := 0, chunk := 0, stage := 0
    substitute := false, rank := 1, what := false, count := 1, tally := 768, elems := List.replicate 768 1, scales := List.replicate 24 9
    data := List.replicate 24 7 }
def chunk0 : Chunk :=
  { ctx := 0, red := 0, chunk := 0, stage := 0, add := true, ranks := [1], ints := ones.elems, scales := ones.scales, tally := 768, tallies := [(1, 768)] }
theorem meets_reduction : (let d := reducing []
    let l := (d.redCtx 0).layout
    portUp d 0 = true ∧ d.fabric.leaving = false ∧ (d.ctx 0).prog.isSome = true ∧ ones.epoch = ctxEpoch d 0 ∧
      (d.ctx 0).curStep = some ones.step ∧ (d.ctx 0).phase = .running ∧ (d.ctx 0).abort = none ∧ gatherPort d l 0 0 = 0 ∧ l.stages[0]? = some 0 ∧
      (l.members_ 0).length = 3 ∧ ones.elems.length = 768 ∧ ones.tally = tallyOf ones.elems ∧ fits40 ones.elems = true ∧
      { ones with tally := 767 }.tally ≠ tallyOf ones.elems ∧ (d.adderBank 0).inject = false ∧ ones.data.length = 24 ∧
      (∀ add ∈ [true, false], findArmed d ones add = none)) := by decide +kernel
theorem meets_further_arrival : ((reducing [chunk0]).adderBank 0).chunks = [chunk0] ∧ chunk0.scales = ones.scales ∧
    { ones with rank := 2 }.rank ∉ chunk0.ranks ∧ fits40 (List.zipWith (· + ·) chunk0.ints ones.elems) = true ∧
    chunk0.ranks.length + 1 < (layout0.members_ 0).length ∧ (ones.rank, ones.tally) ∈ chunk0.tallies := by decide +kernel
theorem meets_return : (let d := reducing []
    let q := { ones with what := true }
    let r := redDesc d 0 0
    q.what = true ∧ q.count = 1 ∧ q.stage.val = 0 ∧ (min 768 (r.elements - 768 * q.chunk) + 31) / 32 = 24 ∧ r.xbase = 0x100 ∧
      landCheck d 0 0x100 24 = none ∧ Tab.get 0 (d.ctx 0).tokens r.xtoken < 65535 ∧
      (∀ i ∈ List.range 24, placeOf (0x100 + i) = .localStore 0)) := by decide +kernel
theorem test_chunk_opens : gives (exec (.reductionAddPacket 0 ones) { dev := reducing [] }) (fun d => (d.adderBank 0).chunks == [chunk0]) = true := by
  decide +kernel
theorem test_duplicate : gives (exec (.reductionAddPacket 0 ones) { dev := reducing [chunk0] }) (fun d =>
    d.adderBank 0 == { chunks := [chunk0], duplicates := 1 }) = true := by decide +kernel
theorem test_return_lands : gives (exec (.reductionReturnPacket 0 { ones with what := true }) { dev := reducing [] }) (fun d =>
    rdNat d 0x100 4 == 0x07070707 && rdByte d 0x117 == 7 && rdByte d 0x118 == 0) = true := by decide +kernel

theorem meets_handoff : (let y := { chunk0 with phase := 2 }
    let d := reducing [y]
    let x := redDesc d 0 0
    y.is 0 0 0 y.stage true = true ∧ y.phase = 2 ∧ y.ints.length = 768 ∧ y.scales.length = 24 ∧
      slotRange (d.redCtx 0).layout d.shape.coord x 3 = (0, 1) ∧ x.owners = [3] ∧ frameFree d 3 0 = true ∧
      (∀ p ∈ List.range 24, p ≠ 0 → (d.adderBank p).chunks = [])) := by decide +kernel
theorem meets_deadline : (let d := { reducing [{ chunk0 with ranks := [0, 1] }] with cfg := { (reducing []).cfg with substEn := true } }
    let l := (d.redCtx 0).layout
    d.cfg.substEn = true ∧ (redDesc d 0 0).deadline ≠ 0 ∧ { d with cfg := { d.cfg with substEn := false } }.cfg.substEn = false ∧
      (List.range (l.members_ 0).length).filter (fun j => !([0, 1] : List Nat).contains j && !([] : List Nat).contains j) = [2] ∧
      l.backups.getD (l.index (l.onLine d.shape.coord 0 2)) none = some (1, 0, 0) ∧ reachable d (1, 0, 0) = true) := by decide +kernel
theorem test_mismatch_notice : gives (exec (.tallyAbortNotice 0 5 1) { dev := reducing [] }) (fun d =>
    (d.ctx 0).abort == some (.tallyMismatch, 5 + 2 ^ 11)) = true := by decide +kernel

/-- RESHARD to epoch 1, to the two packages of the fabric. -/
def newLayout : Layout := { epoch := 1, maskX := 3, maskY := 0, maskZ := 0, members := 2, backups := [none, none] }
def resharding : Dev := { mgmt 0x12 with
  shape := { dim := (2, 1, 1) }, mem := [(0, 1), (8, 3), (20, 2)] }
theorem meets_reshard : layoutAt resharding 0 = newLayout ∧ executing resharding mgmtTill 0x0012 = true ∧ layoutBad resharding (ctxEpoch resharding 0) newLayout = false ∧
    layoutBad resharding 0 { newLayout with members := 3 } = true ∧ (resharding.ctx 0).started = false ∧ (resharding.redCtx 0).runs = [] ∧
    ({ resharding with ctxs := (runs {}).ctxs }.ctx 0).started = true := by decide +kernel
theorem test_reshard : gives (exec (.reshard 0 0) { dev := resharding }) (fun d => ctxEpoch d 0 == 1 && answersOf d == [1]) = true := by
  decide +kernel

/-! ### Link operations until their packets leave (13, 14) -/

/-- Package 0 of a line of two, on whose slot 0 the operation issues; reduction 0 has one element, proposals at 0x200, owned by slot 0. -/
def oneRed : List Byte :=
  leBytes 8 1 ++ leBytes 8 0x200 ++ leBytes 8 0x400 ++ leBytes 4 0 ++ leBytes 4 0 ++ leBytes 2 1 ++ leBytes 2 2 ++ leBytes 2 3 ++
    leBytes 10 0 ++ leBytes 16 1
def sending (mask : BitVec 32) : Dev :=
  { inFabric 3 [(0, { state := 4 })] with
    shape := { dim := (2, 1, 1) }
    ctxs := [(0, { porterCtx {} with prog := some { engineProg with reductions := oneRed }, slots := [], bases := [(0, 0x100), (2, 0x300)], curStep := some 4 })]
    red := [(0, { layout := { maskX := mask, members := 2, backups := [none, none] } })]
    mem := [(0x103, 0x40), (0x200, 128), (0x401, 0x40)] }
theorem meets_lsend : OnOneEntry (sending 0) 0 { ptOne with oparg := 1 } 0 0 0 oneElem ∧ (Instr.lsend 0 { ptOne with oparg := 1 }).wellFormed = true ∧
    lsendDest (sending 0) { ptOne with oparg := 1 } = some (1, 0, 0) ∧ (1, 0, 0) ≠ (sending 0).shape.coord ∧ reachable (sending 0) (1, 0, 0) = true ∧
    inStore (sending 0) 0 0 0x100 4 :=
  ⟨on_entry _ _ _ _ (by decide +kernel) (by decide +kernel) (no_barrows _ _ (by decide +kernel)) (by decide +kernel), by decide +kernel, by decide +kernel,
    by decide +kernel, by decide +kernel, inStore_of _ _ _ 0 _ _ rfl (by decide +kernel)⟩
/-- This package is the first member where another keeps the chunk only under a mask that leaves it the second rank. -/
def second : Dev := { sending 3 with shape := { dim := (2, 1, 1), coord := (1, 0, 0) }, sec := { identity := 9 } }
theorem meets_contribution : OnOneEntry second 0 ptOne 0 0 0 oneElem ∧ inStore second 0 0 0x100 4 ∧ (redDesc second 0 0).elements = 1 ∧
    (second.redCtx 0).layout.member second.shape.coord = true ∧ (second.redCtx 0).layout.stages = [0] ∧
    (second.redCtx 0).layout.keeper second.shape.coord 1 0 0 ≠ (second.redCtx 0).layout.rank second.shape.coord 0 ∧
    (second.redCtx 0).layout.onLine second.shape.coord 0 ((second.redCtx 0).layout.keeper second.shape.coord 1 0 0) = (0, 0, 0) ∧
    reachable second (0, 0, 0) = true ∧ (Instr.rxmax 0 ptOne).wellFormed = true ∧ (Instr.rsend 0 ptOne).wellFormed = true :=
  ⟨on_entry _ _ _ _ (by decide +kernel) (by decide +kernel) (no_barrows _ _ (by decide +kernel)) (by decide +kernel), inStore_of _ _ _ 0 _ _ rfl (by decide +kernel),
    by decide +kernel⟩
theorem meets_rgather : OnOneEntry (sending 3) 0 ptOne 0 0 0 oneElem ∧ (Instr.rgather 0 ptOne).wellFormed = true ∧ (redDesc (sending 3) 0 0).elements = 1 ∧
    ((sending 3).redCtx 0).layout.stages = [0] ∧ (((sending 3).redCtx 0).layout.members_ 0).length = 2 ∧
    ((sending 3).redCtx 0).layout.rank (sending 3).shape.coord 0 = 0 ∧ ((sending 3).redCtx 0).layout.member (sending 3).shape.coord = true ∧
    slotRange ((sending 3).redCtx 0).layout (sending 3).shape.coord (redDesc (sending 3) 0 0) 0 = (0, 1) ∧
    ((sending 3).redCtx 0).layout.onLine (sending 3).shape.coord 0 1 = (1, 0, 0) ∧ reachable (sending 3) (1, 0, 0) = true :=
  ⟨on_entry _ _ _ _ (by decide +kernel) (by decide +kernel) (no_barrows _ _ (by decide +kernel)) (by decide +kernel), by decide +kernel⟩
/-- The packets that an operation has sent once its transfer is issued. -/
def sentNow (c : Instr) (d : Dev) : List OutPkt := match exec c { dev := d } with
  | .next u => (match exec (.transferIssue 0 0) u with | .next v => v.dev.fabric.outbox | _ => [])
  | _ => []
theorem test_rxmax_proposal : (sentNow (.rxmax 0 ptOne) second).map (fun p => (p.mode, p.link.dest, p.red.map (fun q => (q.rank, q.data.take 2)))) =
    [(1, (0, 0, 0), some (1, [128, 0]))] := by decide +kernel
theorem test_rsend_integers : (sentNow (.rsend 0 ptOne) second).map (fun p => (p.mode, p.red.map (fun q => (q.elems.take 2, q.tally)))) =
    [(0, some ([2 ^ 28, 0], 2 ^ 28))] := by decide +kernel
theorem test_rgather_image : (sentNow (.rgather 0 ptOne) (sending 3)).map (fun p => (p.mode, p.link.dest, p.red.map (fun q => q.data.take 4))) =
    [(2, (1, 0, 0), some [0, 0x40, 0, 0])] := by decide +kernel

/-! ### Tills, packets and the host (15) -/

/-- A packet with the CRC that R355 asks for; a device in which tills 0 and 16 may take their next packet. -/
def sealed (k : Packet) : Packet := { k with check := crc32c (packetHeader k ++ k.params) }
def taking (agreed : BitVec 64) (ph : Phase) : Dev :=
  { runsIn { phase := ph } {} with
    ctxs := [(0, { phase := ph })], seq := {}, shape := { published := true }, host := { rate := 5, negotiated := agreed != 0, agreed := agreed }
    tills := [(0, { enable := true, log2 := 6, tail := 4, cplLog2 := 4 }), (16, { enable := true, log2 := 6, tail := 4, cplLog2 := 4 })] }
theorem meets_takes : canTake (taking 1 .idle) 0 = true ∧ canTake {} 0 = false ∧ packetFault (taking 1 .idle) 0 (sealed (pkt 0x101)) = none ∧
    ((taking 1 .idle).till 0).expectSeq = 0 := by decide +kernel
theorem meets_packet_faults : crc32c (packetHeader (pkt 0x101) ++ []) ≠ (pkt 0x101).check ∧
    (∀ k ∈ [sealed { pkt 0x101 with seq := 1 }, sealed { pkt 0x101 with flags := 2 }, sealed (pkt 1), sealed (pkt 0x102), sealed { pkt 0x101 with paramLen := 1 }],
      crc32c (packetHeader k ++ k.params) = k.check) ∧ (taking 0 .idle).host.negotiated = false ∧ (taking 1 .idle).host.negotiated = true := by
  decide +kernel
theorem test_bad_flags : gives (exec (.packetTake 0 (sealed { pkt 0x101 with flags := 2 })) { dev := taking 1 .idle }) (fun d =>
    (d.till 0).head == 1 && (d.till 0).expectSeq == 1 && (d.till 0).cur == none &&
      (d.till 0).records.map (fun r => (r.status, r.detail)) == [(.badParam, 0x00010003)]) = true := by decide +kernel
theorem meets_tills : ((taking 1 .idle).till 0).enable = true ∧ ((taking 1 .idle).till 1).enable = false ∧ (taking 1 .idle).host.rate ≠ 0 ∧
    Tab.wf ({} : Till) (taking 1 .idle).tills = true := by decide +kernel
theorem meets_aborts : (∀ p ∈ [Phase.idle, .starting, .ready], ((taking 1 p).ctx 0).phase = p) ∧ (sealed (pkt 0x103)).opcode = 0x0103 ∧
    (let x := (taking 1 .ready).till 0
     x.closing = false ∧ packetUnits (pkt 0x101) + packetUnits (sealed (pkt 0x103)) ≤ (x.tail - x.head).toNat ∧
       packetFault (taking 1 .ready) 0 (sealed (pkt 0x103)) = none ∧
       packetFault (takeUnits 0 (pkt 0x101) (taking 1 .ready)) 0 (sealed { pkt 0x103 with seq := 1 }) = none) ∧
    (taking 1 .ready).seq.replay = none := by decide +kernel
theorem test_abort_passes : gives (exec (.abortTask 0 [pkt 0x101] (sealed { pkt 0x103 with seq := 1 })) { dev := taking 1 .idle }) (fun d =>
    (d.till 0).head == 2 && (d.till 0).records.map (fun r => (r.status, r.seq)) == [(.retry, 0), (.ok, 1)]) = true := by decide +kernel

def haggling (b : Bool) (p : Option Prog) : Dev := { mgmt 1 with host := { negotiated := b, agreed := 0xFF }, ctxs := [(0, { prog := p })] }
theorem meets_haggle : executing (haggling true none) mgmtTill 0x0001 = true ∧ (0x0100 : BitVec 16).toNat / 256 = 1 ∧
    (0x0200 : BitVec 16).toNat / 256 ≠ 1 ∧ (haggling true (some {})).host.negotiated = true ∧ ((haggling true (some {})).ctx 0).prog.isSome = true ∧
    (haggling false none).host.negotiated = false := by decide +kernel
theorem test_haggle : gives (exec (.haggle 0x0100 0xFFFFF 0x1000) { dev := haggling false none }) (fun d =>
    d.host.agreed == 0x3FFF && answersOf d == [0x3FFF] && d.host.writes.map Prod.fst == [0x1000]) = true := by decide +kernel
theorem meets_host_map : (let d := { haggling true none with tills := [(16, busyTill 3)] }
    executing d mgmtTill 0x0003 = true ∧ agreedBit d 2 = true ∧ agreedBit d 3 = true ∧ agreedBit {} 2 = false ∧
      mapBroken 0 65536 0 0 = false ∧ mapBroken 1 65536 0 0 = true ∧ mapBusy d 0 65536 0 0 = false ∧
      mapBusy { d with ctxs := (runs {}).ctxs } 0 65536 0 0 = true) := by decide +kernel
theorem meets_peek : executing { mgmt 2 with host := {} } mgmtTill 0x0002 = true ∧ (8 : BitVec 16).toNat ≤ 8 ∧ 8 < (9 : BitVec 16).toNat := by
  decide +kernel
theorem meets_link_up : 1 ≤ (5 : BitVec 3).toNat ∧ (5 : BitVec 3).toNat ≤ 5 ∧
    (let x := (taking 1 .idle).till 0; x.held.length ≤ 2 ^ x.cplLog2.toNat - (x.cplTail - x.cplHead).toNat) := by decide +kernel
theorem test_discovery : gives (exec (.doeDiscovery 1) { dev := {} }) (fun d => d.host.doeReply == [0x98, 0x1E, 0x02, 0x02]) = true := by
  decide +kernel
/-- A final record of a SELF_TEST, the 33rd of a ring of 32 records at 0x8000 (R359, R381): its bytes but for the CRC, and its place. -/
def rec33 : CplRec := { tag := 0x11, seq := 2, opcode := 0x20, status := .ok, interim := false, phase := false, detail := 0, result := 3, elapsed := 5 }
theorem test_record_layout : (cplBytes rec33).take 28 =
    [0x11, 0, 0, 0, 0, 0, 0, 0, 2, 0, 0, 0, 0x20, 0, 0, 0, 0, 0, 0, 0, 3, 0, 0, 0, 5, 0, 0, 0] ∧ (cplBytes rec33).length = 32 ∧
    (cplWrites { cplBase := 0x400, cplLog2 := 5, records := List.replicate 33 rec33 }).getLast?.map Prod.fst = some 0x8000 := by decide +kernel

/-! ### The codec units (16) -/

/-- A descriptor of a decoder of one-sample pictures into 0x100 of context 0's store (R389), gain 1 and bias 0, and an encoder's. -/
def seeing : StreamDesc :=
  { encode := false, std := 0, prio := 0, mode := 0, context := 0, depth := 8, chroma := 0, level := 60, width := 64, height := 64
    rate := 1000, bitrate := 1000, bsSize := 4096, bsRing := 0x1000, ref := 0, refSize := 0, fmt := 1, space := 2, matrix := 0, range := 2
    gain := [0x3F800000], bias := [0], crop := [0, 0, 0, 0], hs := 0, ts := 0, cs := 0, inW := 0, inH := 0, orient := 0, rc := 0, qp := 0
    refs := 1, gop := 0, cands := 1, refine := 0, rangeX := 0, rangeY := 0, lambda := 0, reservedZero := true, checkOk := true }
/-- The same with its ring and reference store in the stack object of home 0 (R389). -/
def placed : StreamDesc := { seeing with bsRing := 0x1000000000, ref := 0x1000000000, refSize := 4096 }
def coding : StreamDesc := { seeing with encode := true }
def job1 : Job :=
  { seq := 9, frames := 1, arrive := 0, data := 0x100, stats := 0, step := 4, token := 0, pts := 0, reservedZero := true, checkOk := true }
def onePicture : Picture :=
  { width := 1, height := 1, depth := 8, chroma := 0, loc := none, planes := [[255]], fullRange := true, matrix := 0 }
def codecDev (x : CodecStream) (c : Codec) : Dev :=
  { runs { curStep := some 4, prog := some engineProg } with
    homes := [(0, { name := 0x1000000000, size := 0x10000, place := 0x1000000000, tier := 1, valid := true, contexts := 1 })]
    host := { rate := 5, agreed := 0xFFF, tierSize := 0x400000 }, codecs := [(0, { c with streams := [(0, x)] })] }
theorem meets_streams : (let d := codecDev {} {}
    areaServed d = true ∧ cacheUp d = true ∧ (d.codec 0).failed = false ∧ areaServed {} = false ∧ (d.stream 0 0).recs = []) ∧
    requested (codecDev { req := 1, reqSeq := 7 } {}) 0 0 1 = true ∧ requested (codecDev { req := 2, reqSeq := 7, job := some job1 } {}) 0 0 2 = true ∧
    descOk { seeing with checkOk := false } = false ∧ descOk placed = true ∧ placesOk (codecDev {} {}) placed = true ∧
    placesOk (codecDev {} {}) seeing = false ∧ admitted (codecDev {} {}) 0 seeing = true ∧
    admitted (codecDev {} {}) 0 { seeing with prio := 2, rate := 0 } = false := by decide +kernel
theorem test_stream_opens : gives (exec (.streamOpen 0 0 placed) { dev := codecDev { req := 1, reqSeq := 7 } {} }) (fun d =>
    (d.stream 0 0).state == 1 && rdBytes d (areaOf 0 + 0x1400) 4 == [1, 7, 0, 0]) = true := by decide +kernel
theorem test_bad_descriptor : gives (exec (.streamOpen 0 0 { seeing with checkOk := false }) { dev := codecDev { req := 1, reqSeq := 7 } {} }) (fun d =>
    (d.stream 0 0).state == 0 && (d.stream 0 0).reqStatus == 0x11) = true := by decide +kernel
/-- An open stream, with a job in progress or with one to take. -/
def streaming (y : StreamDesc) (j : Option Job) : CodecStream := { state := 1, desc := some y, jobTail := 1, job := j }
theorem meets_jobs : (let x := streaming seeing none
      x.jobHead ≠ x.jobTail ∧ x.job = none ∧ x.recs = [] ∧ jobBad seeing { job1 with frames := 0 } = true ∧ jobBad seeing job1 = false ∧
        (x.recTail - x.recHead).toNat < 256) ∧ (streaming seeing none).desc = some seeing := by decide +kernel
theorem meets_frames : (let x := streaming seeing (some job1)
    x.frames = 0 ∧ x.closing = false ∧ job1.frames = 1 ∧ seeing.space = 2 ∧ seeing.analysis = false ∧ seeing.crop.getD 2 0 = 0 ∧
      beyond seeing onePicture = false ∧ Fmt.ofCode seeing.fmt.toNat = some .bf16 ∧
      (∀ k ∈ [0, 1], placeOf (job1.data.toNat + k) = .localStore 0 ∧
        inLocalWindow ((codecDev x {}).ctx seeing.ctx).theProg (job1.data.toNat + k) = true) ∧ (codecDev x {}).codecs.length = 1 ∧
      ((codecDev x {}).codec 0).pixel = none) := by decide +kernel
theorem meets_rows : (let x := { streaming seeing (some job1) with bsTail := 2 }
    2 ≤ (x.bsTail - x.bsHead).toNat ∧ (x.bsTail - x.bsHead).toNat < 3 ∧
      readsStop (codecDev x {}) seeing (rowReads seeing x job1 2 .partialRow) = none ∧
      readsStop (codecDev x {}) seeing (rowReads seeing x job1 0 (.frame onePicture false)) = none ∧
      readsStop (codecDev x {}) coding (rowReads coding x job1 0 (.coded [7] true)) = none ∧
      (readsStop (codecDev x {}) { seeing with bsRing := 0x1FF0000000 } (rowReads { seeing with bsRing := 0x1FF0000000 } x job1 1 .partialRow)).isSome = true) := by
  decide +kernel
theorem test_ring_read_fails : gives (exec (.codecRowDone 0 0 true 1 .partialRow)
    { dev := codecDev { streaming { seeing with bsRing := 0x1FF0000000 } (some job1) with bsTail := 2 } {} }) (fun d =>
    (d.stream 0 0).state == 2 && (d.stream 0 0).stop == 7) = true := by decide +kernel
theorem test_white_is_one : gives (exec (.codecRowDone 0 0 true 0 (.frame onePicture false)) { dev := codecDev (streaming seeing (some job1)) {} })
    (fun d => rdNat d 0x100 2 == 0x3F80 && (d.stream 0 0).job == none && (d.stream 0 0).shown == 1) = true := by decide +kernel
theorem meets_coded : (let j := { job1 with frames := 2 }
    let x := streaming coding (some j)
    coding.subframe = false ∧ x.buf = [] ∧ x.frames + 1 < j.frames.toNat ∧ j.arrive = 0 ∧ (x.bsHead - x.bsTail).toNat + 1 ≤ coding.bsSize.toNat ∧
      placeOf (coding.bsRing.toNat + x.bsHead.toNat % coding.bsSize.toNat) = .localStore 0 ∧
      inLocalWindow ((codecDev x {}).ctx coding.ctx).theProg coding.bsRing.toNat = true) := by decide +kernel
theorem meets_mismatches : (let d := { codecDev (streaming seeing (some job1)) { mismatchAt := some 5 } with wall := 6 }
    (d.codec 0).mismatchAt = some 5 ∧ d.wall ≤ 5 + failWindow d ∧ 5 + failWindow d < { d with wall := 6 + failWindow d }.wall ∧
      seeing.bounded = false ∧ { seeing with mode := 2 }.bounded = true ∧ { seeing with mode := 2 }.conceals = false) := by decide +kernel
theorem test_unit_fails : gives (exec (.codecRowDone 0 0 true 0 .mismatch) { dev := codecDev (streaming seeing (some job1)) { mismatchAt := some 0 } })
    (fun d => (d.codec 0).failed && (d.stream 0 0).stop == 10) = true := by decide +kernel

/-! ### Criers, firmware, the ledger and the awning (17) -/

/-- All eight criers run and have beaten; complex A holds the lease. -/
def manned (l : Lease) (f : Fw) : Dev :=
  { mgmt 0x31 with criers := (List.range 8).map (fun k => (k, { state := 2, lastBeat := some 0 })), lease := l, fw := f, evt := { enabled := 0xFF } }
theorem meets_lease : (let d := manned { valid := true, reqB := true, mirrorWritten := 1 } {}
    (d.crier 0).state = 2 ∧ (d.crier 1).lastBeat = some 0 ∧ 0 ≤ (complexCriers d.lease.holderB).length ∧ leads d 0 = true ∧ leads d 2 = false ∧
      complexRunning d true = true ∧ (if d.lease.holderB then d.lease.reqA else d.lease.reqB) = true ∧
      d.lease.mirrorApplied < d.lease.mirrorWritten ∧ (∃ c ∈ complexCriers (!d.lease.holderB), (d.crier c).state = 2)) ∧
    (manned { window := true, reqB := true } {}).lease.window = true := by decide +kernel
theorem test_b_is_granted : gives (exec .contentionWindowEnd { dev := manned { window := true, reqB := true } {} }) (fun d =>
    d.lease.valid && d.lease.holderB && !d.lease.reqB) = true := by decide +kernel
theorem meets_crashes : (let d := manned { valid := true, holderB := true } { phase := 3, fromB := true }
    (d.crier 0).state ≠ 0 ∧ (d.crier 0).state ≠ 4 ∧ d.evt.enabled.getLsbD 0 = true ∧ d.fw.phase = 3 ∧ decide (2 ≤ (0 : Nat)) ≠ d.fw.fromB ∧
      (d.till mgmtTill).cur ≠ none) ∧
    (let d := { manned {} { phase := 10 } with criers := [(7, { state := 3 }), (4, { state := 3 })] }
     (d.crier 7).state ≠ 0 ∧ (d.crier 7).state ≠ 2 ∧ (d.crier 4).state = 3 ∧ d.fw.phase = 10) := by decide +kernel
theorem meets_exchange_cut : (let d : Dev := { manned {} {} with ports := [(6, { state := 2 })] }
    (d.crier 5).state ≠ 0 ∧ (d.crier 5).state ≠ 4 ∧ (d.port 6).state = 2 ∧ d.fabric.state ≠ 3) := by decide +kernel
theorem test_exchange_cut : gives (exec (.crierCrash 5) { dev := { manned {} {} with ports := [(6, { state := 2 }), (0, { state := 2 })] } })
    (fun d => (d.port 6).state == 1 && (d.port 0).state == 2 && (d.src 310).pend) = true := by decide +kernel
theorem meets_cut_repair : (let d := { journaled 4 false with criers := [(4, { state := 3 })] }
    (d.crier 4).state ≠ 0 ∧ (d.crier 4).state ≠ 2 ∧ d.host.test = none ∧ d.repair.step ≠ 0 ∧ d.repair.cut = false ∧ d.repair.stack / 3 = 0 ∧
      (d.till mgmtTill).cur ≠ none ∧ d.fw.phase = 0) := by decide +kernel
theorem test_die_crier_back : gives (exec (.crierRestored 4) { dev := { journaled 4 false with criers := [(4, { state := 3 })] } }) (fun d =>
    d.repair.cut && statusOf d == some .retry) = true := by decide +kernel
/-- A RUN_TASK has not issued its first bundle when the lease changes hands (R361). -/
def startingRun : Dev := { manned { window := true, reqB := true } { phase := 4 } with
  ctxs := [(0, { phase := .starting })], tills := [(0, busyTill 0x0102), (16, busyTill 0x31)] }
theorem meets_retried : (startingRun.ctx 0).phase = .starting ∧ (startingRun.till (taskTill 0)).cur ≠ none ∧ (startingRun.till (taskTill 0)).aborts = [] ∧
    (startingRun.ctx 1).phase ≠ .starting := by decide +kernel
theorem test_run_is_retried : gives (exec .contentionWindowEnd { dev := startingRun }) (fun d =>
    (d.ctx 0).phase == .idle && (d.till 0).cur.isNone && statusOf d == some .retry) = true := by decide +kernel
theorem test_crash : gives (exec (.crierCrash 5) { dev := manned {} {} }) (fun d =>
    (d.crier 5).state == 4 && d.evt.enabled == 0xDF && d.lease.restarts == 1 && (d.src 67).pend) = true := by decide +kernel

def fw0 (v : Nat) (ok : Bool) : BankImage :=
  { version := BitVec.ofNat 32 v, svn := 2, raise := true, revoke := true, headerDigest := 1, loaderDigest := 2, hubDigest := 3, dieDigest := 4
    bytes := 64, formOk := ok, signature := [], publicKey := [], componentsOk := true }
/-- Bank 0 holds version 1 and bank 1 version 2; `ok` is whether version 1 has its form. The key is in slot 0. -/
def banked (ok : Bool) (p : Nat) : Dev :=
  { manned { valid := true } { phase := p, staged := true, stagedVersion := 2, banks := [(0, some { image := fw0 1 ok }), (1, some { image := fw0 2 true })] } with
    sec := { keyHash := [(0, sha3 [])], recovery := true } }
/-- The first key slot holds the digest of a public key, and an image is signed with it. -/
def holdsKey (pk : List Byte) : Dev := { banked true 0 with sec := { keyHash := [(0, sha3 pk)] } }
def signedBy (pk sig : List Byte) : BankImage := { fw0 1 true with publicKey := pk, signature := sig }
/-- A package passes for any key and any signature of its header that verifies under it (R481). -/
theorem meets_good_package (pk sig : List Byte) (h : MlDsa.verify pk (leBytes 32 1) sig = true) :
    packageCheck (holdsKey pk) (signedBy pk sig) = none := by
  have k : keySlotOf (holdsKey pk) (signedBy pk sig) = some 0 := by
    simp [keySlotOf, holdsKey, signedBy, List.range, List.range.loop, Tab.get]
  have f : (signedBy pk sig).formOk = true ∧ (holdsKey pk).sec.svn = 0 ∧ (signedBy pk sig).svn = 2 ∧ (signedBy pk sig).componentsOk = true :=
    ⟨rfl, rfl, rfl, rfl⟩
  have v : MlDsa.verify (signedBy pk sig).publicKey (leBytes 32 (signedBy pk sig).headerDigest.toNat) (signedBy pk sig).signature = true := h
  simp [packageCheck, k, f.1, f.2.1, f.2.2.1, f.2.2.2, v]
theorem meets_packages : (let d := banked false 0
    (∃ p, d.bank d.fw.activeBank = some p ∧ packageCheck d p.image = some .badParam) ∧ (∃ q, d.bank (!d.fw.activeBank) = some q ∧ q.image.version = 2) ∧
      (0 : BitVec 256) = d.sec.romDigest ∧ d.sec.recovery = true) ∧
    bankBoots (banked false 0) (fw0 1 false) = false ∧ rollbackOk (banked true 0) (fw0 1 true) = true ∧
    executing { banked true 0 with tills := [(16, busyTill 0x30)] } mgmtTill 0x0030 = true ∧
    rollbackOk { banked true 0 with sec := { (banked true 0).sec with svn := 3 } } (fw0 1 true) = false :=
  ⟨by decide +kernel, by simp only [bankBoots]; decide +kernel, by decide +kernel, by decide +kernel, by decide +kernel⟩
theorem meets_update : executing (banked true 0) mgmtTill 0x0031 = true ∧ (banked true 0).fw.staged = true ∧ emergency (banked true 0) = false ∧
    emergency { banked true 0 with pwr := { lastLimit := some 0 } } = true ∧
    (∀ n ∈ [1, 3, 4, 7, 8, 9], (banked true n).fw.phase = n ∧ ((banked true n).till mgmtTill).cur ≠ none) ∧
    (∃ p, (banked true 0).bank (banked true 0).fw.activeBank = some p ∧ p.image.raise = true ∧ (banked true 0).sec.svn < p.image.svn) ∧
    10 * (20 : BitVec 10).toNat < 96 + 6 * 20 ∧ 96 + 6 * 10 ≤ 10 * (20 : BitVec 10).toNat := by decide +kernel
theorem test_bank_commits : gives (exec (.fwBankCommit 10 20) { dev := banked true 8 }) (fun d =>
    d.fw.phase == 9 && d.fw.activeBank && d.ledger.arBank && (d.crier 0).state == 1 && (d.crier 2).state == 2) = true := by decide +kernel

theorem meets_ledger : executing { mgmt 0x32 with cfg := {} } mgmtTill 0x0032 = true ∧ halfKib .config ≠ 0 ∧
    (let d : Dev := { ledger := { regions := [(0, { valid := true, usedKib := 3072 })], pending := [(.maps, 10), (.counters, 5)] } }
     3 * halfKib .config ≤ 4 * (Tab.get ({} : LedgerRegion) d.ledger.regions (regionKey .config)).usedKib ∧
       d.ledger.pending = (.maps, 10) :: [(.counters, 5)] ∧ d.fw.phase ≠ 8) ∧
    (224 < 200 + 200 ∧ (10 : Nat) ≤ 224) ∧
    (let d : Dev := { pwr := { starting := true }, ledger := { regions := [(0, { valid := true })] } }
     d.pwr.starting = true ∧ d.evt.restored ≠ 2 ∧ (∀ p ∈ List.range 24, portUp d p = false) ∧
       Tab.wf ({} : Cluster) d.ledger.maps.clusters = true ∧ (Tab.get ({} : LedgerRegion) d.ledger.regions (regionKey .config)).valid = true ∧
       (Tab.get ({} : LedgerRegion) d.ledger.regions (regionKey .maps)).valid = false) := by decide +kernel
theorem test_two_commits : gives (exec (.ledgerCommit 5 [200, 200] [1000, 0]) { dev := mgmt 0x32 }) (fun d =>
    d.ledger.commits == 1 && answersOf d == [1 + 256 * 200] && d.ledger.low) = true := by decide +kernel
theorem meets_counts : serviceCrierUp (manned { valid := true } {}) = true ∧ ({} : Dev).err.waiting < 1024 ∧
    1024 ≤ ({ err := { waiting := 1024 } } : Dev).err.waiting ∧ ({} : Dev).awning.throttleMs < 2 ^ 32 ∧
    (∀ p ∈ ({ cores := [(143, { vxBusy := 1 })] } : Dev).cores, p.1 < 144) := by decide +kernel

/-- Die 1 is stepped down for a cause, its arrays paused, or its divider about to change. -/
def awned (cause : BitVec 4) (target : Nat) : Dev :=
  { cfg := { powerW := 2000 }, awning := { cause := [(1, cause)], target := [(1, target)], paused := [(1, true)], watts := 1000, div := [(1, 5)] } }
theorem meets_awning : (awned 3 0).cfg.throttleC ≤ 115 ∧ 60 + 3 < (awned 3 0).cfg.throttleC.toNat ∧ (awned 3 0).causeOf 1 &&& 1 ≠ 0 ∧
    targetOf (awned 3 0) 1 = divOf (awned 3 0) 1 ∧ 100 * (awned 3 0).awning.watts < 95 * (awned 3 0).cfg.powerW.toNat ∧
    targetOf (awned 3 8) 1 ≠ divOf (awned 3 8) 1 ∧ pausedDie (awned 3 8) 1 = true ∧ (awned 3 0).awning.tripped = false ∧
    (awned 3 0).cfg.powerW.toNat < 2001 ∧ mayWrite { lease := { valid := true } } (.crier 0) = true ∧
    mayWrite { host := { agreed := 0x2000 } } .host = true := by decide +kernel
theorem meets_trip_streams : noStreams (awned 3 0) := noStreams_of_none _ rfl
theorem test_divider : gives (exec (.dividerSwitch 1) { dev := awned 3 8 }) (fun d =>
    divOf d 1 == 8 && !pausedDie d 1 && d.awning.steps == 1 && (d.src 96).pend) = true := by decide +kernel
theorem meets_sags : (let d : Dev := { pwr := { sags := [(0, 1), (3, 2)], recentWarnings := [(1, [0, 0, 0])] } }
    d.pwr.asleep ≠ 2 ∧ ((Tab.get [] d.pwr.recentWarnings 1).filter (fun w => decide (d.wall < w + 1650000))).length = 3 ∧
      (0, 1) ∈ d.pwr.sags ∧ ((Tab.get [] d.pwr.recentWarnings 0).filter (fun w => decide (d.wall < w + 1650000))).length < 3) ∧
    (awned 8 0).causeOf 1 &&& 8 ≠ 0 := by decide +kernel
theorem test_fourth_warning : gives (exec (.sagWarning 0 1) { dev := { pwr := { recentWarnings := [(1, [0, 0, 0])] } } }) (fun d =>
    targetOf d 1 == 5 && pausedDie d 1 && !pausedDie d 0) = true := by decide +kernel

/-! ### Events (18), integrity and registers (19), power and resets (20) -/

/-- Source 5 is pending and routed to crier 1 and the vectors from 4, with a vector's message and a crier's queue. -/
def pending5 (en : BitVec 8) (x : EvtSrc) : Dev :=
  { cfg := { evt := [(5, { criers := 2, vecFirst := 4, vecCount := 1, mask := false })] }
    evt := { enabled := en, srcs := [(5, x)], queues := [(1, [(9, 3)])] }, host := { rate := 5, msixEnable := true, msixMask := [(4, false)], msixPend := [(4, true)] }, lease := { valid := true } }
def raised5 : EvtSrc := { pend := true, code := 7, next := 0 }
theorem meets_events : reservedSource 5 = false ∧ (∃ n, n < 1024 ∧ reservedSource n = true) ∧ (({} : Dev).src 5).pend = false ∧
    ((pending5 2 raised5).src 5).active = false ∧ ((pending5 2 { raised5 with active := true, count := 254 }).src 5).count < 255 ∧
    (pending5 2 raised5).evt.retention = none ∧ ({ evt := { retention := some {} } } : Dev).evt.retention = some {} :=
  ⟨by decide +kernel, ⟨(List.range 1024).find? (reservedSource ·) |>.getD 0, by decide +kernel⟩, by decide +kernel⟩
theorem meets_delivery : (∀ e ∈ [(2, 1, 0), (0, 12, 11)], (let d := pending5 e.1 raised5
    let g : Nat := e.2.1
    d.evt.frozen = false ∧ Tab.wf ({} : EvtSrc) d.evt.srcs = true ∧ due d 5 = true ∧ (∀ m ∈ List.range 5, due d m = false) ∧
      e.2.2 < 264 ∧ g = ((d.src 5).next + 1 + e.2.2) % 264 ∧ (inTargetSet (d.route 5) g && targetEnabled d g) = true ∧
      (∀ i ∈ List.range e.2.2, (inTargetSet (d.route 5) (((d.src 5).next + 1 + i) % 264) &&
        targetEnabled d (((d.src 5).next + 1 + i) % 264)) = false))) ∧
    Tab.get [] (pending5 2 raised5).evt.queues 1 = (9, 3) :: [] ∧ Tab.get [] (pending5 2 raised5).evt.queues 0 = [] ∧
    Tab.get false (pending5 2 raised5).host.msixPend 4 = true := by decide +kernel
theorem test_to_crier : gives (exec (.eventDelivery false) { dev := pending5 2 raised5 }) (fun d =>
    d.src 5 == { raised5 with active := true, next := 1 } && Tab.get [] d.evt.queues 1 == [(9, 3), (5, 7)]) = true := by decide +kernel
theorem test_to_vector : gives (exec (.eventDelivery false) { dev := pending5 0 raised5 }) (fun d =>
    d.src 5 == { raised5 with pend := false, next := 12 } && d.evt.messages == [(4, (0, 0))]) = true := by decide +kernel
theorem test_clear_redelivers : gives (exec (.evtPendClr (.crier 0) 0 0x20) { dev := pending5 2 { raised5 with active := true, reraise := true } }) (fun d =>
    d.src 5 == { raised5 with pend := true }) = true := by decide +kernel
theorem test_disable : gives (exec (.evtCrierClr (.crier 0) 2) { dev := pending5 2 { raised5 with active := true, next := 1 } }) (fun d =>
    d.evt.enabled == 0 && !(d.src 5).active && Tab.get [] d.evt.queues 1 == []) = true := by decide +kernel

/-- Core 3 serves slot 3 of context 0's task; an operation is in flight and its issue is late. -/
def lateCore : Dev := { runsIn {} { late := [(3, 1)] } with cores := [(3, { vxQ := [{ ctx := 0, slot := 3, op := 1 }] })], wall := 10 }
theorem meets_logic_faults : ((3, 1) ∈ lateCore.seq.late ∧ (∀ e ∈ [0, 1, 2], (4, e) ∉ lateCore.seq.late) ∧ pausedDie lateCore 0 = false ∧ lateCore.seq.running = some 0 ∧
    (lateCore.ctx 0).phase = .running ∧ lateCore.seq.replay = none ∧ (lateCore.core 3).vxQ ≠ [] ∧ servingCores lateCore 3 = [3]) ∧
    slotsOfCore lateCore 3 = [3] ∧ Tab.get none lateCore.err.coreFaultAt 3 = none ∧ ({} : Dev).seq.running = none := by decide +kernel
theorem test_late_core_replays : gives (exec (.issueHoldTimeout 3) { dev := lateCore }) (fun d =>
    d.seq.late == [] && d.seq.replay == some { ctx := 0, slots := [(3, 0)], kind := .coreLogic, core := 3, escape := true }) = true := by
  decide +kernel
theorem meets_votes : (∀ i ∈ [0, 1, 2], Tab.get false ({} : Dev).err.copiesOff i = false) ∧
    (let d : Dev := { err := { copyFaultAt := [(1, some 5)], copiesOff := [(2, true)] }, wall := 6 }
     Tab.get none d.err.copyFaultAt 1 = some 5 ∧ d.wall ≤ 5 + failWindow d ∧ Tab.get false d.err.copiesOff 2 = true ∧ Tab.get false d.err.copiesOff 1 = false ∧
       5 + failWindow d < { d with wall := 6 + failWindow d }.wall) ∧
    windowOwner engine 0x100 = some 0 ∧ (engine.ctx 0).abort = none ∧ windowOwner {} 0x100 = none := by decide +kernel
theorem test_scrub_aborts : gives (exec (.sramScrub 0 0 0 [0x104]) { dev := engine }) (fun d =>
    (d.ctx 0).abort == some (.checksumMismatch, 3 * 2 ^ 30 + 0x20) && d.badSram == [0x100]) = true := by decide +kernel
theorem meets_injection : (let d : Dev := { lease := { valid := true }, clusters := [(0, { bound := [8, 1, 2, 3, 4, 5, 6, 7] })] }
    leads d 0 = true ∧ leads d 3 = false ∧ slotsOfCore d 0 = [] ∧ slotsOfCore d 1 ≠ [] ∧ (d.adderBank 0).chunks = []) ∧
    ((reducing [chunk0]).adderBank 0).chunks ≠ [] := by decide +kernel
theorem meets_register_writes : expert {} = false ∧ mayWrite { lease := { valid := true } } (.crier 1) = true ∧
    (let d : Dev := { tills := [(0, { enable := true, cur := some (pkt 0) })] }
     (d.till 0).enable = true ∧ (d.till 0).cur ≠ none ∧ (d.till 1).enable = false) ∧ (0 : BitVec 64).getLsbD 63 = false ∧
    (0x500000 : BitVec 64).extractLsb' 0 20 = 0 := by decide +kernel
theorem test_window_zero : gives (exec (.registerWrite (.crier 0) .mxFailWindow 0x500000) { dev := { lease := { valid := true } } }) (fun d =>
    d.cfg.mxFailWindow == 1) = true := by decide +kernel
theorem test_count_read : gives (exec (.vxBusyRead 143) { dev := { cores := [(143, { vxBusy := 7 })] } }) (fun d =>
    d.readData == 7 && d.cores == []) = true := by decide +kernel

def asleep (n : Nat) : Dev :=
  { pwr := { asleep := n, darkValid := true, resetLow := false }, evt := { frozen := true, retention := some { enabled := 3 } } }
theorem meets_power : (let d : Dev := { cfg := { shutterEn := true }, pwr := { shutter := 4, want := 1 } }
    d.cfg.shutterEn = true ∧ d.pwr.asleep = 0 ∧ dieIdle d 0 = true ∧ d.pwr.shutter.getLsbD 2 = true ∧ canSleep d = true ∧
      canSleep { d with ctxs := (runs {}).ctxs } = false) ∧ ({ pwr := { want := 2 } } : Dev).pwr.want = 2 ∧
    (asleep 1).pwr.asleep = 1 ∧ (asleep 2).pwr.darkValid = true ∧ (asleep 2).evt.retention = some { enabled := 3 } ∧
    (∀ p ∈ [0, 1, 2, 3], ((asleep 2).pool p).seqs = 0) := by decide +kernel
theorem test_close_wake : gives (exec .closeWake { dev := asleep 1 }) (fun d =>
    d.pwr.asleep == 0 && d.evt.enabled == 3 && !d.evt.frozen && d.evt.restored == 1) = true := by decide +kernel
theorem meets_resets : (let d : Dev := { pwr := { starting := true }, lease := { valid := true }, stks := (List.range 12).map (fun k => (k, { trained := true })) }
    d.pwr.resetLow = true ∧ d.pwr.asleep ≠ 2 ∧ d.pwr.starting = true ∧ d.lease.valid = true ∧ (∀ k ∈ List.range 12, (d.stk k).trained = true) ∧
      Tab.wf ({} : Ctx) d.ctxs = true ∧ mayWrite d (.crier 0) = true) := by decide +kernel
theorem meets_reset_streams : noStreams {} := noStreams_of_none _ rfl
def starting12 : Dev :=
  { pwr := { starting := true }, lease := { valid := true }, stks := (List.range 12).map (fun k => (k, { trained := true }))
    losses := [{ stack := 2, chan := 5, band := 1, phase := 3 }] }
theorem test_publish : gives (exec .startupPublish { dev := starting12 }) (fun d =>
    d.shape.published && d.shape.stackCap[2]? == some (0x0C00000000 - chanBytes) && d.shape.stackCap[3]? == some 0x0C00000000) = true := by
  decide +kernel
def worn : Dev :=
  { lease := { valid := true }, cfg := { predictEn := true, wearReplays := 1 }, pwr := { coreCheck := [(4, true)] }
    err := { retries24h := [(9, [0])] } }
theorem meets_core_resets : (let d := worn
    mayWrite d (.crier 0) = true ∧ d.seq.running = none ∧ (d.cluster 0).retired.getLsbD 4 = false ∧ Tab.get false d.pwr.coreCheck 4 = true ∧
      d.cfg.wearReplays.toNat ≤ retriesIn24h d 9 ∧ (d.cluster 1).coreOk.getLsbD 0 = true ∧ (d.cluster 1).spareList ≠ []) ∧
    (({ clusters := [(1, { coreOk := 0xFF })] } : Dev).cluster 1).spareList = [] := by decide +kernel

/-- A command at the front of the queue is executed with the rest of it. -/
theorem meets_canonical_step : MemoryCanonical { dev := stackDev, pending := [.stackWrite 0x1000000000 [1, 0]] } ∧
    gives (step { dev := stackDev, pending := [.stackWrite 0x1000000000 [1, 0]] }) (fun d => d.mem == [(0x1000000000, 1)]) = true := by
  refine ⟨?_, by decide +kernel⟩
  unfold MemoryCanonical; decide +kernel
theorem meets_queue : ∀ c ∈ [Instr.cxlSnoop, .copy 0 pt0, .leaseExpiry], c.wellFormed = true := by decide +kernel
theorem test_queue : answers (step { dev := {}, pending := [.cxlSnoop, .leaseExpiry] }) { dev := { host := { snoops := 1 } }, pending := [.leaseExpiry] } =
    true := by decide +kernel
/-- No unit raises a doorbell (R428). -/
theorem test_doorbell : answers (exec (.eventRaise 352 0) { dev := {} }) { dev := {} } = true ∧ reservedSource 352 = false := by decide +kernel

/-! ### Further witnesses: the window, holds, listed writes, orders that wait, aborts that END precedes -/

theorem meets_window_hole : (∀ o ∈ [0x50000000, 0x10900000, 0x1040FFFF + 0x40000], blockOf o = .hole) ∧ blockOf 0x23410008 = .hole ∧
    blockOf 0x20410008 = .cluster 5 8 ∧ blockOf 0x408230FF = .core 143 0xFF := by decide +kernel
theorem test_offset_retires : gives (exec (.registerWrite (.crier 5) (.address 0x20410008) 0x101) { dev := { criers := [(5, { state := 2 })] } })
    (fun d => (d.cluster 5).retired == 0x101) = true := by decide +kernel
theorem test_offset_shows_map : (managementRead .host 0x10400004 { clusters := [(0, { coreOk := 0xFF })] }).readData =
    clusterStatus { clusters := [(0, { coreOk := 0xFF })] } 0 := by decide +kernel

/-- The next bundle is a satisfied bell with a COPY in it, and the slot's porter has no free entry. -/
def bellHeld : Dev := { runs { prog := some { bundles := [0x101 * 2 ^ 208 + 0x10], descs := [oneElem] }, masks := [(1, 1)], tokens := [(7, 2)] } with
  cores := [(0, fullPorter)] }
theorem meets_bell_without_porter : issuing bellHeld 0 = true ∧ replaying bellHeld = false ∧ bellSatisfied (bellHeld.ctx 0) (bellOn 7 2) = true ∧
    bellReady bellHeld 0 = false := by decide +kernel
/-- Two sequencers whose runs of bundles have different hashes; whether two runs do is open (R48). -/
def twoRuns (a b : List Nat) : Dev := runsIn sc0 { mode := .issuing, issued := [(0, a), (1, b)] }
theorem meets_hash_difference (h : Config.seqHash [5] ≠ Config.seqHash [4]) : hashDiffers (twoRuns [4] [5]) ≠ none := by
  have g : (Config.seqHash [5] == Config.seqHash [4]) = false := by simpa using h
  simp [hashDiffers, twoRuns, runsIn, Tab.get, g]

theorem meets_landing_entries : (let d := moving bar0 (.bpush 0 pt1) 2 (some 32)
    (d.entry 0 6).own = 0 ∧ waitsIntent d 0 6 = false ∧ (d.entry 0 6).slot = 0 ∧ (d.entry 0 6).step = 0) ∧
    oneRegion 0x40000 65536 ∧ oneRegion 0x1000000000 65536 ∧ oneRegion 0x50000 65536 ∧
    physical (porter bar0) 0x1000000000 = 0x1000000000 :=
  ⟨by decide +kernel, Or.inl (by decide), Or.inl (by decide), Or.inl (by decide), by decide +kernel⟩
/-- An armed entry whose push waits for its acknowledgement. -/
theorem meets_push_acknowledged : (let d := { moving { bar0 with armed := [{ armed0 with pushOp := some 3 }] } (.bpushoff 0 pt1) 2 none with seq := { running := some 0 } }
    (d.bar 0 0).armed.map (·.pushOp) = [some 3] ∧ (d.op 3).isSome = true ∧ issue0.k = 0) := by decide +kernel
theorem meets_open_transfers : ((hostCopy 2).entry 0 6).own = 0 ∧ endIssued (hostCopy 2) 0 = false ∧ (hostCopy 2).seq.dispatch ≠ some 0 := by decide +kernel

/-- A COPY whose destination is an object in the stacks; `n` partial writes are listed in its group before it. -/
def listing (n : Nat) : Dev :=
  { moving bar0 (.copy 0 { pt1 with oparg := 0 }) 1 none with
    homes := [(0, { home0 with contexts := 0xFFFF })]
    ptOps := [(3, some { instr := .copy 0 { pt1 with oparg := 0 }, ctx := 0, token := none
                         parts := [{ at_ := { issue0 with bases := [(0, 0x100), (2, 0x1000000000)] }, steps := 1 }] })]
    intent := if n = 0 then [] else [((lineOfBlock {} 0x1000010000).1, List.replicate n { core := 1, entry := 0, line := 0, blocks := [] })] }
theorem meets_listed_writes : (∀ n ∈ [0, 63, 64], (let d := listing n
    (d.entry 0 6).state = 1 ∧ (d.op 3).isSome = true ∧ (d.entry 0 6).step = 0 ∧ d.badSram = [] ∧ d.badBlocks = [] ∧
      (∀ j ∈ List.range 4, isName (0x1000000000 + j) = true ∧ homeAt d (0x1000000000 + j) = some (0, { home0 with contexts := 0xFFFF }) ∧
        home0.addr j = 0x1000010000 + j ∧ populated d (0x1000010000 + j) = true ∧ isStack (0x1000010000 + j) = true) ∧
      Tab.wf ([] : List Intent) d.intent = true ∧ (Tab.get [] d.intent (lineOfBlock d 0x1000010000).1).length = n ∧
      ∀ q ∈ d.intent, ∀ y ∈ q.2, ¬(y.core = 0 ∧ y.entry = 6))) ∧ inStore engine 0 0 0x100 4 :=
  ⟨by decide +kernel, inStore_of _ _ _ 0 _ _ rfl (by decide +kernel)⟩
theorem test_write_waits_its_turn : [63, 64].map (fun n => gives (exec (.transferIssue 0 6) { dev := listing n }) (fun d => waitsIntent d 0 6)) =
    [false, true] := by decide +kernel

/-- Complex A leads; of the dies' criers only die 0's runs. -/
def oneDie : Dev := { port0 0 with criers := [(4, { state := 2 })] }
theorem meets_waiting_orders : leads oneDie 0 = true ∧ dieCrierRuns oneDie 0 = true ∧ dieCrierRuns oneDie 1 = false ∧ mayWrite oneDie (.crier 0) = true ∧
    mayWrite { host := { agreed := 0x2000 } } .host = true ∧ oneDie.seq.running ≠ none ∧ (3, false) ∉ oneDie.seq.adopt := by decide +kernel
theorem test_order_waits : gives (exec (.coreReset (.crier 0) 36) { dev := oneDie }) (fun d => d.waiting == [(1, .coreReset (.crier 0) 36)]) = true := by
  decide +kernel
theorem meets_carried_out : (let d := { worn with criers := [(4, { state := 2 })] }
    dieCrierRuns d 0 = true ∧ leads d 0 = true ∧ d.seq.adopt = [] ∧ (d.cluster 0).retired.getLsbD 4 = false ∧ (∀ t, (d.ctx t).phase = .idle)) ∧
    dieCrierRuns { worn with criers := [(4, { state := 2 })] } 3 = false := by decide +kernel
theorem meets_injected : (let d : Dev := { lease := { valid := true }, criers := [(4, { state := 2 })], clusters := [(0, { bound := [8, 1, 2, 3, 4, 5, 6, 7] })] }
    leads d 0 = true ∧ dieCrierRuns d 0 = true ∧ slotsOfCore d 0 = [] ∧ slotsOfCore d 1 ≠ [] ∧ (d.adderBank 0).chunks = []) ∧
    dieCrierRuns { lease := { valid := true } } 0 = false := by decide +kernel
theorem meets_sent_packets : endIssued (sentBy 0) 0 = false ∧ (sentBy 0).seq.dispatch ≠ some 0 ∧ tagPc (sentBy 0) packet = 0 := by decide +kernel
theorem meets_bad_identity : ({ port0 2 with sec := { identity := 5, idBad := true } } : Dev).sec.idBad = true ∧ (port0 2).sec.idBad = false := by
  decide +kernel
/-- A task that has aborted and drains, one whose END has issued. -/
theorem meets_late_notice : (let d := runs { abort := some (.badParam, 0) }
    (d.ctx 0).abort ≠ none ∧ (d.ctx 0).stopDue = false) ∧ endIssued endsNow 0 = true ∧ ((runs {}).ctx 0).started = true ∧
    endIssued (reducing []) 0 = false ∧ (reducing []).seq.dispatch ≠ some 0 := by decide +kernel
theorem meets_landed_windows : windowOwner engine 0x100 = some 0 ∧ endIssued engine 0 = false ∧ engine.seq.dispatch ≠ some 0 := by decide +kernel
end Sys2Proof.Tests
end

/-! Lemmas and proof for the hub register MX_FAIL_WINDOW (R86): its WINDOW field, and the write that a source with the right
to the hub's registers makes. -/

namespace Sys2Proof.Machine

/-- The bits that `field` reads of a machine word are the word's slice. -/
theorem field_toNat {n : Nat} (v : BitVec n) (lo k : Nat) : field v.toNat (lo + k) lo = (v.extractLsb' lo (k + 1)).toNat := by
  have width : lo + k + 1 - lo = k + 1 := by omega
  rw [field, width, BitVec.extractLsb'_toNat, Nat.shiftRight_eq_div_pow]

/-- A nonzero field is stored as written. -/
theorem fld1_of_extract_ne_zero {n : Nat} (v : BitVec n) (lo k : Nat) (h : v.extractLsb' lo (k + 1) ≠ 0) :
    fld1 (k + 1) v.toNat (lo + k) lo = v.extractLsb' lo (k + 1) := by
  have pos : 1 ≤ (v.extractLsb' lo (k + 1)).toNat := Nat.pos_of_ne_zero fun z => h (BitVec.eq_of_toNat_eq z)
  rw [fld1, field_toNat, Nat.max_eq_right pos, BitVec.ofNat_toNat, BitVec.setWidth_eq]

/-- A field of zeros is stored as 1. -/
theorem fld1_of_extract_eq_zero {n : Nat} (v : BitVec n) (lo k : Nat) (h : v.extractLsb' lo (k + 1) = 0) :
    fld1 (k + 1) v.toNat (lo + k) lo = 1 := by
  rw [fld1, field_toNat, h]
  rfl

/-- A write of the retained configuration by a source that may write the hub's registers changes the configuration alone. -/
theorem cfgWrite_acts (d : Dev) (src : Source) (f : Cfg → Cfg) (h : mayWrite d src = true) :
    cfgWrite src f d = { d with cfg := f d.cfg } :=
  hubWrite_acts d src _ h

/-- The write of MX_FAIL_WINDOW stores the field WINDOW in the configuration and changes nothing else. -/
theorem exec_write_mxFailWindow (s : State) (src : Source) (v : BitVec 64) (h : mayWrite s.dev src = true) :
    exec (.registerWrite src .mxFailWindow v) s =
      .next { s with dev := { s.dev with cfg := { s.dev.cfg with mxFailWindow := fld1 20 v.toNat 19 0 } } } := by
  have meaning : exec (.registerWrite src .mxFailWindow v) s =
      s.upd (cfgWrite src (fun c => { c with mxFailWindow := fld1 20 v.toNat 19 0 })) := rfl
  rw [meaning, State.upd, cfgWrite_acts s.dev src _ h]

/-- Settles O57: the write stores WINDOW, which is the slice itself where that is not zero, and 1 where it is (R86). -/
theorem failWindowIsWritten : Obligations.FailWindowIsWritten := by
  refine ⟨rfl, fun s src v h => ⟨fld1 20 v.toNat 19 0, exec_write_mxFailWindow s src v h, ?_, ?_⟩⟩
  · exact fld1_of_extract_ne_zero v 0 19
  · exact fld1_of_extract_eq_zero v 0 19

end Sys2Proof.Machine

/-! Lemmas and proof for VX_INJECT and TX_INJECT (R147): who orders a die's unit alone, when such an order waits in the hub, and
the injection that is armed on a core. -/

namespace Sys2Proof.Machine

/-- The source is the hub complex that holds a valid lease. -/
def FromLeader (d : Dev) (src : Source) : Prop := ∃ x : CrierId, src = .crier x ∧ leads d x = true

/-- The write is ignored and logged; beside the log at most the count of writes of a hub complex without the lease differs
(R409). -/
def OnlyLogged (d d' : Dev) : Prop :=
  d'.logged = d.logged + 1 ∧ { d' with logged := d.logged, lease := d.lease } = d ∧
    { d'.lease with demotions := d.lease.demotions } = d.lease

theorem onlyLogged_logIgnored (d : Dev) : OnlyLogged d (logIgnored d) := ⟨rfl, rfl, rfl⟩

theorem onlyCore_modCore (d : Dev) (n : Nat) (f : Core → Core) : OnlyCore n d (d.modCore n f) :=
  ⟨rfl, fun u hu => modCore_core_ne d n u f hu⟩

/-! ### Orders of the leading complex alone (R85, R147, R346) -/

/-- A crier's order follows the common rule of hub registers, which lets the leading complex alone act. -/
theorem dieLeadWrite_crier (cmd : Instr) (x : CrierId) (die : Nat) (act : Dev → Dev) (d : Dev) :
    dieLeadWrite cmd (.crier x) die act d = hubWrite (.crier x) (dieAction cmd die act) d := rfl

theorem dieLeadWrite_fromLeader (cmd : Instr) (src : Source) (die : Nat) (act : Dev → Dev) (d : Dev) (h : FromLeader d src) :
    dieLeadWrite cmd src die act d = dieAction cmd die act d := by
  obtain ⟨x, rfl, hx⟩ := h
  rw [dieLeadWrite_crier, hubWrite_acts d (.crier x) _ hx]

theorem dieLeadWrite_not_fromLeader (cmd : Instr) (src : Source) (die : Nat) (act : Dev → Dev) (d : Dev) (h : ¬ FromLeader d src) :
    OnlyLogged d (dieLeadWrite cmd src die act d) := by
  cases src with
  | host => exact onlyLogged_logIgnored d
  | crier x =>
    have refused : mayWrite d (.crier x) = false := Bool.eq_false_iff.mpr fun hx => h ⟨x, rfl, hx⟩
    exact hubWrite_ignored d (.crier x) (dieAction cmd die act) refused

/-! ### Actions on the units of a die (R12, R412) -/

theorem dieAction_of_runs (cmd : Instr) (die : Nat) (act : Dev → Dev) (d : Dev) (h : dieCrierRuns d die = true) :
    dieAction cmd die act d = act d := if_pos h

theorem dieAction_of_not_runs (cmd : Instr) (die : Nat) (act : Dev → Dev) (d : Dev) (h : ¬ dieCrierRuns d die = true) :
    dieAction cmd die act d = { d with waiting := d.waiting ++ [(die, cmd)] } := if_neg h

/-! ### The injection on a core (R85, R147) -/

theorem coreBound_iff (d : Dev) (core : Nat) : coreBound d core = true ↔ slotsOfCore d core ≠ [] := by
  simp [coreBound]

theorem injectCore_of_unbound (core : Nat) (f : Core → Core) (d : Dev) (h : slotsOfCore d core = []) :
    injectCore core f d = d.modCore core f :=
  if_neg fun bound => (coreBound_iff d core).mp bound h

theorem injectCore_of_bound (core : Nat) (f : Core → Core) (d : Dev) (h : slotsOfCore d core ≠ []) :
    injectCore core f d = logIgnored d := if_pos ((coreBound_iff d core).mpr h)

/-- VX_INJECT and TX_INJECT are one order to the core's die, which differs in the engine whose injection is armed. -/
theorem exec_vxInject_or_txInject (s : State) (src : Source) (c : CoreId) (i : Instr) (f : Core → Core)
    (h : (i = .vxInject src c ∧ f = fun y => { y with vxInject := true }) ∨
      (i = .txInject src c ∧ f = fun y => { y with txInject := true })) :
    exec i s = .next { s with dev := dieLeadWrite i src (c.val / 36) (injectCore c.val f) s.dev } := by
  obtain ⟨rfl, rfl⟩ | ⟨rfl, rfl⟩ := h
  · rfl
  · rfl

/-- The leading complex's order to a core without a slot arms that core alone. -/
theorem dieLeadWrite_injectCore_arms (cmd : Instr) (src : Source) (die core : Nat) (f : Core → Core) (d : Dev)
    (led : FromLeader d src) (unbound : slotsOfCore d core = []) (runs : dieCrierRuns d die = true) :
    dieLeadWrite cmd src die (injectCore core f) d = d.modCore core f := by
  rw [dieLeadWrite_fromLeader cmd src die _ d led, dieAction_of_runs cmd die _ d runs, injectCore_of_unbound core f d unbound]

/-- An order that is not the leading complex's, or that reaches a core with a slot, is ignored and logged. -/
theorem dieLeadWrite_injectCore_ignored (cmd : Instr) (src : Source) (die core : Nat) (f : Core → Core) (d : Dev)
    (h : ¬ (FromLeader d src ∧ slotsOfCore d core = [])) (reached : dieCrierRuns d die = true ∨ ¬ FromLeader d src) :
    OnlyLogged d (dieLeadWrite cmd src die (injectCore core f) d) := by
  by_cases led : FromLeader d src
  · have bound : slotsOfCore d core ≠ [] := fun unbound => h ⟨led, unbound⟩
    have runs : dieCrierRuns d die = true := reached.resolve_right (not_not_intro led)
    rw [dieLeadWrite_fromLeader cmd src die _ d led, dieAction_of_runs cmd die _ d runs, injectCore_of_bound core f d bound]
    exact onlyLogged_logIgnored d
  · exact dieLeadWrite_not_fromLeader cmd src die _ d led

/-- Settles O56: the order arms the core, is logged, or waits, as its source, the core's slots and the die's crier decide. -/
theorem injectWritesAreGuarded : Obligations.InjectWritesAreGuarded := by
  intro s src c i f hi
  rw [exec_vxInject_or_txInject s src c i f hi]
  refine ⟨?arms, ?ignored, ?waits⟩
  case arms =>
    rintro ⟨led, unbound⟩ runs
    rw [dieLeadWrite_injectCore_arms i src _ c.val f s.dev led unbound runs]
    exact ⟨_, rfl, onlyCore_modCore s.dev c.val f, modCore_core s.dev c.val f⟩
  case ignored =>
    intro notMeant reached
    exact ⟨_, rfl, dieLeadWrite_injectCore_ignored i src _ c.val f s.dev notMeant reached⟩
  case waits =>
    intro led stopped
    rw [dieLeadWrite_fromLeader i src _ _ s.dev led, dieAction_of_not_runs i _ _ s.dev stopped]

end Sys2Proof.Machine

/-! Lemmas and proof for EVENT_RAISE (R431, R436): the effects of a raise on its source, and where a raise lands while the
event controller runs and while it is saved. -/

namespace Sys2Proof.Machine

/-! ### The three effects on the source (R431) -/

theorem raiseSrc_of_not_pend (code : BitVec 32) (e : EvtSrc) (h : e.pend = false) :
    raiseSrc code e = { e with pend := true, code := code, count := 0 } := by
  simp [raiseSrc, h]

theorem raiseSrc_of_not_active (code : BitVec 32) (e : EvtSrc) (h : e.pend = true) (idle : e.active = false) :
    raiseSrc code e = { e with count := min (e.count + 1) 255 } := by
  simp [raiseSrc, h, idle, satAdd]

theorem raiseSrc_of_active (code : BitVec 32) (e : EvtSrc) (h : e.pend = true) (held : e.active = true) (room : e.count < 255) :
    raiseSrc code e = { e with reraise := true, count := e.count + 1 } := by
  have count : satAdd 8 e.count 1 = e.count + 1 := Nat.min_eq_left room
  simp [raiseSrc, h, held, count]

/-! ### Where a raise lands (R436, R499) -/

/-- The device once a raise of source `n` has pulsed MGMT_ALERT_N, which sources 96 to 99 alone do. -/
def alertPulsed (n : Nat) (d : Dev) : Dev :=
  { d with pwr := { d.pwr with alertPulses := d.pwr.alertPulses + (if 96 ≤ n ∧ n ≤ 99 then 1 else 0) } }

theorem ite_pulse_eq_alertPulsed (n : Nat) (d : Dev) :
    (if 96 ≤ n && n ≤ 99 then { d with pwr := { d.pwr with alertPulses := d.pwr.alertPulses + 1 } } else d) = alertPulsed n d := by
  by_cases h : 96 ≤ n ∧ n ≤ 99
  · simp [alertPulsed, h]
  · simp [alertPulsed, h]

theorem raiseEvent_of_reserved (n code : Nat) (d : Dev) (h : reservedSource n = true) : raiseEvent n code d = d := if_pos h

/-- While the controller runs, the raise changes the source. -/
theorem raiseEvent_of_running (n code : Nat) (d : Dev) (h : reservedSource n = false) (running : d.evt.retention = none) :
    raiseEvent n code d = (alertPulsed n d).modSrc n (raiseSrc (BitVec.ofNat 32 code)) := by
  have kept : (alertPulsed n d).evt.retention = none := running
  simp only [raiseEvent, h, Bool.false_eq_true, if_false, ite_pulse_eq_alertPulsed, kept]

/-- While the controller is saved, the raise changes the source's retention copy. -/
theorem raiseEvent_of_saved (n code : Nat) (d : Dev) (r : EvtSave) (h : reservedSource n = false) (saved : d.evt.retention = some r) :
    raiseEvent n code d = { alertPulsed n d with evt := { d.evt with
      retention := some { r with srcs := Tab.mod {} r.srcs n (raiseSrc (BitVec.ofNat 32 code)) } } } := by
  have kept : (alertPulsed n d).evt.retention = some r := saved
  simp only [raiseEvent, h, Bool.false_eq_true, if_false, ite_pulse_eq_alertPulsed, kept]
  rfl

theorem raiseEvent_alertPulses (n code : Nat) (d : Dev) (h : reservedSource n = false) :
    (raiseEvent n code d).pwr.alertPulses = d.pwr.alertPulses + (if 96 ≤ n ∧ n ≤ 99 then 1 else 0) := by
  cases m : d.evt.retention with
  | none => rw [raiseEvent_of_running n code d h m]; rfl
  | some r => rw [raiseEvent_of_saved n code d r h m]; rfl

/-- A raise refuses no write, so that it stays within what `OnlyEvents` lets differ. -/
theorem raiseEvent_onlyEvents (n code : Nat) (d : Dev) : OnlyEvents d (raiseEvent n code d) := by
  obtain ⟨others, power, -⟩ := raiseEvent_frame d n code
  have lease : (raiseEvent n code d).lease = d.lease := (congrArg Dev.lease others :)
  have rest := congrArg (fun x : Dev => { x with lease := d.lease, logged := d.logged }) others
  exact ⟨rest, power, by rw [lease]⟩

/-! ### The command -/

theorem doorbellSource_iff (n : Nat) : doorbellSource n = true ↔ 352 ≤ n ∧ n ≤ 383 := by simp [doorbellSource]

theorem exec_eventRaise (s : State) (n : SourceId) (code : BitVec 32) :
    exec (.eventRaise n code) s =
      .next { s with dev := if doorbellSource n.val then s.dev else raiseEvent n.val code.toNat s.dev } := rfl

theorem exec_eventRaise_of_doorbell (s : State) (n : SourceId) (code : BitVec 32) (h : doorbellSource n.val = true) :
    exec (.eventRaise n code) s = .next s := by
  rw [exec_eventRaise, if_pos h]

theorem exec_eventRaise_of_not_doorbell (s : State) (n : SourceId) (code : BitVec 32) (h : ¬ doorbellSource n.val = true) :
    exec (.eventRaise n code) s = .next { s with dev := raiseEvent n.val code.toNat s.dev } := by
  rw [exec_eventRaise, if_neg h]

/-- Settles O52: a reserved source and a doorbell stay as they are; any other raise lands in the source itself or, while the
controller is saved, in its retention copy. -/
theorem eventsAreRaised : Obligations.EventsAreRaised := by
  intro s n code
  refine ⟨fun refused => ?_, fun raisable unit => ?_⟩
  · by_cases bell : doorbellSource n.val = true
    · exact exec_eventRaise_of_doorbell s n code bell
    · have reserved : reservedSource n.val = true := refused.resolve_right fun h => bell ((doorbellSource_iff _).mpr h)
      rw [exec_eventRaise_of_not_doorbell s n code bell, raiseEvent_of_reserved _ _ _ reserved]
  · have notBell : ¬ doorbellSource n.val = true := fun h => unit ((doorbellSource_iff _).mp h)
    have latched : BitVec.ofNat 32 code.toNat = code := by rw [BitVec.ofNat_toNat, BitVec.setWidth_eq]
    obtain ⟨-, -, controller⟩ := raiseEvent_frame s.dev n.val code.toNat
    refine ⟨_, exec_eventRaise_of_not_doorbell s n code notBell, raiseEvent_onlyEvents _ _ _, controller,
      raiseEvent_alertPulses _ _ _ raisable, ?saved, ?running⟩
    case saved =>
      intro r saved
      rw [raiseEvent_of_saved _ _ _ r raisable saved, latched]
      exact ⟨rfl, rfl⟩
    case running =>
      intro running
      obtain ⟨raised, others⟩ := raiseEvent_src s.dev n.val code.toNat raisable running
      have stays : (raiseEvent n.val code.toNat s.dev).evt.retention = none := by
        rw [raiseEvent_of_running _ _ _ raisable running]
        exact running
      rw [raised, latched]
      exact ⟨stays, others, raiseSrc_of_not_pend code _, raiseSrc_of_not_active code _, raiseSrc_of_active code _⟩

end Sys2Proof.Machine
